-- ==== Sys2Proof/Word.lean ====
section
/-! DEFINITION. The words the spec's registers, buses and operands are made of. -/

namespace Sys2Proof

abbrev Byte := BitVec 8
/-- A 32-bit register (02 R52). -/
abbrev Word := BitVec 32
/-- A 64-bit value held as a lower and an upper word (02 R56). -/
abbrev DWord := BitVec 64

/-- A BAR0 page index: 4,096 pages of 4 KiB (02 R35). -/
abbrev PageIx := BitVec 12
/-- A physical tile site, 0 to 135 (01 R10). -/
abbrev SiteIx := BitVec 8
/-- A logical tile of the device, 0 to 127 (01 R9). -/
abbrev TileIx := BitVec 7
/-- A partition, 0 to 3 (01 R24). -/
abbrev PartIx := BitVec 2
/-- A Brekeger link, 0 to 15. -/
abbrev LinkIx := BitVec 4
/-- A memory controller: 0 to 7 tier F, 8 to 15 tier S (17 R580). -/
abbrev CtrlIx := BitVec 4
/-- The argument field of `BLK_CMD` (02 R47). -/
abbrev Arg := BitVec 24

/-- A read of a register window: the offset in its page, whether the window is BAR2, and whether the read is of 64 bits (02 R52,
R54). -/
structure RegRead where
  off : BitVec 12
  bar2 : Bool
  wide : Bool
  deriving DecidableEq, Repr

/-- What a write carries: 32 bits, or 64 bits as their lower and upper word (02 R52, R57). -/
inductive RegData where
  | word (v : Word)
  | wide (lo hi : Word)
  deriving DecidableEq, Repr

/-- A write of 64 bits. -/
def RegData.isWide : RegData → Bool
  | .word _ => false
  | .wide _ _ => true

end Sys2Proof
end

