-- ==== Sys2Proof/Syntax.lean ====
section
/-! DEFINITION. The commands of the VX4: one constructor for each row of spec/opcode_table.json, in the table's
order, with the operands the step needs. A stream instruction names its logical tile and the acycle `acy` of the
segment at which it issues (assumption log 9); the instruction word itself is fetched state. -/

namespace Sys2Proof

/-- One command, event or instruction step of the device. -/
inductive Instr where
  /-- NOP: Command 00h on any page does nothing and returns OK (R48). -/
  | nop (page : PageIx) (arg : Arg)
  /-- UNDEFINED_COMMAND: A BLK_CMD write with a code the page does not define returns UNSUPPORTED (R48). -/
  | undefinedCommand (page : PageIx) (code : Byte) (arg : Arg)
  /-- SITE_MAP_APPLY: Checks the staged site map and makes it the map in force, or refuses it and reloads the registers from the map in force (R16). -/
  | siteMapApply (arg : Arg)
  /-- PART_SET: Sets the partition count after its checks, clears every descriptor table and sets every seed to 0 (R25). -/
  | partSet (arg : Arg)
  /-- MODE_APPLY: Checks a requested power mode change and, if it passes, schedules the ACLK divider switch at a safe point (R608). -/
  | modeApply (arg : Arg)
  /-- DESC_CREATE: Validates the staged descriptor record and makes it live under its number, or refuses it and records the reason in DESC_FAIL (R203). -/
  | descCreate (p : PartIx) (arg : Arg)
  /-- DESC_DESTROY: Ends a live descriptor unless a rule requires BUSY (R198). -/
  | descDestroy (p : PartIx) (arg : Arg)
  /-- DESC_READ: Copies a live descriptor into the staging registers (R198). -/
  | descRead (p : PartIx) (arg : Arg)
  /-- IMAGE_LOAD: Seals the image allocation and starts the staged checks of a Stoec image (R387). -/
  | imageLoad (p : PartIx) (arg : Arg)
  /-- IMAGE_LOAD_COMPLETE: Completion of an image load: on OK the descriptors become live, the tile stores are initialised and STATE becomes loaded; on refusal the allocation is unsealed (R388). -/
  | imageLoadComplete (p : PartIx)
  /-- IMAGE_UNLOAD: Destroys the image's descriptors, unseals its allocation and empties the partition's image state (R390). -/
  | imageUnload (p : PartIx) (arg : Arg)
  /-- CTX_SAVE: Writes the partition context and its digest into the context allocation (R398). -/
  | ctxSave (p : PartIx) (arg : Arg)
  /-- CTX_RESTORE: Checks a saved context and, if it passes, relocates and restores the descriptors, LOCAL objects, seed and tile sections (R399). -/
  | ctxRestore (p : PartIx) (arg : Arg)
  /-- ALLOC_CREATE: Checks and creates an allocation in one tier, and starts a zero fill when ZERO is set (R433). -/
  | allocCreate (p : PartIx) (arg : Arg)
  /-- ALLOC_ZERO_COMPLETE: The zero fill of a new allocation finishes, with cached copies invalidated, and DONE is set (R434). -/
  | allocZeroComplete (p : PartIx)
  /-- ALLOC_RELEASE: Releases an allocation after invalidating its cached lines without write-back (R435). -/
  | allocRelease (p : PartIx) (arg : Arg)
  /-- ALLOC_QUERY: Writes the tier, base and size of the named allocation into the allocation registers (R432). -/
  | allocQuery (p : PartIx) (arg : Arg)
  /-- REMAP_ADD: Checks a staged row-repair record and applies it as a field record (R460). -/
  | remapAdd (k : CtrlIx) (arg : Arg)
  /-- REMAP_READ: Copies remap record k into REMAP_STAGE (R459). -/
  | remapRead (k : CtrlIx) (arg : Arg)
  /-- SLICE_CLEAN: Writes back every dirty line of a stack-cache slice (R448). -/
  | sliceClean (n : BitVec 4) (arg : Arg)
  /-- LINK_TRAIN: Starts training of a Brekeger link: lock, alignment and TRAIN-flit identity exchange (R493). -/
  | linkTrain (n : LinkIx) (arg : Arg)
  /-- LINK_DISABLE: Takes a link down and discards its queued and held packets (R495). -/
  | linkDisable (n : LinkIx) (arg : Arg)
  /-- TIME_ALIGN: Aligns the counter phase and count to the timing-tree root estimated through the parent link (R503). -/
  | timeAlign (arg : Arg)
  /-- CHORUS_START: A manager starts driving SYNCCLK and CHORUS_Q (R507). -/
  | chorusStart (arg : Arg)
  /-- CHORUS_STOP: A manager stops driving SYNCCLK and CHORUS_Q (R537). -/
  | chorusStop (arg : Arg)
  /-- CHORUS_ABORT: A manager announces ABANDON at the open check and ends its own launch (R688). -/
  | chorusAbort (arg : Arg)
  /-- HOST_SYNC_ADD: SYNC_EXEC operation ADD on a COUNTER or SEMAPHORE at its home (R527). -/
  | hostSyncAdd (up : BitVec 20)
  /-- HOST_SYNC_SET: SYNC_EXEC operation SET on a FLAG (R527). -/
  | hostSyncSet (up : BitVec 20)
  /-- HOST_SYNC_CLEAR: SYNC_EXEC operation CLEAR on a FLAG (R527). -/
  | hostSyncClear (up : BitVec 20)
  /-- HOST_SYNC_WAIT_GE: SYNC_EXEC WAIT_GE: returns whether the value is at least the argument (R527). -/
  | hostSyncWaitGe (up : BitVec 20)
  /-- HOST_SYNC_WAIT_SET: SYNC_EXEC WAIT_SET: returns whether the FLAG is set (R527). -/
  | hostSyncWaitSet (up : BitVec 20)
  /-- HOST_SYNC_WAIT_CLEAR: SYNC_EXEC WAIT_CLEAR: returns whether the FLAG is clear (R527). -/
  | hostSyncWaitClear (up : BitVec 20)
  /-- FETCH_ADD: Adds to a COUNTER and returns the old value to SYNC_RES (R527). -/
  | fetchAdd (up : BitVec 20)
  /-- ACQUIRE: Decrements a SEMAPHORE that is at least 1 and returns whether it did (R527). -/
  | acquire (up : BitVec 20)
  /-- HOST_SYNC_WRITE: WRITE of a sync object's value; on a LAUNCH object it arms the launch and relays LAUNCH messages (R531). -/
  | hostSyncWrite (up : BitVec 20)
  /-- HOST_SYNC_READ: READ of a sync object's value into SYNC_RES (R527). -/
  | hostSyncRead (up : BitVec 20)
  /-- CQ_RESET: Resets a partition's copy queue head, tail and state (R564). -/
  | cqReset (arg : Arg)
  /-- NB_ARM: Binds and arms a notification binding from the staging registers (R565). -/
  | nbArm (arg : Arg)
  /-- NB_DISARM: Disarms a notification binding (R565). -/
  | nbDisarm (arg : Arg)
  /-- WARM_RESET: Host command that begins a warm reset (R678). -/
  | warmReset (arg : Arg)
  /-- PART_RESET: Resets one partition's execution state, queues, sync objects and descriptor table (R684). -/
  | partReset (arg : Arg)
  /-- KEY_ENABLE: Enables the staged customer image-signing key and fills IMG_KEY_HASH (R705). -/
  | keyEnable (arg : Arg)
  /-- KEY_DISABLE: Disables the image-signing key (R705). -/
  | keyDisable (arg : Arg)
  /-- KEY_LOCK: Locks the image-signature policy until the next start (R705). -/
  | keyLock (arg : Arg)
  /-- ENABLE: Write of BLK_CONTROL.ENABLE makes the block take or refuse new work, subject to R45 (R42). -/
  | enable (page : PageIx) (v : Word)
  /-- QUIESCE: Write of BLK_CONTROL.QUIESCE makes the block finish work in flight and take no more (R42). -/
  | quiesce (page : PageIx) (v : Word)
  /-- QUIESCE_IDLE: A quiescing block becomes idle and BUSY falls (R42). -/
  | quiesceIdle (page : PageIx)
  /-- SELFTEST: Write of BLK_CONTROL.SELFTEST requests the block's self-test, or is refused (R590). -/
  | selftest (page : PageIx) (v : Word)
  /-- SELFTEST_END: A requested self-test ends and its result, OK or SELFTEST_FAILED, is posted (R44). -/
  | selftestEnd (page : PageIx) (ok : Bool) (faults : List (BitVec 7 × BitVec 7))
  /-- PWR_REQ: Write of BLK_CONTROL.PWR_REQ requests a power domain on or off, or is refused (R625). -/
  | pwrReq (page : PageIx) (v : Word)
  /-- POWER_DOMAIN_ON: A domain's power comes on: PWR_ON rises, registers reset and the block runs its readiness steps (R627). -/
  | powerDomainOn (page : PageIx)
  /-- POWER_DOMAIN_OFF: A domain's power goes off and its state is discarded (R628). -/
  | powerDomainOff (page : PageIx)
  /-- EVT_STICKY_CLEAR: W1C write to EVT_STICKY clears latched events and re-arms first-event records (R63). -/
  | evtStickyClear (page : PageIx) (v : Word) (again : List (BitVec 4 × Word × List Word))
  /-- COUNTER_CLEAR: Write of zero to CNT_LO clears the selected counter and its SAT (R72). -/
  | counterClear (page : PageIx) (v : Word) (inc : List (BitVec 4 × BitVec 7 × BitVec 24))
  /-- LOWER_WORD_READ: Read of the lower word of a 64-bit value latches the upper word into a snapshot (R56). -/
  | lowerWordRead (page : PageIx) (acc : RegRead)
  /-- UPPER_WORD_WRITE: 32-bit write to the upper word of a 64-bit RW value is held until the lower-word write (R57). -/
  | upperWordWrite (page : PageIx) (off : BitVec 12) (v : Word)
  /-- PARTIAL_REGISTER_WRITE: A write that does not enable all four bytes is ignored (R53). -/
  | partialRegisterWrite (page : PageIx) (off : BitVec 12)
  /-- REGISTER_WRITE: Write to a register that has no behaviour of its own (R54). -/
  | registerWrite (page : PageIx) (off : BitVec 12) (v : RegData)
  /-- LAUNCH_AT_WRITE: A completed write of LAUNCH_AT, through the launch page or BAR2, arms, replaces or cancels a launch, or records why not (R393). -/
  | launchAtWrite (p : PartIx) (bar2 : Bool) (hi : Option Word) (lo : Word)
  /-- DB_COPY_TAIL: Doorbell write of a new copy-queue tail (R564). -/
  | dbCopyTail (p : PartIx) (v : Word)
  /-- RNG_SEED_WRITE: A completed seed write sets the partition seed, or is held until the running schedule ends (R324). -/
  | rngSeedWrite (site : SiteIx) (hi : Option Word) (lo : Word)
  /-- SKINK_FIRST_CLEAR: Write of 1 to SKINK_FIRST.VALID clears and re-arms the Skink exception record (R311). -/
  | skinkFirstClear (site : SiteIx) (v : Word)
  /-- FAULT_INJECT_ARM: In factory test mode, arms injection of a fault into the next occurrences at the target (R672). -/
  | faultInjectArm (v : Word)
  /-- SITE_MAP_STAGE_WRITE: Write to LTILE_SITE_n or SITE_RETIRED_n stages a new map, subject to R17 and R588 (R728). -/
  | siteMapStageWrite (off : BitVec 12) (v : Word)
  /-- ARRAY_REPAIR_WRITE: Write of ARRAY_REPAIR, ignored while an image or self-test holds the tile and never undoing this start's repairs (R589). -/
  | arrayRepairWrite (site : SiteIx) (v : Word)
  /-- MODE_REQ_WRITE: Write of MODE_CTL.MODE_REQ raises VCORE_REQ to the higher setpoint (R608). -/
  | modeReqWrite (v : Word)
  /-- SYNC_OBJECT_DEFINE: Host write through the sync-object window defines an object, or is ignored (R525). -/
  | syncObjectDefine (n : BitVec 16) (field : BitVec 2) (v : RegData)
  /-- HOST_MEM_READ: A host CXL.mem read of 64 bytes through an HDM window (R551). -/
  | hostMemRead (decoder : BitVec 1) (offset : BitVec 52) (hold : Bool) (err1 err2 : List (BitVec 7 × Byte))
  /-- HOST_MEM_WRITE: A host CXL.mem write, merging into lines and fetching a partly covered absent line (R551). -/
  | hostMemWrite (decoder : BitVec 1) (offset : BitVec 52) (data : BitVec 512) (be : BitVec 64) (hold : Bool)
  /-- BISNP_RESPONSE: The host answers a back-invalidate snoop and the waiting device access proceeds (R555). -/
  | bisnpResponse (line : BitVec 52)
  /-- BISNP_TIMEOUT: No snoop response within 10 ms: the line is treated as invalidated (R555). -/
  | bisnpTimeout (line : BitVec 52)
  /-- COPY: A COPY entry at the queue head is validated and copies descriptor to descriptor (R558). -/
  | copyEntry (p : PartIx) (entry : BitVec 512) (done : Nat)
  /-- FETCH: A FETCH entry at the queue head is validated and writes packed host lines through a descriptor (R558). -/
  | fetchEntry (p : PartIx) (entry : BitVec 512) (lines : List (BitVec 576)) (done : Nat)
  /-- COPY_ENTRY_COMPLETE: A copy-queue entry finishes, the head advances and the completion vector fires if IRQ is set (R559). -/
  | copyEntryComplete (p : PartIx)
  /-- BEGIN: Firmware-transfer request that opens a transfer of the announced length (R567). -/
  | fwBegin (len : Word)
  /-- DATA: Firmware-transfer request that stores bytes at ascending gap-free offsets (R567). -/
  | fwData (off : Word) (bytes : List Byte)
  /-- END: Firmware-transfer request that verifies the image and starts the firmware, or refuses it (R576). -/
  | fwEnd
  /-- TEST_CHALLENGE: Returns a fresh 32-byte challenge for factory test unlock (R670). -/
  | testChallenge
  /-- TEST_UNLOCK: Verifies a signed unlock and enters factory test mode (R670). -/
  | testUnlock (sig : BitVec 512)
  /-- GET_VERSION: SPDM GET_VERSION request (R700). -/
  | spdmGetVersion
  /-- GET_CAPABILITIES: SPDM GET_CAPABILITIES request (R700). -/
  | spdmGetCapabilities
  /-- NEGOTIATE_ALGORITHMS: SPDM NEGOTIATE_ALGORITHMS request (R700). -/
  | spdmNegotiateAlgorithms
  /-- GET_DIGESTS: SPDM GET_DIGESTS request (R700). -/
  | spdmGetDigests
  /-- GET_CERTIFICATE: SPDM GET_CERTIFICATE request for slot 0 (R698). -/
  | spdmGetCertificate (slot : BitVec 4) (off len : BitVec 16)
  /-- CHALLENGE: SPDM CHALLENGE request signed with the identity key (R700). -/
  | spdmChallenge (slot : BitVec 4)
  /-- GET_MEASUREMENTS: SPDM GET_MEASUREMENTS: all measurements taken in one MCLK cycle, optionally signed (R701). -/
  | spdmGetMeasurements (index : Byte) (sign : Bool)
  /-- KEY_EXCHANGE: SPDM KEY_EXCHANGE request opening a session (R700). -/
  | spdmKeyExchange (session : Word)
  /-- FINISH: SPDM FINISH request (R700). -/
  | spdmFinish (session : Word)
  /-- END_SESSION: SPDM END_SESSION request (R700). -/
  | spdmEndSession (session : Word)
  /-- HEARTBEAT: SPDM HEARTBEAT request (R700). -/
  | spdmHeartbeat (session : Word)
  /-- KEY_UPDATE: SPDM KEY_UPDATE request (R700). -/
  | spdmKeyUpdate (session : Word)
  /-- IDE_KEY_PROGRAM: IDE_KM or CXL IDE_KM key programming inside a secured session (R708). -/
  | ideKeyProgram (session : Word) (stream dir set : BitVec 1) (key : BitVec 256)
  /-- IDE_INTEGRITY_FAIL: An IDE stream fails integrity or leaves the secure state and is handled as a host link going down (R709). -/
  | ideIntegrityFail (stream : BitVec 1)
  /-- SMBUS_BLOCK_READ: SMBus block read returning a thermal or telemetry register (R636). -/
  | smbusBlockRead (k : Byte)
  /-- BYPASS: JTAG BYPASS instruction (R723). -/
  | jtagBypass
  /-- IDCODE: JTAG IDCODE instruction (R723). -/
  | jtagIdcode
  /-- SAMPLE_PRELOAD: JTAG SAMPLE/PRELOAD instruction (R723). -/
  | jtagSamplePreload
  /-- EXTEST: JTAG EXTEST instruction, only while PERST# is asserted (R723). -/
  | jtagExtest
  /-- CLAMP: JTAG CLAMP instruction, only while PERST# is asserted (R723). -/
  | jtagClamp
  /-- HIGHZ: JTAG HIGHZ instruction, only while PERST# is asserted (R723). -/
  | jtagHighz
  /-- POWER_ON_HOLD_END: Every rail has been good for 1 ms with REFCLK toggling, and the power-on hold ends (R570). -/
  | powerOnHoldEnd (testEn : Bool)
  /-- PERST_ASSERT: PERST# asserted: fundamental reset clears the device state (R677). -/
  | perstAssert
  /-- PERST_DEASSERT: PERST# released, which can make the start (R571). -/
  | perstDeassert
  /-- SUPPLY_EXCURSION: A rail stays outside its window for more than 10 µs and the device returns to the power-on hold (R572). -/
  | supplyExcursion
  /-- SUPPLY_GLITCH: A rail excursion of at most 10 µs ends and is counted (R572). -/
  | supplyGlitch
  /-- PLL_UNLOCK: The root PLL loses lock, raising a FATAL event (R605). -/
  | pllUnlock
  /-- BOOT_ROM_DONE: The boot ROM finishes its identity-flash checks and sets READY on its pages (R573). -/
  | bootRomDone (puf : BitVec 2)
  /-- HOST_LINK_UP: CXL link training ends and the data link comes up, at a rate and width that decide service (R544). -/
  | hostLinkUp (rate width : BitVec 2) (below : Bool)
  /-- HOST_LINK_DOWN: The host link goes down without PERST#: host requests are discarded and copy queues stop (R545). -/
  | hostLinkDown
  /-- BLOCK_READY: A block finishes its start-up steps and sets READY, or fails them (R583). -/
  | blockReady (page : PageIx) (ok : Bool) (faults : List (BitVec 7 × BitVec 7))
  /-- THERMTRIP: A sensor reads 110 °C or more: THERMTRIP# asserts, ACLK and FCLK stop, and the device goes out of service (R621). -/
  | thermtrip (temp : BitVec 10)
  /-- SENSOR_SAMPLE: The 1-ms sampling of junction sensors updates TJ_MAX, exclusions and the wear meter (R619). -/
  | sensorSample (readings : List (BitVec 8 × Int × Bool))
  /-- POWER_SAMPLE: The 10-µs power and VCORE sample, adding energy and checking for a voltage violation (R609). -/
  | powerSample (power : BitVec 16) (vcore current : BitVec 12)
  /-- POWER_AVERAGE_100US: A 100-µs average is formed and over-cap intervals and Squall violations are judged (R610). -/
  | powerAverage100us
  /-- POWER_AVERAGE_1MS: A 1-ms average is formed and compared with the effective cap (R611). -/
  | powerAverage1ms
  /-- STRETCH_STEP: A violation and the 1-ms spacing lead to a decision to raise the ACLK divider one step (R613). -/
  | stretchStep
  /-- STRETCH_RELEASE: Release conditions hold for 100 ms and the divider is lowered one step (R617). -/
  | stretchRelease
  /-- DIVIDER_SWITCH: At the safe tick edge the ACLK divider changes for a stretch, a release or a mode change (R614). -/
  | dividerSwitch
  /-- STACK_TEMPERATURE_REPORT: A stack's reported temperature crosses a derating threshold (R450). -/
  | stackTemperatureReport (tierS : Bool) (stack : BitVec 3) (temp : Byte)
  /-- LINE_READ: A memory controller reads a line, correcting or poisoning it, through the stack cache under the access hint (R439). -/
  | lineRead (line : BitVec 52) (hint : BitVec 2) (part : PartIx) (err : List (BitVec 7 × Byte))
  /-- LINE_WRITE: A memory controller writes a whole line, or merges a host write, in order for that line (R440). -/
  | lineWrite (line : BitVec 52) (hint : BitVec 2) (part : PartIx) (data : BitVec 576) (parity : Option (BitVec 2))
  /-- SCRUB_LINE: The patrol scrubber reads and corrects its next line (R441). -/
  | scrubLine (k : CtrlIx) (err : List (BitVec 7 × Byte))
  /-- REMAP_COPY_DONE: A row copy to a spare finishes and reads switch to the spare (R454). -/
  | remapCopyDone (k : CtrlIx) (channel : BitVec 6) (row : BitVec 24) (errs : List (BitVec 5 × List (BitVec 7 × Byte)))
  /-- LAUNCH_START: The count reaches an armed launch: the partition starts, or the launch is discarded (R394). -/
  | launchStart (p : PartIx)
  /-- SEGMENT_START: Acycle 0 of a segment begins at the aligned tick (R333). -/
  | segmentStart (p : PartIx)
  /-- SCHEDULE_FETCH: A tile requests a group of 36 schedule entries when its request acycle arrives (R391). -/
  | scheduleFetch (t : TileIx) (stream : BitVec 3) (acy : Nat) (errs : List (List (BitVec 7 × Byte)))
  /-- FEED: A row-feed or column-feed entry issues its first tile-store read (R336). -/
  | feed (t : TileIx) (feeder : BitVec 1) (acy : Nat)
  /-- FEED_PRESENT: A feeder presents a feed group's step to the links when its latency has passed and a link has room (R221). -/
  | feedPresent (t : TileIx) (feeder : BitVec 1) (lane : BitVec 10) (acy : Nat)
  /-- KPASS: An array-stream entry starts a K pass (R337). -/
  | kpass (t : TileIx) (acy : Nat)
  /-- ARRAY_STEP: A cell performs its next step once both operand entries are present (R160). -/
  | arrayStep (t : TileIx) (r c : BitVec 7) (acy : Nat)
  /-- OUTLIER_STEP: The outlier strip's contribution is added as one step after the pass's last array step (R151). -/
  | outlierStep (t : TileIx) (r c : BitVec 7) (acy : Nat)
  /-- SWAP: An array row exchanges its active and shadow sets when its cells are done and its shadow row has drained (R162). -/
  | arraySwap (t : TileIx) (r : BitVec 7) (acy : Nat)
  /-- DRAIN_ROW_ENTER: A swapped row enters scale-and-convert when the drain path accepts it (R163). -/
  | drainRowEnter (t : TileIx) (r : BitVec 6) (acy : Nat)
  /-- DRAIN_ROW_WRITE: Scale-and-convert finishes a row and writes it into the tile store (R149). -/
  | drainRowWrite (t : TileIx) (r : BitVec 6) (acy : Nat)
  /-- CHECKSUM_VERDICT: 96 acycles after drain completes, the block's residue verdict is posted (R169). -/
  | checksumVerdict (t : TileIx) (acy : Nat)
  /-- STATS_WRITE: A feed's last channel-statistics write takes effect 2 acycles after its last step (R238). -/
  | statsWrite (t : TileIx) (feeder : BitVec 1) (acy : Nat)
  /-- FALLBACK_DECISION: 2 acycles after the last feed step, triggers are judged and a repeat is queued (R265). -/
  | fallbackDecision (t : TileIx) (acy : Nat)
  /-- REPEAT_START: The next queued repeat starts when its cost fits the replay window or epoch (R269). -/
  | repeatStart (t : TileIx) (acy : Nat)
  /-- FADD: Skink floating-point add (R291). -/
  | fadd (t : TileIx) (acy : Nat)
  /-- FSUB: Skink floating-point subtract (R291). -/
  | fsub (t : TileIx) (acy : Nat)
  /-- FMUL: Skink floating-point multiply (R291). -/
  | fmul (t : TileIx) (acy : Nat)
  /-- FMA: Skink fused multiply-add (R291). -/
  | fma (t : TileIx) (acy : Nat)
  /-- MIN: Skink element-wise minimum (R292). -/
  | vmin (t : TileIx) (acy : Nat)
  /-- MAX: Skink element-wise maximum (R292). -/
  | vmax (t : TileIx) (acy : Nat)
  /-- CMP_EQ: Skink compare equal into a mask (R293). -/
  | cmpEq (t : TileIx) (acy : Nat)
  /-- CMP_LT: Skink compare less-than into a mask (R293). -/
  | cmpLt (t : TileIx) (acy : Nat)
  /-- CMP_LE: Skink compare less-or-equal into a mask (R293). -/
  | cmpLe (t : TileIx) (acy : Nat)
  /-- CMP_NE: Skink compare not-equal into a mask (R293). -/
  | cmpNe (t : TileIx) (acy : Nat)
  /-- SEL: Skink select by mask (R286). -/
  | sel (t : TileIx) (acy : Nat)
  /-- IADD: Skink integer add, wrapping or saturating (R295). -/
  | iadd (t : TileIx) (acy : Nat)
  /-- ISUB: Skink integer subtract (R295). -/
  | isub (t : TileIx) (acy : Nat)
  /-- IMUL: Skink integer multiply (R295). -/
  | imul (t : TileIx) (acy : Nat)
  /-- SHL: Skink shift left (R296). -/
  | shl (t : TileIx) (acy : Nat)
  /-- SHRL: Skink logical shift right (R296). -/
  | shrl (t : TileIx) (acy : Nat)
  /-- SHRA: Skink arithmetic shift right (R296). -/
  | shra (t : TileIx) (acy : Nat)
  /-- ROTL: Skink rotate left (R296). -/
  | rotl (t : TileIx) (acy : Nat)
  /-- AND: Skink bitwise AND (R296). -/
  | vand (t : TileIx) (acy : Nat)
  /-- OR: Skink bitwise OR (R296). -/
  | vor (t : TileIx) (acy : Nat)
  /-- XOR: Skink bitwise XOR (R296). -/
  | vxor (t : TileIx) (acy : Nat)
  /-- NOT: Skink bitwise NOT (R296). -/
  | vnot (t : TileIx) (acy : Nat)
  /-- ANDN: Skink bitwise AND NOT (R296). -/
  | vandn (t : TileIx) (acy : Nat)
  /-- CVT: Skink type conversion with part select (R298). -/
  | cvt (t : TileIx) (acy : Nat)
  /-- PACK: Skink builds one narrow line with block exponents (R300). -/
  | pack (t : TileIx) (acy : Nat)
  /-- UNPACK: Skink expands half or all of a narrow line to FP32 (R301). -/
  | unpack (t : TileIx) (acy : Nat)
  /-- EXP2: Skink base-2 exponential (R303). -/
  | exp2 (t : TileIx) (acy : Nat)
  /-- LOG2: Skink base-2 logarithm (R303). -/
  | log2 (t : TileIx) (acy : Nat)
  /-- RCP: Skink reciprocal (R303). -/
  | rcp (t : TileIx) (acy : Nat)
  /-- RSQRT: Skink reciprocal square root (R303). -/
  | rsqrt (t : TileIx) (acy : Nat)
  /-- LOAD: Skink load of 256 bytes from the tile store (R286). -/
  | vload (t : TileIx) (acy : Nat)
  /-- STORE: Skink store of a vector to the tile store (R286). -/
  | vstore (t : TileIx) (acy : Nat)
  /-- STORE_LINE: Skink store of 72 bytes as one line (R286). -/
  | vstoreLine (t : TileIx) (acy : Nat)
  /-- RAND: Skink fetches 64 generator words from the Gohild mixer (R321). -/
  | rand (t : TileIx) (acy : Nat)
  /-- RED_SUM: Reduction sum in W40 in fixed tree and chain order (R308). -/
  | redSum (t : TileIx) (acy : Nat)
  /-- RED_MAX: Reduction maximum (R308). -/
  | redMax (t : TileIx) (acy : Nat)
  /-- RED_MIN: Reduction minimum (R308). -/
  | redMin (t : TileIx) (acy : Nat)
  /-- RED_ARGMAX: Reduction index of the maximum (R308). -/
  | redArgmax (t : TileIx) (acy : Nat)
  /-- RED_AMAX: Reduction largest magnitude (R308). -/
  | redAmax (t : TileIx) (acy : Nat)
  /-- RED_CNZ: Reduction count of non-zero elements (R308). -/
  | redCnz (t : TileIx) (acy : Nat)
  /-- OUTLIER_SELECT: Replaces the tile's outlier table from a statistics vector and its select record (R255). -/
  | outlierSelect (t : TileIx) (acy : Nat)
  /-- MOVE_IN: Move-stream instruction requesting a run of lines into the tile store (R343). -/
  | moveIn (t : TileIx) (acy : Nat)
  /-- MOVE_OUT: Move-stream instruction writing a run of tile-store lines through a descriptor (R343). -/
  | moveOut (t : TileIx) (acy : Nat)
  /-- LINK_SEND: Move-stream instruction sending a run of lines over the links as packets (R481). -/
  | linkSend (t : TileIx) (acy : Nat)
  /-- LINE_ARRIVAL: A requested line is written into the tile store, checked for parity and check value, and judged against its bound (R358). -/
  | lineArrival (t : TileIx) (tag i acy : Nat) (before : List (List (BitVec 7 × Byte))) (parity : Bool) (err : List (BitVec 7 × Byte))
  /-- TABLE_LOAD: Copies 256 bytes into one table bank of one feeder (R226). -/
  | tableLoad (t : TileIx) (acy : Nat)
  /-- SCALE_SET: Copies one byte into a delayed-scale slot (R249). -/
  | scaleSet (t : TileIx) (acy : Nat)
  /-- OCC_LOAD: Loads an occupancy register from a tile-store INT32 (R362). -/
  | occLoad (t : TileIx) (acy : Nat)
  /-- SLOT_BIND: Binds a descriptor dimension to an occupancy register (R365). -/
  | slotBind (t : TileIx) (acy : Nat)
  /-- SLOT_DISPATCH: Fills the slot table, drop mask and occupancy registers from an assignment vector (R364). -/
  | slotDispatch (t : TileIx) (acy : Nat)
  /-- TILE_SYNC_ADD: SYNC_OP ADD from a tile (R528). -/
  | tileSyncAdd (t : TileIx) (acy : Nat)
  /-- TILE_SYNC_SET: SYNC_OP SET from a tile (R528). -/
  | tileSyncSet (t : TileIx) (acy : Nat)
  /-- TILE_SYNC_CLEAR: SYNC_OP CLEAR from a tile (R528). -/
  | tileSyncClear (t : TileIx) (acy : Nat)
  /-- TILE_SYNC_WAIT_GE: SYNC_OP WAIT_GE issues once the value satisfies it (R528). -/
  | tileSyncWaitGe (t : TileIx) (acy : Nat)
  /-- TILE_SYNC_WAIT_SET: SYNC_OP WAIT_SET issues once the flag is set (R528). -/
  | tileSyncWaitSet (t : TileIx) (acy : Nat)
  /-- TILE_SYNC_WAIT_CLEAR: SYNC_OP WAIT_CLEAR issues once the flag is clear (R528). -/
  | tileSyncWaitClear (t : TileIx) (acy : Nat)
  /-- EPOCH_POINT_MARK: A tile reaches an epoch point and the member or partition decides its answer or resume (R270). -/
  | epochPointMark (t : TileIx) (stream : BitVec 3) (acy : Nat)
  /-- SCHEDULE_END: End marks issued, writes complete and replay queues empty: the schedule ends (R396). -/
  | scheduleEnd (p : PartIx)
  /-- CONTRACT_VIOLATION: In strict mode an entry cannot issue at its OFFSET and the tile stops issuing (R349). -/
  | contractViolation (t : TileIx) (stream : BitVec 3) (acy : Nat)
  /-- HANG_DETECTED: A stream's lag exceeds HANG_CTL.TOL (R675). -/
  | hangDetected (t : TileIx) (stream : BitVec 3)
  /-- RESUME: The count reaches the resume count R and the next segment begins after any epoch (R273). -/
  | resumeStep (p : PartIx)
  /-- DUP_VERDICT: Hub comparators post the bit-for-bit verdict of a shadowed unit (R645). -/
  | dupVerdict (site : SiteIx) (sound : Bool)
  /-- SITE_MOVE: At the step boundary a due logical tile moves to the lowest free site of its quadrant (R18). -/
  | siteMove (t : TileIx)
  /-- ROT_SELFTEST_START: Every PERIOD seconds a quadrant starts a self-test on its next free site (R594). -/
  | rotSelftestStart (q : BitVec 2)
  /-- ROT_SELFTEST_DONE: A rotating self-test ends: a pass is counted and a failure retires the site (R597). -/
  | rotSelftestDone (q : BitVec 2) (ok : Bool) (faults : List (BitVec 7 × BitVec 7))
  /-- LULL_END: FC_LULL passes with no further report and the fault state ends (R661). -/
  | lullEnd
  /-- WARM_RESET_COMPLETE: A warm reset finishes its phases and the slot answers IDLE, or the device escalates out of service (R679). -/
  | warmResetComplete (same : Bool)
  /-- DATA_PACKET_SEND: A sender sends a DATA header and its data flits once it holds credits for the packet (R486). -/
  | dataPacketSend (n : LinkIx)
  /-- DATA_PACKET_RECEIVE: A verified DATA packet is consumed, written or accumulated at its target, or forwarded (R483). -/
  | dataPacketReceive (n : LinkIx) (flit : BitVec 256) (data : List (BitVec 256)) (next : BitVec 256)
  /-- IDLE_FLIT: An IDLE control flit delivers ACK and CREDIT (R476). -/
  | idleFlit (n : LinkIx) (body : BitVec 224) (crc : BitVec 32)
  /-- RETRY: A RETRY flit makes the sender resend from ACK + 1, or the link goes down after 8 without progress (R488). -/
  | retry (n : LinkIx) (flit : BitVec 256)
  /-- LINK_CODEWORD_BAD: An uncorrectable codeword or a failing CRC makes the receiver discard flits and send RETRY (R488). -/
  | linkCodewordBad (n : LinkIx) (lanes : List (BitVec 680))
  /-- TIME_FLIT: A TIME flit gives the link delay and, from the parent, a drift comparison (R502). -/
  | timeFlit (n : LinkIx) (flit : BitVec 256) (frac : BitVec 4)
  /-- TIME_FLIT_SEND: Each end sends a TIME flit every 1 ms (R502). -/
  | timeFlitSend (n : LinkIx) (frac : BitVec 4)
  /-- TRAIN_FLIT: A TRAIN flit is compared with the declared neighbour and may bring the link up or request a spare lane (R493). -/
  | trainFlit (n : LinkIx) (flit : BitVec 256)
  /-- LINK_TRAIN_TIMEOUT: No match within 100 ms: LINK_TRAIN returns NOT_READY and training goes on (R493). -/
  | linkTrainTimeout (n : LinkIx)
  /-- LANE_DEGRADED: A lane loses lock or exceeds its error rate, and the receiver requests a move onto the spare (R494). -/
  | laneDegraded (n : LinkIx) (lane : BitVec 3) (cw : Word)
  /-- LANE_SWITCH: At the SWITCH_AT codeword both ends carry the lane on lane 8 (R494). -/
  | laneSwitch (n : LinkIx) (cw : Word)
  /-- OP: SYNC message OP applied at the object's home, followed by UPDATE messages (R529). -/
  | syncOp (n : LinkIx) (flit : BitVec 256)
  /-- UPDATE: SYNC message UPDATE sets a shadow value, forwarded by a group manager for SYSTEM objects (R526). -/
  | syncUpdate (n : LinkIx) (flit : BitVec 256)
  /-- GROUP_RESULT: The system manager records a group's result and decides once all groups have reported (R522). -/
  | groupResult (n : LinkIx) (flit : BitVec 256)
  /-- ANNOUNCE: A group manager receives the system announcement and sends it as round words (R522). -/
  | linkAnnounce (n : LinkIx) (flit : BitVec 256)
  /-- LAUNCH: SYNC message LAUNCH applies a launch-count write at the receiver (R531). -/
  | syncLaunch (n : LinkIx) (flit : BitVec 256)
  /-- CHORUS_ROUND: A manager begins a 64-cycle round and sends its round word, IDLE or an announcement copy (R517). -/
  | chorusRound
  /-- SLOT_ANSWER: The manager samples a slot's answer and CHORUS_ALL and judges check completion (R514). -/
  | slotAnswer (slot : BitVec 6) (code : BitVec 4) (all : Bool)
  /-- MEMBER_SILENT: A roster slot reads MISSING for 16 rounds in a row (R516). -/
  | memberSilent (slot : BitVec 6)
  /-- CHORUS_ALL_DISAGREE: CHORUS_ALL stays low for a whole round after every slot has answered (R515). -/
  | chorusAllDisagree
  /-- ROUND_WORD: A worker receives a round word, gaining or losing lock (R510). -/
  | roundWord (word : DWord)
  /-- CONTINUE: A member takes a CONTINUE announcement and resumes at R (R518). -/
  | annContinue (check : BitVec 8) (low : BitVec 36)
  /-- EPOCH: A member takes an EPOCH announcement and runs the epoch before R (R274). -/
  | annEpoch (check : BitVec 8) (low : BitVec 36)
  /-- REPLAY: A member takes REPLAY, restores state and begins segment 0 again at R (R416). -/
  | annReplay (check : BitVec 8) (low : BitVec 36)
  /-- ABANDON: A member takes ABANDON and ends its launch at R (R690). -/
  | annAbandon (check : BitVec 8) (low : BitVec 36)
  /-- MANAGER_LOST: A worker sees no SYNCCLK edge for 1 µs (R520). -/
  | managerLost
  /-- CTX_SAVE_COMPLETE: A running CTX_SAVE finishes writing the context and its digest, counter 03h increments and DONE is set (R402). -/
  | ctxSaveComplete (p : PartIx)
  /-- CTX_RESTORE_COMPLETE: A running CTX_RESTORE finishes relocating and restoring descriptors, LOCAL objects, seed and tile sections, sets RESTORED and sets DONE (R402). -/
  | ctxRestoreComplete (p : PartIx)
  /-- SLICE_CLEAN_COMPLETE: A stack-cache slice finishes writing back its dirty lines and SLICE_CLEAN posts its result (R448). -/
  | sliceCleanComplete (n : BitVec 4)
  /-- INTERNAL_ERROR: A parity error in scheduler state, sync memory, register files or control-processor memory raises the FATAL event INTERNAL_ERROR on chip page 003h (R665). -/
  | internalError (code : Word)
  /-- ENTROPY_HEALTH_TEST_FAIL: The hub entropy source fails its health tests, clearing SEC_STATUS.TRNG_OK so that later randomness requests are refused (R699). -/
  | entropyHealthTestFail
  /-- LINK_SIGNAL_LOST: A Brekeger link loses its far end, for instance when the neighbour loses power or trips, and goes down with LINK_DOWN (R495). -/
  | linkSignalLost (n : LinkIx)
  deriving DecidableEq, Repr

end Sys2Proof
end

