-- ==== Sys2Proof/WellFormed.lean ====
section
/-! DEFINITION. When a command is well formed: every operand whose type admits more values than the spec gives
the operand is in its range. A command that is not well formed names nothing of the device; no sender sends it. -/

namespace Sys2Proof

/-- A page of BAR0 that carries the common header (02 R35, R37). -/
def headerPage (page : PageIx) : Bool :=
  decide (page.toNat < 0x84) || (decide (0x100 ≤ page.toNat) && decide (page.toNat < 0x188))

/-- The operand ranges the types do not already say. -/
def Instr.wellFormed : Instr → Bool
  | .nop page _ => headerPage page
  | .undefinedCommand page code _ => headerPage page && code != 0
  | .siteMapApply _ => true
  | .partSet _ => true
  | .modeApply _ => true
  | .descCreate _ _ => true
  | .descDestroy _ _ => true
  | .descRead _ _ => true
  | .imageLoad _ _ => true
  | .imageLoadComplete _ => true
  | .imageUnload _ _ => true
  | .ctxSave _ _ => true
  | .ctxRestore _ _ => true
  | .allocCreate _ _ => true
  | .allocZeroComplete _ => true
  | .allocRelease _ _ => true
  | .allocQuery _ _ => true
  | .remapAdd _ _ => true
  | .remapRead _ _ => true
  | .sliceClean _ _ => true
  | .linkTrain _ _ => true
  | .linkDisable _ _ => true
  | .timeAlign _ => true
  | .chorusStart _ => true
  | .chorusStop _ => true
  | .chorusAbort _ => true
  | .hostSyncAdd _ => true
  | .hostSyncSet _ => true
  | .hostSyncClear _ => true
  | .hostSyncWaitGe _ => true
  | .hostSyncWaitSet _ => true
  | .hostSyncWaitClear _ => true
  | .fetchAdd _ => true
  | .acquire _ => true
  | .hostSyncWrite _ => true
  | .hostSyncRead _ => true
  | .cqReset _ => true
  | .nbArm _ => true
  | .nbDisarm _ => true
  | .warmReset _ => true
  | .partReset _ => true
  | .keyEnable _ => true
  | .keyDisable _ => true
  | .keyLock _ => true
  | .enable page _ => headerPage page
  | .quiesce page _ => headerPage page
  | .quiesceIdle page => headerPage page
  | .selftest page _ => headerPage page
  | .selftestEnd page _ faults => headerPage page && faults.all (fun f => decide (f.1.toNat < 65 ∧ f.2.toNat < 65))
  | .pwrReq page _ => headerPage page
  | .powerDomainOn page => headerPage page
  | .powerDomainOff page => headerPage page
  | .evtStickyClear page _ _ => headerPage page
  | .counterClear page _ _ => headerPage page
  | .lowerWordRead _ acc => decide (acc.off.toNat % (if acc.wide then 8 else 4) = 0)
  | .upperWordWrite page off _ => headerPage page && decide (off.toNat % 4 = 0)
  | .partialRegisterWrite page off => headerPage page && decide (off.toNat % 4 = 0)
  | .registerWrite page off v => headerPage page && decide (off.toNat % (if v.isWide then 8 else 4) = 0)
  | .launchAtWrite _ _ _ _ => true
  | .dbCopyTail _ _ => true
  | .rngSeedWrite site _ _ => decide (site.toNat < 136)
  | .skinkFirstClear site _ => decide (site.toNat < 136)
  | .faultInjectArm _ => true
  | .siteMapStageWrite off _ => decide (off.toNat % 4 = 0)
  | .arrayRepairWrite site _ => decide (site.toNat < 136)
  | .modeReqWrite _ => true
  | .syncObjectDefine _ field v => !v.isWide || decide (field.toNat % 2 = 0)
  | .hostMemRead _ offset _ err1 err2 => decide (offset.toNat % 64 = 0) && err1.all (fun e => decide (e.1.toNat < 80)) && err2.all (fun e => decide (e.1.toNat < 80))
  | .hostMemWrite _ offset _ _ _ => decide (offset.toNat % 64 = 0)
  | .bisnpResponse _ => true
  | .bisnpTimeout _ => true
  | .copyEntry _ _ _ => true
  | .fetchEntry _ _ _ _ => true
  | .copyEntryComplete _ => true
  | .fwBegin _ => true
  | .fwData _ _ => true
  | .fwEnd => true
  | .testChallenge => true
  | .testUnlock _ => true
  | .spdmGetVersion => true
  | .spdmGetCapabilities => true
  | .spdmNegotiateAlgorithms => true
  | .spdmGetDigests => true
  | .spdmGetCertificate _ _ _ => true
  | .spdmChallenge _ => true
  | .spdmGetMeasurements _ _ => true
  | .spdmKeyExchange _ => true
  | .spdmFinish _ => true
  | .spdmEndSession _ => true
  | .spdmHeartbeat _ => true
  | .spdmKeyUpdate _ => true
  | .ideKeyProgram _ _ _ _ _ => true
  | .ideIntegrityFail _ => true
  | .smbusBlockRead _ => true
  | .jtagBypass => true
  | .jtagIdcode => true
  | .jtagSamplePreload => true
  | .jtagExtest => true
  | .jtagClamp => true
  | .jtagHighz => true
  | .powerOnHoldEnd _ => true
  | .perstAssert => true
  | .perstDeassert => true
  | .supplyExcursion => true
  | .supplyGlitch => true
  | .pllUnlock => true
  | .bootRomDone puf => puf != 1
  | .hostLinkUp rate width _ => decide (rate.toNat < 3 ∧ width.toNat < 3)
  | .hostLinkDown => true
  | .blockReady page _ faults => headerPage page && faults.all (fun f => decide (f.1.toNat < 65 ∧ f.2.toNat < 65))
  | .thermtrip _ => true
  | .sensorSample readings => readings.all (fun r => decide (r.1.toNat < 152))
  | .powerSample _ _ _ => true
  | .powerAverage100us => true
  | .powerAverage1ms => true
  | .stretchStep => true
  | .stretchRelease => true
  | .dividerSwitch => true
  | .stackTemperatureReport _ _ _ => true
  | .lineRead _ _ _ err => err.all (fun e => decide (e.1.toNat < 80))
  | .lineWrite _ _ _ _ _ => true
  | .scrubLine _ err => err.all (fun e => decide (e.1.toNat < 80))
  | .remapCopyDone _ channel _ errs =>
    decide (channel.toNat < 40) && errs.all (fun e => e.2.all (fun x => decide (x.1.toNat < 80)))
  | .launchStart _ => true
  | .segmentStart _ => true
  | .scheduleFetch _ stream _ errs => decide (stream.toNat < 5) && errs.all (fun err => err.all (fun e => decide (e.1.toNat < 80)))
  | .feed _ _ _ => true
  | .feedPresent _ _ _ _ => true
  | .kpass _ _ => true
  | .arrayStep _ r c _ => decide (r.toNat < 65) && decide (c.toNat < 65)
  | .outlierStep _ r c _ => decide (r.toNat < 65) && decide (c.toNat < 65)
  | .arraySwap _ r _ => decide (r.toNat < 65)
  | .drainRowEnter _ _ _ => true
  | .drainRowWrite _ _ _ => true
  | .checksumVerdict _ _ => true
  | .statsWrite _ _ _ => true
  | .fallbackDecision _ _ => true
  | .repeatStart _ _ => true
  | .fadd _ _ => true
  | .fsub _ _ => true
  | .fmul _ _ => true
  | .fma _ _ => true
  | .vmin _ _ => true
  | .vmax _ _ => true
  | .cmpEq _ _ => true
  | .cmpLt _ _ => true
  | .cmpLe _ _ => true
  | .cmpNe _ _ => true
  | .sel _ _ => true
  | .iadd _ _ => true
  | .isub _ _ => true
  | .imul _ _ => true
  | .shl _ _ => true
  | .shrl _ _ => true
  | .shra _ _ => true
  | .rotl _ _ => true
  | .vand _ _ => true
  | .vor _ _ => true
  | .vxor _ _ => true
  | .vnot _ _ => true
  | .vandn _ _ => true
  | .cvt _ _ => true
  | .pack _ _ => true
  | .unpack _ _ => true
  | .exp2 _ _ => true
  | .log2 _ _ => true
  | .rcp _ _ => true
  | .rsqrt _ _ => true
  | .vload _ _ => true
  | .vstore _ _ => true
  | .vstoreLine _ _ => true
  | .rand _ _ => true
  | .redSum _ _ => true
  | .redMax _ _ => true
  | .redMin _ _ => true
  | .redArgmax _ _ => true
  | .redAmax _ _ => true
  | .redCnz _ _ => true
  | .outlierSelect _ _ => true
  | .moveIn _ _ => true
  | .moveOut _ _ => true
  | .linkSend _ _ => true
  | .lineArrival _ _ _ _ before _ err => (err :: before).all (fun err => err.all (fun e => decide (e.1.toNat < 80)))
  | .tableLoad _ _ => true
  | .scaleSet _ _ => true
  | .occLoad _ _ => true
  | .slotBind _ _ => true
  | .slotDispatch _ _ => true
  | .tileSyncAdd _ _ => true
  | .tileSyncSet _ _ => true
  | .tileSyncClear _ _ => true
  | .tileSyncWaitGe _ _ => true
  | .tileSyncWaitSet _ _ => true
  | .tileSyncWaitClear _ _ => true
  | .epochPointMark _ stream _ => decide (stream.toNat < 5)
  | .scheduleEnd _ => true
  | .contractViolation _ stream _ => decide (stream.toNat < 5)
  | .hangDetected _ stream => decide (stream.toNat < 5)
  | .resumeStep _ => true
  | .dupVerdict site _ => decide (site.toNat < 136)
  | .siteMove _ => true
  | .rotSelftestStart _ => true
  | .rotSelftestDone _ _ faults => faults.all (fun f => decide (f.1.toNat < 65 ∧ f.2.toNat < 65))
  | .lullEnd => true
  | .warmResetComplete _ => true
  | .dataPacketSend _ => true
  | .dataPacketReceive _ _ _ _ => true
  | .idleFlit _ _ _ => true
  | .retry _ _ => true
  | .linkCodewordBad _ lanes => lanes.length == 8
  | .timeFlit _ _ _ => true
  | .timeFlitSend _ _ => true
  | .trainFlit _ _ => true
  | .linkTrainTimeout _ => true
  | .laneDegraded _ _ _ => true
  | .laneSwitch _ _ => true
  | .syncOp _ _ => true
  | .syncUpdate _ _ => true
  | .groupResult _ _ => true
  | .linkAnnounce _ _ => true
  | .syncLaunch _ _ => true
  | .chorusRound => true
  | .slotAnswer _ _ _ => true
  | .memberSilent _ => true
  | .chorusAllDisagree => true
  | .roundWord _ => true
  | .annContinue _ _ => true
  | .annEpoch _ _ => true
  | .annReplay _ _ => true
  | .annAbandon _ _ => true
  | .managerLost => true
  | .ctxSaveComplete _ => true
  | .ctxRestoreComplete _ => true
  | .sliceCleanComplete _ => true
  | .internalError _ => true
  | .entropyHealthTestFail => true
  | .linkSignalLost _ => true

end Sys2Proof
end

