-- ==== Sys2Proof/Decode.lean ====
section
/-! DEFINITION. The command that a word spells by the bits of spec/opcode_table.json. No row of that table gives bits, so no
word spells a command. -/

namespace Sys2Proof

/-- The command spelled by an instruction of `nbits` bits whose value is `w`. -/
def decodeTableWord (_nbits _w : Nat) : Option Instr := none

end Sys2Proof
end

