-- ==== Sys2Proof/Machine/Bits.lean ====
section
/-! DEFINITION. Bit fields, little-endian byte lists and sparse maps. -/

namespace Sys2Proof.Machine

/-- Bits [hi:lo] of a number. -/
def bits (v hi lo : Nat) : Nat := v / 2 ^ lo % 2 ^ (hi + 1 - lo)

/-- Bit i of a number. -/
def bit (v i : Nat) : Bool := v / 2 ^ i % 2 == 1

/-- Bits [hi:lo] of a 32-bit register. -/
def fld (w : Word) (hi lo : Nat) : Nat := bits w.toNat hi lo

/-- The register with bits [hi:lo] replaced by v. -/
def putFld (w : Word) (hi lo v : Nat) : Word :=
  let m := BitVec.ofNat 32 ((2 ^ (hi + 1 - lo) - 1) * 2 ^ lo)
  (w &&& ~~~m) ||| (BitVec.ofNat 32 (v * 2 ^ lo) &&& m)

/-- The register with bit i replaced. -/
def putBit (w : Word) (i : Nat) (b : Bool) : Word := putFld w i i b.toNat

/-- The number a little-endian byte list spells. -/
def leNat : List Byte → Nat
  | [] => 0
  | b :: bs => b.toNat + 256 * leNat bs

/-- The n little-endian bytes of a number. -/
def leBytes : Nat → Nat → List Byte
  | 0, _ => []
  | n + 1, v => BitVec.ofNat 8 v :: leBytes n (v / 256)

/-- n bytes of a list from position i, padded with 00h. -/
def slice (l : List Byte) (i n : Nat) : List Byte :=
  let r := (l.drop i).take n
  r ++ List.replicate (n - r.length) 0

/-- The little-endian number in n bytes of a list from position i. -/
def leAt (l : List Byte) (i n : Nat) : Nat := leNat ((l.drop i).take n)

/-- A list with element i replaced (unchanged past its end). -/
def putAt {α : Type} (l : List α) (i : Nat) (x : α) : List α := l.set i x

/-- The number whose bits are the list, least significant first. -/
def natOfBits : List Bool → Nat
  | [] => 0
  | b :: bs => b.toNat + 2 * natOfBits bs

/-- The number of positions of a list that satisfy a test. -/
def countP {α : Type} (p : α → Bool) : List α → Nat
  | [] => 0
  | x :: xs => (if p x then 1 else 0) + countP p xs

/-- ⌈a / b⌉ for b > 0. -/
def ceilDiv (a b : Nat) : Nat := (a + b - 1) / b

/-- A two's complement reading of the low n bits. -/
def signExt (n v : Nat) : Int :=
  let w := v % 2 ^ n
  if w < 2 ^ (n - 1) then w else (w : Int) - (2 ^ n : Nat)

/-- The low n bits of an integer in two's complement. -/
def toBits (n : Nat) (v : Int) : Nat := (v % ((2 ^ n : Nat) : Int)).toNat

/-! Sparse maps: keys strictly rising, no entry equal to the default of its key. -/

/-- The value at a key. -/
def smGet {V : Type} (d : Nat → V) : List (Nat × V) → Nat → V
  | [], k => d k
  | (j, v) :: m, k => if k = j then v else if k < j then d k else smGet d m k

/-- The map with the key's entry removed. -/
def smDel {V : Type} : List (Nat × V) → Nat → List (Nat × V)
  | [], _ => []
  | (j, v) :: m, k => if k = j then m else if k < j then (j, v) :: m else (j, v) :: smDel m k

/-- The map with an entry put at the key. -/
def smPut {V : Type} : List (Nat × V) → Nat → V → List (Nat × V)
  | [], k, v => [(k, v)]
  | (j, w) :: m, k, v =>
    if k = j then (k, v) :: m else if k < j then (k, v) :: (j, w) :: m else (j, w) :: smPut m k v

/-- The map with the value of the key set, in canonical form. -/
def smSet {V : Type} [DecidableEq V] (d : Nat → V) (m : List (Nat × V)) (k : Nat) (v : V) : List (Nat × V) :=
  if v = d k then smDel m k else smPut m k v

/-- Every key of a map is above a bound and the keys rise. -/
def smRising {V : Type} : Option Nat → List (Nat × V) → Bool
  | _, [] => true
  | b, (j, _) :: m => (match b with | none => true | some k => decide (k < j)) && smRising (some j) m

/-- A map is in canonical form: keys strictly rising and no entry at its default. -/
def smWf {V : Type} [DecidableEq V] (d : Nat → V) (m : List (Nat × V)) : Bool :=
  smRising none m && m.all (fun e => decide (e.2 ≠ d e.1))

end Sys2Proof.Machine
end

