-- ==== Sys2Proof/Machine/Num.lean ====
section
/-! DEFINITION. The number formats and narrowing conversions (03), and the exact step of a cell (04). -/

namespace Sys2Proof.Machine

/-- An exact extended value: NaN, a signed infinity, or a signed magnitude (a zero keeps its sign). -/
inductive XV where
  | nan
  | inf (neg : Bool)
  | fin (neg : Bool) (mag : Rat)
  deriving DecidableEq, Repr

/-- A floating-point layout (R75). `special` 0: the top exponent holds infinity and NaN; 1: only the all-ones code is
NaN and there is no infinity; 2: every code is finite. -/
structure FFmt where
  eb : Nat
  mb : Nat
  bias : Int
  special : Nat
  deriving DecidableEq, Repr

def fFP4 : FFmt := ⟨2, 1, 1, 2⟩
def fE4M3 : FFmt := ⟨4, 3, 7, 1⟩
def fE5M2 : FFmt := ⟨5, 2, 15, 0⟩
def fBF16 : FFmt := ⟨8, 7, 127, 0⟩
def fFP32 : FFmt := ⟨8, 23, 127, 0⟩
def fW40 : FFmt := ⟨8, 31, 127, 0⟩

/-- 2^e as an exact rational. -/
def pow2 (e : Int) : Rat :=
  match e with
  | .ofNat n => mkRat (2 ^ n : Nat) 1
  | .negSucc n => mkRat 1 (2 ^ (n + 1))

/-- ⌊log₂ m⌋ of a positive rational. -/
def floorLog2 (m : Rat) : Int :=
  let e : Int := (Nat.log2 m.num.toNat : Int) - (Nat.log2 m.den : Int)
  if pow2 e ≤ m then e else e - 1

/-- The magnitude of a code without its sign bit, the exponent range continued upward without a special code (R76, R80). -/
def magOfCode (f : FFmt) (n : Nat) : Rat :=
  let e := n / 2 ^ f.mb
  let m := n % 2 ^ f.mb
  if e = 0 then (m : Rat) * pow2 (1 - f.bias - f.mb)
  else ((2 ^ f.mb + m : Nat) : Rat) * pow2 ((e : Int) - f.bias - f.mb)

/-- The largest code, in that continued numbering, whose magnitude is at most m. -/
def floorCode (f : FFmt) (m : Rat) : Nat :=
  if m ≤ 0 then 0
  else
    let e := max (floorLog2 m) (1 - f.bias)
    let a := (m * pow2 ((f.mb : Int) - e)).floor.toNat
    (e + f.bias - 1).toNat * 2 ^ f.mb + a

/-- The code of +∞ of a format whose top exponent is special, which is also the first code past the finite ones. -/
def infCode (f : FFmt) : Nat := (2 ^ f.eb - 1) * 2 ^ f.mb

/-- The largest finite magnitude code. -/
def maxCode (f : FFmt) : Nat :=
  if f.special = 0 then infCode f - 1
  else if f.special = 1 then 2 ^ (f.eb + f.mb) - 2
  else 2 ^ (f.eb + f.mb) - 1

/-- The sign bit's weight. -/
def signBit (f : FFmt) : Nat := 2 ^ (f.eb + f.mb)

/-- The canonical NaN of a format (R77). -/
def nanCode (f : FFmt) : Nat :=
  if f.special = 1 then 2 ^ (f.eb + f.mb) - 1 else infCode f + 2 ^ (f.mb - 1)

/-- The value of a code (R75, R77 to R80). -/
def decodeF (f : FFmt) (c : Nat) : XV :=
  let s := bit c (f.eb + f.mb)
  let n := c % signBit f
  if f.special = 0 ∧ infCode f ≤ n then (if n = infCode f then .inf s else .nan)
  else if f.special = 1 ∧ n = nanCode f then .nan
  else .fin s (magOfCode f n)

/-- RNE of a non-negative rational to a natural number, a tie to the even one. -/
def rneNat (x : Rat) : Nat :=
  let k := x.floor.toNat
  let d := x - (k : Rat)
  if d < mkRat 1 2 then k else if mkRat 1 2 < d then k + 1 else if k % 2 = 0 then k else k + 1

/-- A rounding mode: to nearest even, or stochastic with the element's 4 random bits (R101, R109). -/
inductive Rnd where
  | rne
  | sr (r : Nat)
  deriving DecidableEq, Repr

/-- The choice between neighbours a ≤ m < b, true for b; `aEven` says that a's code has bit 0 = 0 (R103). -/
def roundUp (r : Rnd) (a b m : Rat) (aEven : Bool) : Bool :=
  if m = a then false
  else match r with
    | .rne => if m - a < b - m then false else if b - m < m - a then true else !aEven
    | .sr k => decide (k < rneNat (16 * (m - a) / (b - a)))

/-- The rounded magnitude code, in the continued numbering. -/
def roundCode (f : FFmt) (r : Rnd) (m : Rat) : Nat :=
  let a := floorCode f m
  if roundUp r (magOfCode f a) (magOfCode f (a + 1)) m (a % 2 == 0) then a + 1 else a

/-- Encodes into a format with infinities, saying whether a finite value became infinite (R81, R106). -/
def encodeWide (f : FFmt) (r : Rnd) : XV → Nat × Bool
  | .nan => (nanCode f, false)
  | .inf s => (infCode f + s.toNat * signBit f, false)
  | .fin s m =>
    let c := roundCode f r m
    if infCode f ≤ c then (infCode f + s.toNat * signBit f, true) else (c + s.toNat * signBit f, false)

/-- The rounded value itself. -/
def roundTo (f : FFmt) (x : XV) : XV := decodeF f (encodeWide f .rne x).1

def decodeW40 (c : BitVec 40) : XV := decodeF fW40 c.toNat
def encodeW40 (x : XV) : BitVec 40 := BitVec.ofNat 40 (encodeWide fW40 .rne x).1

/-- The element formats (R75), with the two wide ones. -/
inductive Fmt where
  | fp4 | int4s | int4u | e4m3 | e5m2 | bf16 | fp32
  deriving DecidableEq, Repr

/-- The floating and INT4 format of a line tag or descriptor code: 0h to 4h narrow (R75), 8h BF16, 9h FP32 (R186). -/
def Fmt.ofCode : Nat → Option Fmt
  | 0 => some .fp4 | 1 => some .int4s | 2 => some .int4u | 3 => some .e4m3 | 4 => some .e5m2
  | 8 => some .bf16 | 9 => some .fp32 | _ => none

def Fmt.code : Fmt → Nat
  | .fp4 => 0 | .int4s => 1 | .int4u => 2 | .e4m3 => 3 | .e5m2 => 4 | .bf16 => 8 | .fp32 => 9

/-- Bits of an element. -/
def Fmt.width : Fmt → Nat
  | .fp4 | .int4s | .int4u => 4 | .e4m3 | .e5m2 => 8 | .bf16 => 16 | .fp32 => 32

/-- Elements of a line (R88, R94). -/
def Fmt.perLine : Fmt → Nat
  | .fp4 | .int4s | .int4u => 128 | .e4m3 | .e5m2 => 64 | .bf16 => 36 | .fp32 => 18

def Fmt.isNarrow : Fmt → Bool
  | .bf16 | .fp32 => false | _ => true

def Fmt.isInt : Fmt → Bool
  | .int4s | .int4u => true | _ => false

/-- A signed integer as an exact value; a zero has no sign. -/
def xvInt (i : Int) : XV := .fin (decide (i < 0)) (i.natAbs : Rat)

/-- The value of an element code, before any scale (R78, R79, R82). -/
def Fmt.decode (f : Fmt) (c : Nat) : XV :=
  match f with
  | .fp4 => decodeF fFP4 c
  | .int4s => xvInt (signExt 4 c)
  | .int4u => xvInt (c % 16 : Nat)
  | .e4m3 => decodeF fE4M3 c
  | .e5m2 => decodeF fE5M2 c
  | .bf16 => decodeF fBF16 c
  | .fp32 => decodeF fFP32 c

/-- A block exponent code's factor (R84); FFh is treated by the reader. -/
def blockFactor (e : Nat) : Rat := pow2 ((e : Int) - 127)

def XV.scale (x : XV) (q : Rat) : XV :=
  match x with
  | .fin s m => .fin s (m * q)
  | y => y

def XV.isNan : XV → Bool
  | .nan => true | _ => false
def XV.isInf : XV → Bool
  | .inf _ => true | _ => false
def XV.isFinite : XV → Bool
  | .fin _ _ => true | _ => false
def XV.isZero : XV → Bool
  | .fin _ m => decide (m = 0) | _ => false
/-- The sign of a value (false for NaN). -/
def XV.neg : XV → Bool
  | .nan => false | .inf s => s | .fin s _ => s
/-- The magnitude of a finite value, 0 otherwise. -/
def XV.mag : XV → Rat
  | .fin _ m => m | _ => 0
/-- The signed rational of a finite value, 0 otherwise. -/
def XV.toRat : XV → Rat
  | .fin s m => if s then -m else m | _ => 0
def XV.negate : XV → XV
  | .nan => .nan | .inf s => .inf (!s) | .fin s m => .fin (!s) m
def XV.abs : XV → XV
  | .nan => .nan | .inf _ => .inf false | .fin _ m => .fin false m

/-- An exact value from a rational, a zero being +0. -/
def xvRat (q : Rat) : XV := if q < 0 then .fin true (-q) else .fin false q

/-- The exact sum; the caller has set opposite infinities and NaN aside. Zeros keep − only when both are −0 (R126). -/
def xadd (a b : XV) : XV :=
  match a, b with
  | .nan, _ => .nan
  | _, .nan => .nan
  | .inf s, .inf t => if s = t then .inf s else .nan
  | .inf s, _ => .inf s
  | _, .inf t => .inf t
  | .fin s m, .fin t n =>
    if m = 0 ∧ n = 0 then .fin (s && t) 0
    else xvRat ((if s then -m else m) + (if t then -n else n))

/-- The exact product; 0 × ∞ is NaN. -/
def xmul (a b : XV) : XV :=
  match a, b with
  | .nan, _ => .nan
  | _, .nan => .nan
  | .inf s, .inf t => .inf (s != t)
  | .inf s, .fin t n => if n = 0 then .nan else .inf (s != t)
  | .fin s m, .inf t => if m = 0 then .nan else .inf (s != t)
  | .fin s m, .fin t n => .fin (s != t) (m * n)

/-- The exact quotient of IEEE 754 division (R102). -/
def xdiv (a b : XV) : XV :=
  match a, b with
  | .nan, _ => .nan
  | _, .nan => .nan
  | .inf _, .inf _ => .nan
  | .inf s, .fin t _ => .inf (s != t)
  | .fin s _, .inf t => .fin (s != t) 0
  | .fin s m, .fin t n => if n = 0 then (if m = 0 then .nan else .inf (s != t)) else .fin (s != t) (m / n)

/-- The quotient a converter works on (R102). -/
def quotient (x : XV) (blockexp : Nat) (rowscale : XV) : XV :=
  xdiv x (rowscale.scale (blockFactor blockexp))

/-- What a narrowing conversion gives: the code and which count it adds to (R103, R104). -/
structure Conv where
  code : Nat
  nonfinite : Bool := false
  saturated : Bool := false
  zeroed : Bool := false
  overflow : Bool := false
  deriving DecidableEq, Repr

/-- Conversion into a narrow floating-point format (R103, R107). -/
def convNarrowF (f : FFmt) (r : Rnd) (v : XV) : Conv :=
  match v with
  | .nan => { code := if f.special = 2 then 0 else nanCode f, nonfinite := true }
  | .inf s =>
    { code := (if f.special = 0 then infCode f else maxCode f) + s.toNat * signBit f, nonfinite := true }
  | .fin s m =>
    if magOfCode f (maxCode f) < m then { code := maxCode f + s.toNat * signBit f, saturated := true }
    else
      let c := roundCode f r m
      { code := c + s.toNat * signBit f, zeroed := decide (m ≠ 0 ∧ c = 0) }

/-- Conversion into INT4 (R103, R107, R729); `lo` and `hi` are the limits. -/
def convInt4 (lo hi : Int) (r : Rnd) (v : XV) : Conv :=
  match v with
  | .nan => { code := 0, nonfinite := true }
  | .inf s => { code := toBits 4 (if s then lo else hi), nonfinite := true }
  | .fin s m =>
    let q := if s then -m else m
    if (hi : Rat) < q then { code := toBits 4 hi, saturated := true }
    else if q < (lo : Rat) then { code := toBits 4 lo, saturated := true }
    else
      let a := m.floor.toNat
      let k := if roundUp r (a : Rat) ((a + 1 : Nat) : Rat) m (a % 2 == 0) then a + 1 else a
      { code := toBits 4 (if s then -(k : Int) else k), zeroed := decide (m ≠ 0 ∧ k = 0) }

/-- Conversion to any element format; wide destinations follow R101 and R106. -/
def convTo (f : Fmt) (r : Rnd) (v : XV) : Conv :=
  match f with
  | .fp4 => convNarrowF fFP4 r v
  | .int4s => convInt4 (-8) 7 r v
  | .int4u => convInt4 0 15 r v
  | .e4m3 => convNarrowF fE4M3 r v
  | .e5m2 => convNarrowF fE5M2 r v
  | .bf16 => let (c, o) := encodeWide fBF16 r v; { code := c, overflow := o }
  | .fp32 => let (c, o) := encodeWide fFP32 .rne v; { code := c, overflow := o }

/-! The tensor line (R88 to R91, R95, R96). -/

/-- Element i of a line. -/
def lineElem (f : Fmt) (line : List Byte) (i : Nat) : Nat :=
  match f.width with
  | 4 => let b := leAt line (i / 2) 1; if i % 2 = 0 then b % 16 else b / 16
  | 8 => leAt line i 1
  | 16 => leAt line (2 * i) 2
  | _ => leAt line (4 * i) 4

/-- Block exponent j of a narrow line. -/
def lineExp (line : List Byte) (j : Nat) : Nat := leAt line (64 + j) 1

/-- The tag of a narrow line. -/
def lineTag (line : List Byte) : Nat := leAt line 68 2

/-- The tag of R91. -/
def mkTag (fmtCode : Nat) (sparse rotated outlier nonfinite cvValid : Bool) : Nat :=
  fmtCode + 16 * sparse.toNat + 64 * rotated.toNat + 128 * outlier.toNat + 256 * nonfinite.toNat + 512 * cvValid.toNat

/-- Pairs of 4-bit codes as bytes (R89). -/
def packNibbles : List Nat → List Byte
  | [] => []
  | [a] => [BitVec.ofNat 8 (a % 16)]
  | a :: b :: r => BitVec.ofNat 8 (a % 16 + 16 * (b % 16)) :: packNibbles r

/-- The 64 element bytes of a narrow line. -/
def packElems (f : Fmt) (codes : List Nat) : List Byte :=
  if f.width = 4 then slice (packNibbles codes) 0 64
  else slice (codes.map (BitVec.ofNat 8 ·)) 0 64

/-- One byte of CRC-16 with polynomial 1021h, most significant bit first (R96). -/
def crc16Byte (crc : BitVec 16) (b : Byte) : BitVec 16 :=
  let step := fun (c : BitVec 16) =>
    if c.getLsbD 15 then (c <<< 1) ^^^ 0x1021#16 else c <<< 1
  let c0 := crc ^^^ (b.zeroExtend 16 <<< 8)
  step (step (step (step (step (step (step (step c0)))))))

/-- CRC-16 of R96. -/
def crc16 (l : List Byte) : BitVec 16 := l.foldl crc16Byte 0xFFFF#16

/-- The check value of a line read or written as line `idx` of descriptor `desc` (R96). -/
def checkValue (line : List Byte) (desc idx : Nat) : Nat :=
  (crc16 (slice line 0 70 ++ leBytes 4 desc ++ leBytes 6 idx)).toNat

/-- A narrow line from its 64 element bytes, block exponents and tag, with the check value of the mode (R95, R96). -/
def mkLine (elems exps : List Byte) (tag : Nat) (overcast : Bool) (desc idx : Nat) : List Byte :=
  let tag' := if overcast then tag / 1024 * 1024 + tag % 512 + 512 else tag / 1024 * 1024 + tag % 512
  let body := slice elems 0 64 ++ slice exps 0 4 ++ leBytes 2 tag'
  body ++ (if overcast then leBytes 2 (checkValue body desc idx) else [0, 0])

/-- A narrow line with its padding as the device writes it: code 0 in every element at or beyond the size along K, exponent 00h
for every block of padding only, and 00h in an FP8 line's bytes 66 and 67 (R88, R191). `k0` is the position along K of the
line's first element. -/
def padLine (f : Fmt) (k0 size : Nat) (l : List Byte) : List Byte :=
  let live := min f.perLine (size - k0)
  let codes := (List.range f.perLine).map (fun i => if i < live then lineElem f l i else 0)
  packElems f codes ++ (List.range 4).map (fun j => if 32 * j < live then l.getD (64 + j) 0 else 0) ++ slice l 68 4

/-! One step of a cell (R121 to R126). -/

/-- The overflow threshold T. -/
def overflowT : Rat := (2 - pow2 (-32)) * pow2 127

/-- The arithmetic events of R122. -/
structure AEv where
  invalid : Bool := false
  overflow : Bool := false
  nanSeen : Bool := false
  deriving DecidableEq, Repr

def AEv.or (a b : AEv) : AEv :=
  ⟨a.invalid || b.invalid, a.overflow || b.overflow, a.nanSeen || b.nanSeen⟩

def AEv.any (a : AEv) : Bool := a.invalid || a.overflow || a.nanSeen

/-- The running state of R122. -/
structure StepSt where
  r : XV
  nan : Bool
  ev : AEv

/-- One term of R122. -/
def stepTerm (st : StepSt) (t : XV × XV) : StepSt :=
  if t.1.isNan || t.2.isNan then { st with nan := true, ev := { st.ev with nanSeen := true } }
  else
    let p := xmul t.1 t.2
    if p.isNan then { st with nan := true, ev := { st.ev with invalid := true, nanSeen := true } }
    else if st.r.isNan then st
    else
      let q := xadd st.r p
      if q.isNan then { r := .nan, nan := true, ev := { st.ev with invalid := true, nanSeen := true } }
      else if q.isFinite && decide (overflowT ≤ q.mag) then
        { st with r := .inf q.neg, ev := { st.ev with overflow := true } }
      else { st with r := q }

/-- One step of one cell (R122): the accumulator's new W40 code and the events raised. -/
def cellStep (acc : BitVec 40) (terms : List (XV × XV)) : BitVec 40 × AEv :=
  let a := decodeW40 acc
  let st := terms.foldl stepTerm ⟨a, a.isNan, {}⟩
  (if st.nan then encodeW40 .nan else encodeW40 st.r, st.ev)

/-- One drain multiplication (R128, R129). -/
def drainMul (a b : XV) : XV × AEv :=
  if a.isNan || b.isNan then (.nan, { nanSeen := true })
  else
    let p := xmul a b
    if p.isNan then (.nan, { invalid := true, nanSeen := true })
    else if p.isFinite && decide (overflowT ≤ p.mag) then (.inf p.neg, { overflow := true })
    else (roundTo fW40 p, {})

/-- The scaled value d of a drained cell (R128). -/
def drainScale (acc : BitVec 40) (sa sb : XV) : XV × AEv :=
  let (x, e) := drainMul (decodeW40 acc) sa
  let (y, e') := drainMul x sb
  (y, e.or e')

end Sys2Proof.Machine
end

