-- ==== Sys2Proof/Config.lean ====
section
/-! DEFINITION. What an implementation fixes and the values the spec leaves open. Every constant here is opaque: no
proof can see its value, so a statement holds whatever it is. -/

namespace Sys2Proof.Config

/-- Contents of memory that the spec leaves unspecified (14 R434, R435; 20 R679), by the choice's number and the address
(log 3). -/
opaque freeByte : Nat → Nat → BitVec 8
/-- A fresh choice the spec leaves open, by the state's counter of such choices (log 3). -/
opaque freeNat : Nat → Nat
/-- Fresh random bytes: challenges and nonces (21 R699), by the state's counter (log 8). -/
opaque freshRandom : Nat → BitVec 256
/-- The Gohild firmware-signing public key in the boot ROM, x then y (17 R576; log 8). -/
opaque fwKey : BitVec 512
/-- The Gohild factory test public key in the boot ROM, x then y (19 R670; log 8). -/
opaque testKey : BitVec 512
/-- The device secret that the SRAM PUF gives (21 R695; log 8). -/
opaque pufSecret : BitVec 256
/-- The digest of the transcript that a signed SPDM response covers, by the state's counter of free values (21 R701; log 8). -/
opaque transcript : Nat → BitVec 256
/-- The certificate chain of slot 0, byte by byte (21 R698; log 8). -/
opaque certByte : Nat → BitVec 8
/-- A digest or message field whose bytes the SPDM and CXL standards give and the manual does not (21 R700; log 8). -/
opaque spdmByte : Nat → Nat → BitVec 8

/-- The carry format of a line that an ACCUM packet adds into a tile store, which neither the packet nor the target gives, by the
logical tile and the store offset: FP32 when true, else BF16 (15 R485; log 15). -/
opaque accumFp32 : Nat → Nat → Bool

end Sys2Proof.Config
end

