-- ==== Sys2Proof/Machine/Records.lean ====
section
/-! DEFINITION. The records an image carries, read from their bytes: descriptors (06), feed control blocks (07),
precision and select records (08), and the array, move and dispatch records and instruction words (11). -/

namespace Sys2Proof.Machine

/-- A descriptor record's bytes as one number, byte 0 least significant. -/
def descOfBytes (l : List Byte) : BitVec 1024 := BitVec.ofNat 1024 (leNat (l.take 128))
def descBytes (d : BitVec 1024) : List Byte := leBytes 128 d.toNat

/-- n bytes of a record from byte i. -/
def dF (d : BitVec 1024) (i n : Nat) : Nat := d.toNat / 2 ^ (8 * i) % 2 ^ (8 * n)

/-- Descriptor fields (R185, R186). -/
def dBase (d : BitVec 1024) : Nat := dF d 0 8
def dAlloc (d : BitVec 1024) : Nat := dF d 8 4
def dCtl (d : BitVec 1024) : Nat := dF d 0xC 4
def dIdxDesc (d : BitVec 1024) : Nat := dF d 0x10 4
def dLimit (d : BitVec 1024) : Nat := dF d 0x14 4
def dSize (d : BitVec 1024) (i : Nat) : Nat := if i < 6 then dF d (0x18 + 4 * i) 4 else 0
def dStride (d : BitVec 1024) (i : Nat) : Int := if i < 6 then signExt 40 (dF d (0x30 + 8 * i) 5) else 0
def dSparseBase (d : BitVec 1024) : Nat := dF d 0x60 8
def dFormat (d : BitVec 1024) : Nat := bits (dCtl d) 3 0
def dRank (d : BitVec 1024) : Nat := bits (dCtl d) 6 4
def dKdim (d : BitVec 1024) : Nat := bits (dCtl d) 10 8
def dSparse (d : BitVec 1024) : Bool := bit (dCtl d) 11
def dAccess (d : BitVec 1024) : Nat := bits (dCtl d) 13 12
def dScatterAdd (d : BitVec 1024) : Bool := bit (dCtl d) 14
def dRotated (d : BitVec 1024) : Bool := bit (dCtl d) 15
def dIdxEn (d : BitVec 1024) : Bool := bit (dCtl d) 16
def dIdxDim (d : BitVec 1024) : Nat := bits (dCtl d) 19 17
def dNarrow (d : BitVec 1024) : Bool := dFormat d < 5
def dIsWrite (d : BitVec 1024) : Bool := dAccess d == 1 || dAccess d == 2
def dIsRead (d : BitVec 1024) : Bool := dAccess d == 0 || dAccess d == 2

/-- Elements of a line of a format code (R186); 0 for a reserved code. -/
def perLine : Nat → Nat
  | 0 => 128 | 1 => 128 | 2 => 128 | 3 => 64 | 4 => 64 | 8 => 36 | 9 => 18 | 0xA => 18 | 0xB => 36 | 0xC => 72 | _ => 0

/-- The record with a new base address and sparse index base (R400). -/
def dRelocate (d : BitVec 1024) (delta : Int) : BitVec 1024 :=
  let put := fun (l : List Byte) (i v : Nat) => l.take i ++ leBytes 8 v ++ l.drop (i + 8)
  let l := descBytes d
  let l := put l 0 ((dBase d : Int) + delta).toNat
  let l := put l 0x60 (if dSparse d then ((dSparseBase d : Int) + delta).toNat else dSparseBase d)
  descOfBytes l

/-- The extent n_d (R204): the size, or the index limit of the indexed dimension. -/
def dExtent (d : BitVec 1024) (i : Nat) : Nat :=
  if dIdxEn d && dIdxDim d == i then dLimit d else dSize d i

/-- The least and greatest element offsets (R204). -/
def dMinOff (d : BitVec 1024) : Int :=
  ((List.range (dRank d)).map (fun i => if dStride d i < 0 then ((dExtent d i : Int) - 1) * dStride d i else 0)).foldl (· + ·) 0
def dMaxOff (d : BitVec 1024) : Int :=
  ((List.range (dRank d)).map (fun i => if 0 < dStride d i then ((dExtent d i : Int) - 1) * dStride d i else 0)).foldl (· + ·) 0

/-- The first and last addressed line, counted from the line at `BASE`. -/
def dMinLine (d : BitVec 1024) : Int := Int.fdiv (dMinOff d) (perLine (dFormat d))
def dMaxLine (d : BitVec 1024) : Int := Int.fdiv (dMaxOff d) (perLine (dFormat d))

/-- The element offset of an index vector (R187). -/
def dOffset (d : BitVec 1024) (idx : List Nat) : Int :=
  ((List.range (dRank d)).map (fun i => (idx.getD i 0 : Int) * dStride d i)).foldl (· + ·) 0

/-- The line and position of an index vector (R187). -/
def dLineOf (d : BitVec 1024) (idx : List Nat) : Int := Int.fdiv (dOffset d idx) (perLine (dFormat d))
def dPosOf (d : BitVec 1024) (idx : List Nat) : Nat := (Int.fmod (dOffset d idx) (perLine (dFormat d))).toNat

/-- The mixed-radix logical position of an index vector (R188), an index taken as it stands (R730). -/
def dLogical (d : BitVec 1024) (idx : List Nat) : Nat :=
  ((List.range (dRank d)).foldl (fun (a : Nat × Nat) i => (a.1 + idx.getD i 0 * a.2, a.2 * dSize d i)) (0, 1)).1

/-- A feed control block (R215, R216). -/
structure Fcb where
  desc : Nat
  kDim : Nat
  laneDim : Nat
  path : Nat
  qformat : Nat
  sr : Bool
  rot : Nat
  expand : Nat
  stats : Nat
  scale : Nat
  start : List Nat
  klen : Nat
  zpOff : Nat
  statOff : Nat
  stream : Nat
  resZero : Bool
  deriving DecidableEq, Repr

def parseFcb (l : List Byte) : Fcb :=
  let c := leAt l 4 4
  { desc := leAt l 0 4 % 2 ^ 20, kDim := bits c 2 0, laneDim := bits c 5 3, path := bits c 7 6, qformat := bits c 11 8,
    sr := bit c 12, rot := bits c 15 13, expand := bits c 17 16, stats := bits c 19 18, scale := bits c 31 24,
    start := (List.range 6).map (fun i => leAt l (8 + 4 * i) 4), klen := leAt l 0x20 4, zpOff := leAt l 0x24 4,
    statOff := leAt l 0x28 4, stream := leAt l 0x2C 4,
    resZero := leAt l 0 4 < 2 ^ 20 && bits c 23 20 == 0 && leAt l 0x30 16 == 0 }

/-- The order n of the Hadamard matrix a `ROT` code names, 0 for none (R216), and the shift s of R230. -/
def rotN : Nat → Nat
  | 1 => 16 | 2 => 32 | 3 => 64 | 4 => 128 | _ => 0
def rotS : Nat → Nat
  | 1 => 2 | 2 => 2 | 3 => 3 | 4 => 3 | _ => 0

/-- An array record (R339). -/
structure Arec where
  outDesc : Nat
  start : List Nat
  rowDim : Nat
  colDim : Nat
  scale : Nat
  sr : Bool
  saEn : Bool
  sbEn : Bool
  orsEn : Bool
  stream : Nat
  saOff : Nat
  sbOff : Nat
  orsOff : Nat
  tsOff : Nat
  pitch : Nat
  resZero : Bool
  deriving DecidableEq, Repr

def parseArec (l : List Byte) : Arec :=
  let dims := leAt l 0x1C 1
  let dc := leAt l 0x1E 1
  { outDesc := leAt l 0 4 % 2 ^ 20, start := (List.range 6).map (fun i => leAt l (4 + 4 * i) 4),
    rowDim := bits dims 2 0, colDim := bits dims 6 4, scale := leAt l 0x1D 1, sr := bit dc 0, saEn := bit dc 1,
    sbEn := bit dc 2, orsEn := bit dc 3, stream := leAt l 0x20 4, saOff := leAt l 0x24 4, sbOff := leAt l 0x28 4,
    orsOff := leAt l 0x2C 4, tsOff := leAt l 0x30 4, pitch := leAt l 0x34 4,
    resZero := leAt l 0 4 < 2 ^ 20 && !bit dims 3 && !bit dims 7 && bits dc 7 4 == 0 && leAt l 0x1F 1 == 0
      && leAt l 0x38 8 == 0 }

/-- A precision record (R251). -/
structure Prec where
  satLimit : Nat
  zeroLimit : Nat
  thresh : Nat
  cap : Nat
  top : Nat
  markOut : Bool
  span : Nat
  costFp8 : Nat
  costBf16 : Nat
  report : Nat
  resZero : Bool
  deriving DecidableEq, Repr

def parsePrec (l : List Byte) : Prec :=
  let la := leAt l 0xD 1
  { satLimit := leAt l 0 4, zeroLimit := leAt l 4 4, thresh := leAt l 8 4, cap := leAt l 0xC 1 % 64, top := bits la 1 0,
    markOut := bit la 2, span := leAt l 0xE 2, costFp8 := leAt l 0x10 4, costBf16 := leAt l 0x14 4, report := leAt l 0x18 4,
    resZero := leAt l 0xC 1 < 64 && bits la 7 3 == 0 && leAt l 0x1C 4 == 0 }

/-- The record an instruction that names none behaves as if it named (R251). -/
def noPrec : Prec :=
  { satLimit := 0xFFFFFFFF, zeroLimit := 0xFFFFFFFF, thresh := 0x7FC00000, cap := 0, top := 0, markOut := false, span := 0,
    costFp8 := 0, costBf16 := 0, report := 0xFFFFFFFF, resZero := true }

/-- A select record (R731). -/
structure Srec where
  statBase : Nat
  b : Nat
  cap : Nat
  n : Nat
  theta : Nat
  resZero : Bool
  deriving DecidableEq, Repr

def parseSrec (l : List Byte) : Srec :=
  { statBase := leAt l 0 4, b := leAt l 4 2, cap := leAt l 6 1 % 64, n := leAt l 8 4, theta := leAt l 0xC 4,
    resZero := leAt l 6 1 < 64 && leAt l 7 1 == 0 }

/-- A move record (R342). -/
structure Mrec where
  desc : Nat
  first : Int
  count : Nat
  ts : Nat
  srcTs : Bool
  target : Bool
  hops : Nat
  destPart : Nat
  destDev : Nat
  tgt : Nat
  loc : Nat
  resZero : Bool
  resZeroMove : Bool
  deriving DecidableEq, Repr

def parseMrec (l : List Byte) : Mrec :=
  let c := leAt l 0x14 1
  { desc := leAt l 0 4 % 2 ^ 20, first := signExt 48 (leAt l 4 6), count := leAt l 0xC 4, ts := leAt l 0x10 4,
    srcTs := bit c 0, target := bit c 1, hops := bits c 7 4, destPart := bits (leAt l 0x15 1) 1 0,
    destDev := leAt l 0x16 2 % 4096, tgt := leAt l 0x18 4, loc := leAt l 0x1C 6,
    resZero := leAt l 0 4 < 2 ^ 20 && leAt l 0xA 2 == 0 && bits c 3 2 == 0 && leAt l 0x15 1 < 4 && leAt l 0x16 2 < 4096
      && leAt l 0x22 30 == 0,
    resZeroMove := leAt l 0x14 14 == 0 }

/-- A dispatch record (R363). -/
structure Drec where
  assign : Nat
  n : Nat
  k : Nat
  policy : Nat
  e : Nat
  cap : Nat
  index : Nat
  drop : Nat
  occBase : Nat
  overflow : Nat
  resZero : Bool
  deriving DecidableEq, Repr

def parseDrec (l : List Byte) : Drec :=
  { assign := leAt l 0 4, n := leAt l 4 4, k := leAt l 8 1, policy := leAt l 9 1 % 2, e := leAt l 0xA 2, cap := leAt l 0xC 4,
    index := leAt l 0x10 4, drop := leAt l 0x14 4, occBase := leAt l 0x18 1, overflow := leAt l 0x1A 2,
    resZero := leAt l 9 1 < 2 && leAt l 0x19 1 == 0 && leAt l 0x1C 4 == 0 }

/-! The schedule entry: instruction word in bits [63:0], issue word in bits [127:64] (R331). -/

def eWord (e : BitVec 128) : Nat := e.toNat % 2 ^ 64
def eOffset (e : BitVec 128) : Nat := bits e.toNat 94 64
def eMark (e : BitVec 128) : Bool := bit e.toNat 95
def eOp (e : BitVec 128) : Nat := bits e.toNat 119 96
def eSlack (e : BitVec 128) : Nat := bits e.toNat 127 120
def eOpcode (e : BitVec 128) : Nat := bits e.toNat 7 0

/-- An epoch-point mark, and the end mark (R331). -/
def eIsEpoch (e : BitVec 128) : Bool := eMark e && eOp e == 0
def eIsEnd (e : BitVec 128) : Bool := eMark e && eOp e == 0xFFFFFF

/-- Fields of a Skink word (R285). -/
def kType (w : Nat) : Nat := bits w 10 8
def kVD (w : Nat) : Nat := bits w 15 11
def kVA (w : Nat) : Nat := bits w 20 16
def kVB (w : Nat) : Nat := bits w 25 21
def kVC (w : Nat) : Nat := bits w 30 26
def kMask (w : Nat) : Nat := bits w 33 31
def kMaskEn (w : Nat) : Bool := bit w 34
def kRound (w : Nat) : Bool := bit w 35
def kSat (w : Nat) : Bool := bit w 36
def kUns (w : Nat) : Bool := bit w 37
def kImm (w : Nat) : Nat := bits w 63 38

/-- Lanes a feeder presents in a shape: distinct rows, or column entries (R220). -/
def feedLanes (side shape : Nat) : Nat :=
  if side = 0 then (if shape = 0 then 64 else if shape = 1 then 16 else 4)
  else (if shape = 0 then 64 else if shape = 1 then 256 else 1024)

/-- Width of an output block of a shape (R152). -/
def blockWidth (shape : Nat) : Nat := feedLanes 1 shape

/-- Rows of cells one column segment serves, and the output rows (R152). -/
def segRows (shape : Nat) : Nat := feedLanes 0 shape

/-- Array fill of a shape (R153). -/
def arrayFill (shape : Nat) : Nat := if shape = 0 then 3 else if shape = 1 then 4 else 5

end Sys2Proof.Machine
end

