-- ==== Sys2Proof/Machine/TileState.lean ====
section
/-! DEFINITION. The plain data a logical tile holds: operand links, cells, output blocks, feeds, issue streams,
the scoreboard, and the Skink unit's registers (04, 05, 07, 08, 09, 11). -/

namespace Sys2Proof.Machine

/-- One operand element in a link (R145). `kind`: 0 FP4, 1 INT4 signed, 2 INT4 unsigned less its zero point (code holds
the difference plus 15), 3 E4M3, 4 E5M2, 5 BF16, 9 a residue of an edge summer (R167). `live` false: the position
contributes no term (R117, R118). `exp` is the block exponent, 127 for a wide element. -/
structure Elem where
  live : Bool
  kind : Nat
  code : Nat
  exp : Nat
  deriving DecidableEq, Repr

/-- One entry of a link: the output block, the running number of the step, the step's operands, and the acycle in which the
feeder presented it (R145, R153). -/
structure LinkEntry where
  blk : Nat
  step : Nat
  elems : List Elem
  at_ : Nat := 0
  deriving DecidableEq, Repr

/-- A cell: active and shadow W40 sets with their residues, the running number of its next step, whether the pass's
outlier step is due, one more than the number of the last output block it completed, and the acycle of its last step (R143,
R160); `dup`, `dupShd`: the two sets of the same cell of the site that shadows the tile's units (19 R644). -/
structure Cell where
  act : BitVec 40 := 0
  shd : BitVec 40 := 0
  res : Nat := 0
  shRes : Nat := 0
  next : Nat := 0
  outDue : Bool := false
  blkDone : Nat := 0
  at_ : Nat := 0
  dup : BitVec 40 := 0
  dupShd : BitVec 40 := 0
  deriving DecidableEq, Repr

/-- An array row: one more than the number of the last output block it swapped, and of the last it drained, with the acycles
of both (R162, R163). -/
structure ArrRow where
  swaps : Nat := 0
  entered : Nat := 0
  swapAt : Nat := 0
  enterAt : Nat := 0
  deriving DecidableEq, Repr

/-- A row in scale-and-convert: the drained W40 codes, their residues, the checksum cell's residue, and the codes that the
shadowing site drains. -/
structure ConvRow where
  blk : Nat
  row : Nat
  acc : List (BitVec 40)
  res : List Nat
  chk : Nat
  entered : Nat
  dup : List (BitVec 40) := []
  deriving DecidableEq, Repr

/-- Counts of a conversion (R241, R242). -/
structure Counts where
  sat : Nat := 0
  zero : Nat := 0
  nonf : Nat := 0
  zblk : Nat := 0
  sblk : Nat := 0
  elems : Nat := 0
  deriving DecidableEq, Repr

/-- What a feed takes with it when it issues: the tile-store places of its lines and of their index streams by directory key,
the values that bindings leave occupied by dimension (R365), the byte ranges it reads, bytes of them that were overwritten
after it issued, and the delayed-scale code it uses once its first block is converted (R248). -/
structure FeedSrc where
  lines : List ((Nat × Int) × Nat) := []
  bound : List (Nat × Nat) := []
  spans : List (Nat × Nat) := []
  kept : List (Nat × List (BitVec 8)) := []
  code : Option Nat := none
  deriving DecidableEq, Repr

/-- One K pass of an output block: its two feed control blocks (record offsets), length, steps, running number of its
step 0, step length, capacity, excluded offsets, the acycle in which its first step accumulates as scheduled, its two feeds'
sources, and the BF16 values sent to the outlier strip keyed lane × 64 + index, 65536 where there is no term (R256). -/
structure KPassSt where
  fcbR : Nat
  fcbC : Nat
  klen : Nat
  steps : Nat
  base : Nat
  step0 : Nat
  stepLen : Nat
  cap : Nat
  excl : List Nat
  sched : Nat := 0
  srcR : FeedSrc := {}
  srcC : FeedSrc := {}
  outR : List (Nat × Nat) := []
  outC : List (Nat × Nat) := []
  deriving DecidableEq, Repr

/-- An output block in progress (R732). `kind`: 0 first attempt, 1 fallback repeat, 2 same-rung recompute.
`rung` 0 FP4, 1 FP8, 2 BF16; `level` 0 as the feeds' control blocks say, else the rung a repeat converts to (R264).
`feedsLeft`: feeds that still present; `recomp`: the attempt recomputes a mismatched one (R267, R649); `prevIds`: the
attempts it replaces; `verd`: its verdict is past; `ord`: the acycle for which its first array entry is scheduled (R141);
`zps`: zero points read, by 1024 × side + lane (R224); `ocode`: the delayed-scale code of its drain (R248); `dupBad`: a row that
the shadowing site drained differs (19 R645). -/
structure OBlock where
  id : Nat
  op : Nat
  num : Nat
  rung : Nat
  level : Nat
  kind : Nat
  shape : Nat
  arec : Nat
  prec : Option Nat
  slack : Nat
  schedSwap : Nat
  bf16 : Bool
  passes : List KPassSt
  complete : Bool
  ins : Counts := {}
  outs : Counts := {}
  misses : Nat := 0
  decided : Bool := false
  late : Bool := false
  colSum : List Nat := []
  chkRow : List Nat := []
  rowBad : List Nat := []
  colSumChk : Nat := 0
  corner : Nat := 0
  lastAcy : Nat := 0
  tag : Nat := 0
  readOut : Bool := false
  drainDone : Option Nat := none
  exhausted : Bool := false
  feedsLeft : Nat := 0
  recomp : Bool := false
  prevIds : List Nat := []
  verd : Bool := false
  ord : Nat := 0
  zps : List (Nat × Nat) := []
  ocode : Option Nat := none
  dupBad : Bool := false
  deriving DecidableEq, Repr

/-- A feed in progress (R217): `side` 0 row feeder, 1 column feeder; the acycle of its first presentation and its latency
(R221); the step whose read is the last of each store page it reads; steps presented by each lane with the acycle of the last;
the running amax of each K offset as an FP32 code. -/
structure FeedSt where
  side : Nat
  op : Nat
  occ : Nat
  fcb : Nat
  shape : Nat
  rung : Nat
  issue : Nat
  blk : Option Nat := none
  pass : Nat := 0
  first : Nat := 0
  lat : Nat := 0
  src : FeedSrc := {}
  pages : List (Nat × Nat) := []
  lanes : List (Nat × (Nat × Nat)) := []
  amax : List (Nat × Nat) := []
  lastAcy : Nat := 0
  tag : Nat := 0
  repeated : Bool := false
  deriving DecidableEq, Repr

/-- A queued repeat (R265): the output block to run again, and the acycle in which it was queued. -/
structure Repeat where
  blk : OBlock
  rung : Nat
  kind : Nat
  cost : Nat
  at_ : Nat
  deriving DecidableEq, Repr

/-- An issue stream: fetched entries not yet issued, entries fetched so far, lateness, the acycle in which entries reached an
empty stream last, whether its end mark has issued,
whether its epoch-point mark of this segment has issued, whether cause 0 has counted in this segment,
and its exempt wait under way with the exempt ticks of the segment so far (20 R673, R674). -/
structure Strm where
  q : List (BitVec 128) := []
  fetched : Nat := 0
  late : Nat := 0
  fresh : Nat := 0
  ended : Bool := false
  marked : Bool := false
  counted : Bool := false
  waitFrom : Option Nat := none
  exempt : Nat := 0
  deriving DecidableEq, Repr

/-- A pending store page or occupancy register (R344), or a read in progress (R345): held from an acycle until, but not in,
another; `upto` none lasts until a completion step of the instruction that carries the tag. `off`: the acycle for which that
instruction is scheduled. -/
structure Hold where
  unit : Nat
  since : Nat
  upto : Option Nat
  tag : Nat
  off : Nat
  deriving DecidableEq, Repr

/-- A drained line whose output block has no passed verdict, by store offset (R171); `free`: the acycle from which its verdict
counts as passed. A block number no block has stands for a line whose verdict never comes (R184). -/
structure Unver where
  off : Nat
  blk : Nat
  free : Option Nat := none
  deriving DecidableEq, Repr

/-- A MOVE_IN under way: its run, its place in the order of the image's requests (`planKey`), which lines have arrived, whether
one was late, the line each line of the run is read from after substitution (none for a zero line: an empty slot or an
out-of-range index; R193, R207, R365), and the lines accessed so far with their index streams. -/
structure MoveSt where
  tag : Nat
  op : Nat
  desc : Nat
  first : Int
  count : Nat
  ts : Nat
  hint : Nat
  issue : Nat
  arrived : List Nat := []
  late : Bool := false
  src : List (Option Int) := []
  key : Nat := 0
  got : List (Nat × List (BitVec 8) × List (BitVec 8)) := []
  deriving DecidableEq, Repr

/-- A reduction chain (R306, R307): its value (the W40 code of RED_SUM, the FP32 code or the integer of the others, the
count of RED_CNZ), the index of RED_ARGMAX and whether any lane was not masked, and the vectors taken. -/
structure RChain where
  opcode : Nat
  type : Nat
  value : Int
  index : Nat
  found : Bool
  vecs : Nat
  deriving DecidableEq, Repr

/-- A result on its way (R286, R314, R351): selected bits of a vector or mask register, the outlier table with its
capacity, a delayed-scale slot, or a table bank from its first byte. -/
inductive Result where
  | vreg (r sel val : Nat)
  | mreg (r sel val : Nat)
  | outliers (tab : List Nat) (cap : Nat)
  | slot (i : Nat) (v : BitVec 8)
  | bank (base : Nat) (bytes : List (BitVec 8))
  deriving DecidableEq, Repr

/-- A result in flight and the acycle in which it can be read. -/
structure Flight where
  due : Nat
  res : Result
  deriving DecidableEq, Repr

/-- The Skink state of the site that shadows a tile's Skink unit, copied at the unit's start (19 R644, 09 R314). -/
structure SkinkTwin where
  vreg : List (Nat × BitVec 2048) := []
  mreg : List (Nat × BitVec 256) := []
  flights : List Flight := []
  chains : List (Nat × RChain) := []
  deriving DecidableEq, Repr

/-- A logical tile. Maps are canonical sparse maps of the default given. -/
structure Tile where
  /-- tile store bytes, default 00h -/
  store : List (Nat × BitVec 8) := []
  /-- tile-store bytes whose parity is wrong (R637) -/
  badPar : List Nat := []
  /-- V0 to V31 as 2,048-bit values, default 0 -/
  vreg : List (Nat × BitVec 2048) := []
  /-- M0 to M7, default 0 -/
  mreg : List (Nat × BitVec 256) := []
  /-- results in flight, by the acycle in which they can be read -/
  flights : List Flight := []
  /-- open reduction chains by number -/
  chains : List (Nat × RChain) := []
  /-- delayed-scale slots, default 7Fh -/
  dscale : List (Nat × BitVec 8) := []
  /-- outlier table, ascending -/
  outTab : List Nat := []
  lastCap : Nat := 0
  /-- table bank bytes at feeder × 512 + bank × 256 + 16t + e, default 00h -/
  banks : List (Nat × BitVec 8) := []
  /-- occupancy registers, default 0 -/
  occ : List (Nat × Nat) := []
  /-- bindings (descriptor, dimension, register) -/
  binds : List (Nat × Nat × Nat) := []
  streams : List Strm := [{}, {}, {}, {}, {}]
  stopped : Bool := false
  /-- the launch started while the block refused new work (02 R42) -/
  barred : Bool := false
  /-- the entries fetched for segment 0 of the armed launch, by stream (12 R391) -/
  ahead : List (List (BitVec 128)) := []
  /-- the count of the latest fetch start of a segment of the run: the epoch point reached, or a REPLAY announcement (12 R391) -/
  fetchFrom : Nat := 0
  /-- acycles of the launch before acycle 0 of the segment; every stored acycle counts from the launch -/
  base : Nat := 0
  pend : List Hold := []
  pendOcc : List Hold := []
  readers : List Hold := []
  moves : List MoveSt := []
  /-- where MOVE_IN and drains have put lines: key by `stageKey`, store offset (log 7) -/
  dir : List ((Nat × Int) × Nat) := []
  /-- entries issued so far per stream and operation number -/
  occurs : List (Nat × Nat) := []
  feeds : List FeedSt := []
  blocks : List OBlock := []
  nextBlk : Nat := 0
  nextStep : Nat := 0
  /-- row links by array row (64 the checksum row), head first, at most 8 entries -/
  rowLinks : List (Nat × List LinkEntry) := []
  /-- column links by 64 × segment + column; 1024 + segment for the checksum column -/
  colLinks : List (Nat × List LinkEntry) := []
  /-- by 2048 × side + link: the acycle from which a link that was full has room again (R161) -/
  rooms : List (Nat × Nat) := []
  /-- edge sums under assembly, by 128 × running step + 64 × side + segment: lanes seen and the sums -/
  edges : List (Nat × (Nat × List Nat)) := []
  cells : List (Nat × Cell) := []
  rows : List (Nat × ArrRow) := []
  conv : List ConvRow := []
  replay : List Repeat := []
  running : Option Nat := none
  /-- the acycle in which the budget of the segment's replay window begins, as the blocks issued so far have it (R359) -/
  winFrom : Nat := 0
  /-- the window of an epoch: its first acycle and the one at which it ends (R274) -/
  epoch : Option (Nat × Nat) := none
  /-- the acycle after the swap of the last repeat begun, as its length has it (R359) -/
  repFree : Nat := 0
  unver : List Unver := []
  /-- shadow units begun in this segment 0 (R641) -/
  units : Nat := 0
  /-- the copies on which the shadowing site runs the Skink unit under way -/
  twin : SkinkTwin := {}
  atEpoch : Bool := false
  /-- acycle, place in schedule order, operation, row and column of the recorded arithmetic event (R141) -/
  arithAt : Option (List Nat) := none
  /-- result acycle and operation of the recorded Skink exception (R312) -/
  skAt : Option (Nat × Nat) := none
  moveTag : Nat := 0
  /-- the last statistics write: its acycle plus 1, its first offset, and what the store held there before (R237) -/
  lastStat : Nat × Nat × List Nat := (0, 0, [])
  /-- acycles of the segment that have counted in a stall counter, as (counter, acycle) (R182, R377) -/
  stalls : List (Nat × Nat) := []
  deriving DecidableEq, Repr

end Sys2Proof.Machine
end

