-- ==== Sys2Proof/Machine/State.lean ====
section
/-! DEFINITION. The whole state of the device as plain data, the state after reset, and the reasons a step stops. Every
map is a list of (key, value) pairs in the canonical form of `smWf`: keys strictly rising, no entry at its default. -/

namespace Sys2Proof.Machine

/-- The header registers of one page (02 R38, R56, R57), with the fcycle in which `ERR_FIRST` latched (R67) and the command
that runs on the page (R41, R47). -/
structure Page where
  cmd : Word := 0
  result : Word := 0x100
  raw : BitVec 16 := 0
  sticky : BitVec 16 := 0
  enable : BitVec 16 := 0x8000
  cls : Word := 0
  errFirst : Word := 0
  errInfo : Word := 0
  cntSel : BitVec 8 := 0
  snap : Option (Nat × Word) := none
  held : Option (Nat × Word) := none
  errAt : Nat := 0
  run : Option Nat := none
  deriving DecidableEq, Repr

/-- One block's control and state (02 R41, R42, R44): BLK_CONTROL bits 3:0, work still in flight while it quiesces, power,
the page whose self-test request runs, a slice's `SLICE_CLEAN` under way, and whether its last self-test failed (17 R586). -/
structure Blk where
  control : BitVec 4 := 9
  busy : Bool := false
  pwrOn : Bool := true
  testPage : Option Nat := none
  cleaning : Bool := false
  failed : Bool := false
  deriving DecidableEq, Repr

/-- A 48-bit counter with its SAT (02 R70, R71). -/
structure Counter where
  value : BitVec 48 := 0
  sat : Bool := false
  deriving DecidableEq, Repr

/-- The identity flash (17 R580): part code, S-tier dies, identity, array repairs by site, factory remap records by
controller, and whether its digests hold. -/
structure Flash where
  part : BitVec 8
  dies : BitVec 8
  id : DWord
  repairs : List (Nat × Word)
  remaps : List (Nat × List DWord)
  ok : Bool
  deriving DecidableEq, Repr

/-- The site map in force (01 R12, R728): the site of each logical tile (default map by R12), the retired sites, the
sites that failed a self-test since the start (17 R588), and the repair enables a self-test set (17 R589). -/
structure SiteMap where
  site : List (Nat × Nat) := []
  retired : List Nat := []
  failed : List Nat := []
  fixed : List (Nat × Word) := []
  deriving DecidableEq, Repr

/-- Memory behind both tiers: bytes by device address (00h when unlisted, but free in a hole), the holes, newest first, as
(base, size, number of the choice, or 0 for zeros), where contents are unspecified or zero (14 R434, R435; 20 R679), and the poisoned lines by line
address (14 R462). -/
structure Mem where
  cells : List Host.Cell := []
  holes : List (Nat × Nat × Nat) := []
  poison : List (Nat × Bool) := []
  deriving DecidableEq, Repr

/-- A stack-cache line (14 R442): its line address, 72 bytes, dirty, the partition that protects it. -/
structure CLine where
  addr : Nat
  data : List Byte
  dirty : Bool
  prot : Option Nat
  deriving DecidableEq, Repr

/-- An allocation (14 R433). -/
structure Alloc where
  part : Nat
  handle : Nat
  tierS : Bool
  base : Nat
  size : Nat
  sealed : Bool
  deriving DecidableEq, Repr

/-- A loaded or loading image (12 R380 to R388): where it lies, what its header says, and the descriptors it made live. -/
structure Img where
  handle : Nat
  base : Nat
  size : Nat
  tiles : Nat
  group : Bool
  modes : Nat
  relaxed : Bool
  recOff : Nat
  recSize : Nat
  sched : List Nat
  sigOff : Nat
  signed : Bool
  digest : List Byte
  descs : List Nat
  loading : Bool
  deriving DecidableEq, Repr

/-- What a replay restores of a tile (13 R416). -/
structure TileSnap where
  tile : Nat
  outTab : List Nat
  lastCap : Nat
  dscale : List (Nat × BitVec 8)
  cnts : List (Nat × Counter)
  deriving DecidableEq, Repr

/-- A synchronisation object (15 R524). -/
structure SyncObj where
  ctl : Word := 0
  limit : Word := 0
  value : DWord := 0
  deriving DecidableEq, Repr

/-- A running launch (11 R332, 12 R394): its launch count, mode, segment and that segment's start count, the delay
R275 adds to expected counts, whether the segment has begun, the check it waits at with what it answers and whether it is the
commit check, the announced resume, and what a replay restores. `committed`: the announcement that ends the commit check has
been taken, or the image has none;
`replayAnn`: a REPLAY has been announced and its segment 0 has not begun; `moving`: tiles due to move at the acycle 0 of that
segment (19 R654). `dupN`, `dupPhi`: R642.
`epochs`: epochs run at the check it waits at; `divs`: ACLK dividers of the segment with the counts from which they hold. -/
structure Run where
  g : Nat
  mode : Nat
  seg : Nat := 0
  segStart : Nat
  begun : Bool := false
  shift : Nat := 0
  waiting : Option Nat := none
  answer : Nat := 0
  atCommit : Bool := false
  firstA : Option Nat := none
  resume : Option Nat := none
  epochAnn : Bool := false
  inEpoch : Bool := false
  replayAnn : Bool := false
  moving : List Nat := []
  abandonAnn : Option Nat := none
  committed : Bool := false
  cause3 : Bool := false
  replayMax : Nat := 2
  dupN : Nat := 0
  dupPhi : Nat := 0
  epochs : Nat := 0
  divs : List (Nat × Nat) := []
  snapTiles : List TileSnap := []
  snapSync : List (Nat × SyncObj) := []
  deriving DecidableEq, Repr

/-- What a scatter of a running launch has done to one destination line (06 R208 to R210): the operation and descriptor, the
line, its bytes before the scatter, the entries' lines so far by entry, and the bytes the scatter last wrote there. -/
structure Scatter where
  op : Nat
  desc : Nat
  line : Int
  orig : List Byte
  parts : List (Nat × List Byte)
  last : List Byte
  deriving DecidableEq, Repr

/-- A partition (01 R28): seed, held seed, image, armed launch, running launch, end of the last schedule, poison, the
commands that run on its pages (allocation zero fill, context save or restore), its copy queue's executing entry with the
line writes it has still to make (a byte it does not write is none), and the count
at which the wait that `CHECK_WAIT` shows began (20 R676), the mode whose schedule is being fetched ahead and the count at which
the launch was armed (12 R391), and the scatters of the running launch. -/
structure Part where
  seed : DWord := 0
  heldSeed : Option DWord := none
  img : Option Img := none
  restored : Bool := false
  armed : Option Nat := none
  run : Option Run := none
  lastEnd : Option Nat := none
  poison : Bool := false
  zeroing : Option Nat := none
  saving : Option Nat := none
  restoring : Option Nat := none
  cqBusy : Option (List Byte) := none
  cqLeft : List (Nat × List (Option Byte)) := []
  waitSince : Nat := 0
  fetchMode : Option Nat := none
  armedAt : Nat := 0
  scat : List Scatter := []
  deriving DecidableEq, Repr

/-- A shadow unit that waits for its verdict (19 R641 to R645): logical tile, unit, kind (0 array, 1 Skink), operation, free
site, and whether what the site computed from its copies differs from the primary result. -/
structure Shadow where
  tile : Nat
  unit : Nat
  kind : Nat
  op : Nat
  site : Nat
  differs : Bool := false
  deriving DecidableEq, Repr

/-- The fault collector (19 R653, R661): fault state, the count at which the lull ends, detection counts of logical
tiles, free sites and fabrics (keys 0 to 127; 256 + site; 512 + quadrant), due moves, shadows under way, warm resets
begun, the rotating self-tests as (quadrant, site), and each quadrant's latest as (quadrant, site, count) (17 R594). -/
structure FaultC where
  active : Bool := false
  lullEnd : Nat := 0
  det : List (Nat × List Nat) := []
  due : List Nat := []
  shadows : List Shadow := []
  warmHist : List Nat := []
  warmStart : Option Nat := none
  escalate : Bool := false
  warmPll : Bool := false
  rot : List (Nat × Nat) := []
  rotLast : List (Nat × Nat × Nat) := []
  deriving DecidableEq, Repr

/-- Armed fault injection (19 R672). -/
structure Inject where
  kind : Nat := 0
  page : Nat := 0
  data : Word := 0
  left : Nat := 0
  deriving DecidableEq, Repr

/-- Host answers to a device command outside `BLK_CMD_RESULT`: a result code and response bytes (DOE, SMBus, CXL.mem,
register reads, JTAG). -/
structure Resp where
  code : Nat := 0
  data : List Byte := []
  deriving DecidableEq, Repr

/-- A memory controller (14): reported temperature and its report bit, deratings in force, the error-row table as
(channel × 2^24 + row, count, last correction), factory and field remap records, the scrubber's position, and the row
copies under way as (channel × 2^24 + row). -/
structure Ctrl where
  temp : Nat := 0
  refresh : Nat := 0
  throttled : Bool := false
  crit : Bool := false
  rows : List (Nat × Nat × Nat) := []
  factory : List DWord := []
  field : List DWord := []
  scrub : Nat := 0
  copies : List Nat := []
  deriving DecidableEq, Repr

/-- A sequenced packet (15 R476 to R480, R523): DATA or SYNC, the control flit's body bytes 8 to 27, the data flits that
follow, and the link whose receive buffer holds them until they are sent on. -/
structure TxPkt where
  data : Bool
  body : BitVec 160
  payload : List Byte := []
  src : Option Nat := none
  deriving DecidableEq, Repr

/-- A Brekeger link's protocol state (15 R474 to R494, R502): sender (next sequence number, unacknowledged packets, queued
SYNC and DATA packets, credits, and the run of RETRY flits for one acknowledgement), the flits sent since training began,
oldest first, and the bodies of the data flits sent since the last control flit; receiver (codeword lock, the bodies of the
data flits received since the last control flit, next sequence number, whether any packet was accepted, whether it waits after
a RETRY, its run of RETRYs, whether an acknowledgement is due, credits to return), time exchange (own last TX_TIME; the far
end's TX_TIME, our time at its receipt, its DEPTH byte and RESIDUAL), training (the far end matches the declaration; it sends
MATCH), the lane moves pending as (lane, codeword), and the late transfers under way. -/
structure LinkSt where
  txSeq : Nat := 0
  unacked : List (Nat × TxPkt) := []
  syncQ : List TxPkt := []
  dataQ : List TxPkt := []
  credits : Nat := 2048
  retryAck : Option Nat := none
  retryRun : Nat := 0
  sent : List (BitVec 257) := []
  txData : List (BitVec 256) := []
  locked : Bool := false
  rxData : List (BitVec 256) := []
  rxNext : Nat := 0
  rxAny : Bool := false
  rxWait : Bool := false
  rxRetries : Nat := 0
  ackDue : Bool := false
  freed : Nat := 0
  ownTx : Option Nat := none
  farTx : Nat := 0
  farAt : Int := 0
  farDepth : Nat := 0
  farResidual : Int := 0
  ownMatch : Bool := false
  farMatch : Bool := false
  rxMove : Option (Nat × Nat) := none
  txMove : Option (Nat × Nat) := none
  late : List Nat := []
  deriving DecidableEq, Repr

/-- Chorus protocol state (15 R507 to R522). Worker: good and bad words in a row. Manager: rounds begun; the announcement
being sent as (TYPE, check, R), the count from which it may go, copies left; the open check; roster slots whose latest
answer counts; slots' runs of MISSING rounds; rounds for which CHORUS_ALL stayed low after every slot answered; and for a
system manager each group's (group, answer, check). `drift`: offsets above 1/2 tick in a row (R505). -/
structure Chorus where
  good : Nat := 0
  bad : Nat := 0
  rounds : Nat := 0
  ann : Option (Nat × Nat × Nat) := none
  annFrom : Nat := 0
  copies : Nat := 0
  openChk : Option Nat := none
  counted : List Nat := []
  missing : List (Nat × Nat) := []
  lowRounds : Nat := 0
  groups : List (Nat × Nat × Nat) := []
  drift : Nat := 0
  deriving DecidableEq, Repr

/-- A notification binding (16 R562): object, operation, argument. -/
structure Binding where
  obj : Nat
  op : Nat
  arg : DWord
  deriving DecidableEq, Repr

/-- Host-interface state outside registers (16, 17): lines the host holds, oldest first, snoops awaiting a response,
armed bindings by number, the open firmware transfer's announced length and bytes, the held firmware, the open test
challenge, and whether the link trained below 32 GT/s ×4, so that only configuration space is served (16 R544). -/
structure HostIf where
  held : List Nat := []
  snoops : List Nat := []
  binds : List (Nat × Binding) := []
  fwLen : Option Nat := none
  fwBytes : List Byte := []
  fw : List Byte := []
  challenge : Option (List Byte) := none
  noService : Bool := false
  deriving DecidableEq, Repr

/-- Power and heat (18): 10-µs samples in 1/4 W, the sums of ten samples that the 100-µs averages are and the sums of ten
of those that the 1-ms averages are, kept for the averages above them (newest first), the latest 1-ms sum, energy below one
millijoule in units of 2.5 µJ, the 100-µs averages of the current over-cap interval, the counts at which over-cap averages
ended, the last stretch step, violations since it, the count since which R617's conditions hold, the
divider change awaiting its safe point as (divider, mode change, earliest count), whether a step in force was
caused by power, sensor readings, and excluded sensors. -/
structure Power where
  samples : List Nat := []
  avgs : List Nat := []
  msAvgs : List Nat := []
  energy : Nat := 0
  overRun : Nat := 0
  overHist : List Nat := []
  lastStep : Option Nat := none
  pwrViol : Bool := false
  voltViol : Bool := false
  relSince : Option Nat := none
  switch : Option (Nat × Option Nat × Nat) := none
  pwrStretch : Bool := false
  lastMs : Option Nat := none
  temps : List (Nat × Nat) := []
  excluded : List Nat := []
  deriving DecidableEq, Repr

/-- Start-up and pins (17, 19, 22): the power-on hold, PERST#, TEST_EN as the hold ended, factory test mode, THERMTRIP#
driven low, and the JTAG instruction: 0 IDCODE, 1 BYPASS, 2 SAMPLE/PRELOAD, 3 EXTEST, 4 CLAMP, 5 HIGHZ (log 13). -/
structure Boot where
  hold : Bool := false
  perst : Bool := false
  testEn : Bool := false
  testMode : Bool := false
  tripPin : Bool := false
  jtag : Nat := 0
  deriving DecidableEq, Repr

/-- Security (21): SPDM negotiation reached (0 none, 1 version, 2 capabilities, 3 algorithms), open sessions and those
whose FINISH is due, sessions' key generations, and the IDE keys programmed by 4 × stream + 2 × direction + key set, with
stream 0 the link's and 1 CXL.cachemem's. -/
structure Sec where
  spdm : Nat := 0
  sessions : List Nat := []
  opening : List Nat := []
  keyGen : List (Nat × Nat) := []
  ide : List (Nat × Nat) := []
  deriving DecidableEq, Repr

/-- The device. -/
structure State where
  /-- commands waiting, first in first out -/
  pending : List Instr := []
  /-- global counter (15 R499) -/
  gcnt : DWord := 0
  /-- fcycles since the start (00 R8, 18 R603): FCLK is a clock of its own -/
  fcyc : Nat := 0
  /-- the MODEL's own counter of open choices made (log 3) -/
  free : Nat := 0
  /-- the last response outside `BLK_CMD_RESULT` -/
  resp : Resp := {}
  oos : Bool := false
  pages : List (Nat × Page) := []
  /-- READY by key: chip and host-interface pages by page, other blocks by their first page (02 R40) -/
  ready : List (Nat × Bool) := []
  /-- by the block's first page -/
  blks : List (Nat × Blk) := []
  /-- by page × 256 + index -/
  cnt : List (Nat × Counter) := []
  /-- every other register, by page × 4096 + offset -/
  regs : List (Nat × Word) := []
  flash : Flash
  map : SiteMap := {}
  mem : Mem := {}
  /-- cache sets by slice × 16384 + set, most recently used first (14 R442) -/
  cache : List (Nat × List CLine) := []
  allocs : List Alloc := []
  /-- live descriptors by partition × 2^20 + number; 0 is not live (06 R194) -/
  descs : List (Nat × BitVec 1024) := []
  parts : List (Nat × Part) := []
  /-- logical tiles by number -/
  tiles : List (Nat × Tile) := []
  /-- synchronisation objects by number (15 R524) -/
  sync : List (Nat × SyncObj) := []
  fc : FaultC := {}
  fi : Inject := {}
  /-- MSI-X vectors raised, oldest first (16 R561) -/
  msix : List Nat := []
  ctrls : List (Nat × Ctrl) := []
  links : List (Nat × LinkSt) := []
  chorus : Chorus := {}
  hif : HostIf := {}
  power : Power := {}
  boot : Boot := {}
  sec : Sec := {}
  deriving DecidableEq, Repr

/-- Why a step stops. -/
inductive Fault where
  /-- A host memory access to an address the spec says does not exist: outside both tiers, or outside every HDM window
  (16 R550, 14 R427). Raised by HOST_MEM_READ and HOST_MEM_WRITE. Safe. -/
  | noSuchAddress
  deriving DecidableEq, Repr

/-- Why a command has no meaning. -/
inductive Refusal where
  /-- The command's meaning is not written yet. Raised by the dispatcher only. Safe. -/
  | notModelled (mnemonic : String)
  deriving DecidableEq, Repr

/-- The state right after a start (17 R571; log 10) of a GHVX4-1280 whose identity flash holds no repair and no factory
remap record (log 11): nothing listed anywhere, so every register, counter and map is at its reset value. -/
def State.reset : State :=
  { flash := { part := 1, dies := 0x10, id := 0x0000000000000001, repairs := [], remaps := [], ok := true } }

end Sys2Proof.Machine
end

