-- ==== Sys2Proof/Machine/Regs.lean ====
section
/-! DEFINITION. Pages, blocks, the register file, tiles, partitions and counters as one place to read and write each
piece of state (01, 02). -/

namespace Sys2Proof.Machine

/-! Pages and blocks (R35, R38, R39). -/

/-- The page carries the common header (R37). -/
def hasHeader (p : Nat) : Bool := p < 0x84 || (0x100 ≤ p && p ≤ 0x187)

/-- The first page of the page's block. -/
def blkBase (p : Nat) : Nat :=
  if p < 0x30 then p / 16 * 16 else if p < 0x60 then p else if p < 0x80 then p / 16 * 16 else p

/-- Class of the page's block. -/
def blkClass (p : Nat) : Nat :=
  if p < 0x10 then 1 else if p < 0x20 then 2 else if p < 0x30 then 3 else if p < 0x40 then 4 else if p < 0x48 then 5
  else if p < 0x50 then 6 else if p < 0x60 then 7 else if p < 0x70 then 8 else if p < 0x80 then 9
  else if p < 0x84 then 0xA else 0x10

/-- Pages of the block. -/
def blkPages (p : Nat) : Nat := if p < 0x30 then 16 else if p < 0x60 then 1 else if p < 0x80 then 16 else 1

/-- `BLK_IDENT` (R38, R11). -/
def blkIdent (p : Nat) : Word :=
  BitVec.ofNat 32 (blkClass p * 2 ^ 24 + (p - (if p < 0x30 then p else if p < 0x40 then 0x30 else if p < 0x48 then 0x40
    else if p < 0x50 then 0x48 else if p < 0x60 then 0x50 else if p < 0x80 then p else if p < 0x84 then 0x80 else 0x100)) * 4096
    + blkPages p)

/-- `BLK_VERSION`: major 01h, minor 00h, the page's index within its block (R39). -/
def blkVersion (p : Nat) : Word := BitVec.ofNat 32 (0x01000000 + (p - blkBase p))

/-- The key of READY: the page on the chip and host-interface blocks, else the block (R40). -/
def readyKey (p : Nat) : Nat := if p < 0x10 || (0x20 ≤ p && p < 0x30) then p else blkBase p

def isTilePage (p : Nat) : Bool := 0x100 ≤ p && p ≤ 0x187
def isLinkPage (p : Nat) : Bool := 0x50 ≤ p && p < 0x60
def isCtrlPage (p : Nat) : Bool := 0x40 ≤ p && p < 0x50
def isSlicePage (p : Nat) : Bool := 0x30 ≤ p && p < 0x40
def isFabricPage (p : Nat) : Bool := 0x80 ≤ p && p < 0x84

/-! Events (19 R665, 16 R563, 15 R540). -/

/-- The number of events, from bit 0 up, that the page defines besides event 15. -/
def evCount (p : Nat) : Nat :=
  if isTilePage p then 15 else if isLinkPage p then 8 else if isCtrlPage p then 8 else if isFabricPage p then 1
  else match p with
    | 0x000 => 2 | 0x001 => 2 | 0x002 => 1 | 0x003 => 4 | 0x004 => 1 | 0x006 => 4 | 0x007 => 3 | 0x020 => 7
    | 0x02C => 2 | 0x02D => 2 | 0x02E => 2 | 0x02F => 2 | 0x070 => 3 | 0x071 => 9 | 0x072 => 1 | 0x07D => 2 | _ => 0

/-- The page defines event e (R60). -/
def evDefined (p e : Nat) : Bool := e < evCount p || e == 15

/-- Default class of an event: 0 CORRECTED, 1 CONTAINED, 2 POISON_STEP, 3 HANG or FATAL (R64, R665). -/
def evDefClass (p e : Nat) : Nat :=
  if isTilePage p then (if e == 3 || e == 4 || e == 6 then 2 else if e == 12 then 1 else 0)
  else if isCtrlPage p then (if e == 3 || e == 4 then 1 else 0)
  else if isFabricPage p then (if e == 0 then 2 else 0)
  else match p, e with
    | 0x000, 1 => 1 | 0x001, 0 => 3 | 0x002, 0 => 3 | 0x003, 0 => 2 | 0x003, 1 => 2 | 0x003, 2 => 1 | 0x003, 3 => 3
    | 0x006, 1 => 3 | _, _ => 0

/-- `EVT_ENABLE` and `EVT_CLASS` of the event are read-only (R65, R660). -/
def evFixed (p e : Nat) : Bool :=
  if isTilePage p then e == 4 || e == 5 || e == 6
  else if isCtrlPage p then e == 3 || e == 4
  else if isFabricPage p then e == 0
  else match p, e with
    | 0x001, 0 => true | 0x002, 0 => true | 0x003, 0 => true | 0x003, 1 => true | 0x003, 2 => true | 0x003, 3 => true
    | 0x006, 1 => true | _, _ => false

/-- The event is HANG, not FATAL, at class code 11b (R64). -/
def evIsHang (p e : Nat) : Bool := p == 2 && e == 0

def evEnableReset (p : Nat) : BitVec 16 := BitVec.ofNat 16 (2 ^ evCount p - 1 + 0x8000)
def evClassReset (p : Nat) : Word :=
  BitVec.ofNat 32 (((List.range 16).map (fun e => evDefClass p e * 4 ^ e)).foldl (· + ·) 0)

/-- A page after reset. -/
def pageReset (p : Nat) : Page := { enable := evEnableReset p, cls := evClassReset p }

/-! The register file. -/

/-- Reset value of a register (R15, R368, R392, R420, R431, R467, R537, R564, R599, R629, R631, R666, R692). -/
def regReset (k : Nat) : Word :=
  let p := k / 4096
  let o := k % 4096
  if p = 0x004 ∧ 0x40 ≤ o ∧ o < 0xC0 then
    BitVec.ofNat 32 (leNat ((List.range 4).map (fun j =>
      let t := o - 0x40 + j
      BitVec.ofNat 8 (34 * (t / 32) + t % 32))))
  else if isCtrlPage p then (if o = 0x40 then 0x55181803 else 0)
  else match p, o with
    | 0x000, 0x050 => 0x1E01 | 0x000, 0x054 => 0xFFFFFFFF
    | 0x001, 0x044 => 0x60 | 0x001, 0x048 => 0x26C | 0x001, 0x04C => 0x7D0
    | 0x002, 0x040 => 0x1000 | 0x002, 0x048 => 0x02580003
    | 0x003, 0x044 => 0xFA | 0x003, 0x048 => 3 | 0x003, 0x04C => 0x1802
    | 0x003, 0x050 => 0x1000 | 0x003, 0x054 => 0x1000 | 0x003, 0x058 => 0x1000 | 0x003, 0x05C => 0x1000
    | 0x006, 0x044 => 0x64
    | 0x021, 0x048 => 4 | 0x021, 0x068 => 4 | 0x021, 0x088 => 4 | 0x021, 0x0A8 => 4
    | 0x071, 0x0E0 => 0xFFFFFFFF | 0x071, 0x0E4 => 0xFFFFFFFF | 0x071, 0x0E8 => 0xFFFFFFFF | 0x071, 0x0EC => 0xFFFFFFFF
    | 0x071, 0x0F0 => 0xFFFFFFFF | 0x071, 0x0F4 => 0xFFFFFFFF | 0x071, 0x0F8 => 0xFFFFFFFF | 0x071, 0x0FC => 0xFFFFFFFF
    | 0x07C, 0x040 => 0xFFFFFFFF | 0x07C, 0x044 => 0xFFFFFFFF | 0x07C, 0x050 => 0xFFFFFFFF | 0x07C, 0x054 => 0xFFFFFFFF
    | 0x07C, 0x060 => 0xFFFFFFFF | 0x07C, 0x064 => 0xFFFFFFFF | 0x07C, 0x070 => 0xFFFFFFFF | 0x07C, 0x074 => 0xFFFFFFFF
    | 0x07D, 0x040 => 2
    | _, _ => 0

def rg (s : State) (p o : Nat) : Word := smGet regReset s.regs (p * 4096 + o)
def setRg (s : State) (p o : Nat) (v : Word) : State := { s with regs := smSet regReset s.regs (p * 4096 + o) v }

/-- A register's field, and the register with a field replaced. -/
def rgF (s : State) (p o hi lo : Nat) : Nat := fld (rg s p o) hi lo
def setRgF (s : State) (p o hi lo v : Nat) : State := setRg s p o (putFld (rg s p o) hi lo v)

/-- A 64-bit value held as two registers. -/
def rg64 (s : State) (p o : Nat) : Nat := (rg s p o).toNat + 2 ^ 32 * (rg s p (o + 4)).toNat
def setRg64 (s : State) (p o v : Nat) : State :=
  setRg (setRg s p o (BitVec.ofNat 32 v)) p (o + 4) (BitVec.ofNat 32 (v / 2 ^ 32))

def getPage (s : State) (p : Nat) : Page := smGet pageReset s.pages p
def setPage (s : State) (p : Nat) (x : Page) : State := { s with pages := smSet pageReset s.pages p x }

def getBlk (s : State) (p : Nat) : Blk := smGet (fun _ => {}) s.blks (blkBase p)
def setBlk (s : State) (p : Nat) (b : Blk) : State := { s with blks := smSet (fun _ => {}) s.blks (blkBase p) b }

/-- A bit of `BLK_CONTROL` (02 R42), and the block with it written. -/
def ctl (s : State) (p i : Nat) : Bool := (getBlk s p).control.getLsbD i
def setCtl (s : State) (p i : Nat) (b : Bool) : State :=
  let k := getBlk s p
  setBlk s p { k with control := if b then k.control ||| BitVec.ofNat 4 (2 ^ i) else k.control &&& ~~~BitVec.ofNat 4 (2 ^ i) }

/-- The block takes no new work: `ENABLE` is 0 or `QUIESCE` is 1 (02 R42). -/
def refusesWork (s : State) (p : Nat) : Bool := !ctl s p 0 || ctl s p 1

def getReady (s : State) (p : Nat) : Bool := smGet (fun _ => false) s.ready (readyKey p)
def setReady (s : State) (p : Nat) (b : Bool) : State := { s with ready := smSet (fun _ => false) s.ready (readyKey p) b }

/-! Tiles, sites and partitions (01). -/

def siteDefault (t : Nat) : Nat := 34 * (t / 32) + t % 32
/-- The site that carries a logical tile (R12, R728). -/
def siteOf (s : State) (t : Nat) : Nat := smGet siteDefault s.map.site t
/-- The logical tile a site carries. -/
def tileAt (s : State) (site : Nat) : Option Nat := (List.range 128).find? (fun t => siteOf s t == site)
def isRetired (s : State) (site : Nat) : Bool := s.map.retired.contains site
/-- A free site holds no logical tile and is not retired. -/
def isFree (s : State) (site : Nat) : Bool := (tileAt s site).isNone && !isRetired s site
/-- Free sites of a quadrant, ascending. -/
def freeSites (s : State) (q : Nat) : List Nat := ((List.range 34).map (34 * q + ·)).filter (isFree s)
/-- The tile page of a logical tile (R10). -/
def tpage (s : State) (t : Nat) : Nat := 0x100 + siteOf s t

/-- The partition count's code and the count (R25). -/
def partCode (s : State) : Nat := rgF s 0x001 0x060 1 0
def nParts (s : State) : Nat := match partCode s with | 1 => 2 | 2 => 4 | _ => 1
/-- Logical tiles of a partition, its first tile, and the partition of a tile (R24, R26). -/
def tilesPer (s : State) : Nat := 128 / nParts s
def firstTile (s : State) (p : Nat) : Nat := p * tilesPer s
def partTiles (s : State) (p : Nat) : List Nat := (List.range (tilesPer s)).map (firstTile s p + ·)
def partOf (s : State) (t : Nat) : Nat := t / tilesPer s
/-- The partitions that hold a quadrant. -/
def partOfQuad (s : State) (q : Nat) : Nat := q * nParts s / 4

def getPart (s : State) (p : Nat) : Part := smGet (fun _ => {}) s.parts p
def setPart (s : State) (p : Nat) (x : Part) : State := { s with parts := smSet (fun _ => {}) s.parts p x }
def updPart (s : State) (p : Nat) (f : Part → Part) : State := setPart s p (f (getPart s p))
def getTile (s : State) (t : Nat) : Tile := smGet (fun _ => {}) s.tiles t
def setTile (s : State) (t : Nat) (x : Tile) : State := { s with tiles := smSet (fun _ => {}) s.tiles t x }
def updTile (s : State) (t : Nat) (f : Tile → Tile) : State := setTile s t (f (getTile s t))

/-- A partition has an image loaded from the start of the load (12 R734). -/
def hasImage (s : State) (p : Nat) : Bool := (getPart s p).img.isSome
def anyImage (s : State) : Bool := (List.range 4).any (hasImage s)
/-- The partition's schedule runs. -/
def isRunning (s : State) (p : Nat) : Bool := (getPart s p).run.isSome
def anyRunning (s : State) : Bool := (List.range 4).any (isRunning s)

/-- Role: 0 STANDALONE, 1 WORKER, 2 MANAGER (15 R537). -/
def role (s : State) : Nat := rgF s 0x071 0x040 1 0
/-- Power mode in effect: 0 Calm, 1 Breeze, 2 Gale (18 R629). -/
def powerMode (s : State) : Nat := rgF s 0x001 0x044 1 0
/-- Effective check mode: Overcast (19 R640). -/
def overcast (s : State) : Bool := (rgF s 0x003 0x048 0 0 == 1) || (rgF s 0x003 0x048 1 1 == 1 && s.fc.active)
/-- A warm reset is under way (20 R679). -/
def warmActive (s : State) : Bool := rgF s 0x002 0x04C 0 0 == 1
/-- Acycles per 40 ticks of a mode: Gale 80, Breeze 64, Calm 160/3 taken over 120 ticks (11 R333). -/
def acyclesOf (mode ticks : Nat) : Nat := if mode = 2 then 2 * ticks else if mode = 1 then 8 * ticks / 5 else 4 * ticks / 3
def alignStep (mode : Nat) : Nat := if mode = 2 then 1 else if mode = 1 then 5 else 3
/-- ⌈acycles in ticks⌉ of a mode. -/
def ticksOf (mode acy : Nat) : Nat := if mode = 2 then ceilDiv acy 2 else if mode = 1 then ceilDiv (5 * acy) 8 else ceilDiv (3 * acy) 4

/-! Counters (R68 to R74). -/

/-- The page names a counter at the index. -/
def cntDefined (p i : Nat) : Bool :=
  if isTilePage p then (0x20 ≤ i && i ≤ 0x26) || (0x28 ≤ i && i ≤ 0x2B) || i == 0x30 || i == 0x31 || (0x38 ≤ i && i ≤ 0x43)
    || (0x48 ≤ i && i ≤ 0x4E) || i == 0x50 || i == 0x51 || (0x58 ≤ i && i ≤ 0x5D) || (0x60 ≤ i && i ≤ 0x63)
  else if isLinkPage p then i ≤ 0xB
  else if isCtrlPage p then i ≤ 0xD
  else if isSlicePage p then i ≤ 5
  else match p with
    | 0x000 => i ≤ 2
    | 0x001 => i ≤ 3 || (0x10 ≤ i && i ≤ 0x12) || (0x40 ≤ i && i < 0x60)
    | 0x002 => i ≤ 3 | 0x003 => i ≤ 9 | 0x005 => i == 0 | 0x006 => i ≤ 1 | 0x007 => i ≤ 2
    | 0x011 => i ≤ 3 | 0x020 => i ≤ 7 | 0x02C => i ≤ 4 | 0x02D => i ≤ 4 | 0x02E => i ≤ 4 | 0x02F => i ≤ 4
    | 0x070 => i == 0 | 0x071 => i ≤ 4 | 0x072 => i ≤ 2 | 0x07D => i ≤ 3 | _ => false

def getCnt (s : State) (p i : Nat) : Counter := smGet (fun _ => {}) s.cnt (p * 256 + i)
def setCnt (s : State) (p i : Nat) (c : Counter) : State := { s with cnt := smSet (fun _ => {}) s.cnt (p * 256 + i) c }

/-- A counter advanced by n, stopping at its maximum, and whether it saturates now (R71). -/
def Counter.add (c : Counter) (n : Nat) : Counter × Bool :=
  if c.sat then (c, false)
  else
    let v := c.value.toNat + n
    if 2 ^ 48 - 1 ≤ v then ({ value := BitVec.ofNat 48 (2 ^ 48 - 1), sat := true }, decide (n ≠ 0 ∨ c.value.toNat = 2 ^ 48 - 1))
    else ({ c with value := BitVec.ofNat 48 v }, false)

/-- The global counter as a number (15 R499). -/
def now (s : State) : Nat := s.gcnt.toNat

/-- A fresh open choice below n: the model's own free counter advances (log 3). -/
def choose (s : State) (n : Nat) : Nat × State := (Config.freeNat s.free % n, { s with free := s.free + 1 })

end Sys2Proof.Machine
end

