-- ==== Sys2Proof/Machine/Reset.lean ====
section
/-! DEFINITION. What a partition reset and a warm reset clear (01 R29, 20 R677 to R684). -/

namespace Sys2Proof.Machine

/-- `BLK_CMD_RESULT` of a page: a final result (02 R47). A command that runs on the page goes on (02 R43, R45). -/
def postResult (s : State) (p code echo : Nat) : State :=
  setPage s p { getPage s p with result := BitVec.ofNat 32 (code % 256 + 0x100 + echo % 256 * 65536) }

/-- A command keeps running: DONE 0. R47 states no CODE meanwhile: the model shows 00h (log 48). -/
def postRunning (s : State) (p echo : Nat) : State :=
  setPage s p { getPage s p with result := BitVec.ofNat 32 (echo % 256 * 65536), run := some echo }

/-- A running command ends with its result. -/
def postDone (s : State) (p code echo : Nat) : State :=
  setPage s p { getPage s p with result := BitVec.ofNat 32 (code % 256 + 0x100 + echo % 256 * 65536), run := none }

/-- The command of a code runs on the page. -/
def cmdRuns (s : State) (p code : Nat) : Bool := (getPage s p).run == some code

/-- `DONE` of the page (02 R47). -/
def isDone (s : State) (p : Nat) : Bool := fld (getPage s p).result 8 8 == 1

/-- Result codes (R50). -/
def rOK : Nat := 0
def rBUSY : Nat := 1
def rRANGE : Nat := 2
def rALIAS : Nat := 3
def rOVERLAP : Nat := 4
def rGEOM : Nat := 5
def rNOTREADY : Nat := 6
def rSIGBAD : Nat := 7
def rOOS : Nat := 8
def rUNSUP : Nat := 9
def rNEIGH : Nat := 0xA
def rSELFTEST : Nat := 0xB

/-- Drained lines whose block has no passed verdict once the block itself is gone: none ever comes (05 R171, R184). -/
def unverKept (l : List Unver) : List Unver := (l.filter (fun u => u.free.isNone)).map (fun u => { u with blk := 2 ^ 40 })

/-- What a partition reset leaves of a logical tile (05 R184, 07 R240, 08 R282, 09 R314, 11 R379): the tile store, with
the lines no passed verdict covers; everything else at its reset value. -/
def tileReset (x : Tile) : Tile := { store := x.store, badPar := x.badPar, unver := unverKept x.unver }

/-- A tile page's registers that a partition reset clears (11 R379). -/
def tileRegsReset (s : State) (t : Nat) : State :=
  setRg (setRg s (tpage s t) 0x260 0) (tpage s t) 0x264 0

/-- The tiles of a list reset. -/
def tilesReset (s : State) : List Nat → State
  | [] => s
  | t :: ts => tilesReset (updTile (tileRegsReset s t) t tileReset) ts

/-- The sync objects whose `PART` names the partition cleared (15 R532). -/
def syncResetPart (p : Nat) (m : List (Nat × SyncObj)) : List (Nat × SyncObj) :=
  m.filter (fun e => fld e.2.ctl 6 5 ≠ p)

/-- The cache's protections of a partition removed (14 R445). -/
def unprotect (p : Nat) (c : List (Nat × List CLine)) : List (Nat × List CLine) :=
  c.map (fun e => (e.1, e.2.map (fun l => if l.prot = some p then { l with prot := none } else l)))

/-- The allocations with one allocation's seal changed. -/
def sealAlloc (s : State) (p handle : Nat) (b : Bool) : State :=
  { s with allocs := s.allocs.map (fun a => if a.part = p ∧ a.handle = handle then { a with sealed := b } else a) }

/-- `IMG_STATUS.STATE` of the partition (12 R385). -/
def setImgState (s : State) (p v : Nat) : State := setRgF s (0x2C + p) 0x44 1 0 v

/-- `LAUNCH_STATUS_Pp`: its STATE from what is armed and runs (12 R392). -/
def syncLaunchState (s : State) (p : Nat) : State :=
  let x := getPart s p
  setRgF s 0x07C (0x48 + 16 * p) 1 0 (match x.run, x.armed with
    | none, none => 0 | none, some _ => 1 | some _, none => 2 | some _, some _ => 3)

/-- `IMG_DIGEST_k` of the partition (12 R384). -/
def setDigest (s : State) (p : Nat) (d : List Byte) : State :=
  (List.range 8).foldl (fun s k => setRg s (0x2C + p) (0x60 + 4 * k) (BitVec.ofNat 32 (leAt d (4 * k) 4))) s

/-- What the tiles of a partition fetched for a launch that does not start is dropped (12 R391). -/
def dropAhead (s : State) (p : Nat) : State :=
  updPart ((partTiles s p).foldl (fun s t => updTile s t (fun x => { x with ahead := [] })) s) p (fun y => { y with fetchMode := none })

/-- A partition's image state emptied: descriptors of its list destroyed, allocation unsealed, registers cleared (12 R390). -/
def dropImage (s : State) (p : Nat) : State :=
  match (getPart s p).img with
  | none => s
  | some i =>
    let s := { s with descs := s.descs.filter (fun e => !(e.1 / 2 ^ 20 == p && i.descs.contains (e.1 % 2 ^ 20))) }
    let s := sealAlloc s p i.handle false
    let s := dropAhead (updPart s p (fun x => { x with img := none, restored := false })) p
    setDigest (setRg s (0x2C + p) 0x44 0) p []

/-- A command that runs on the page completes with BUSY (12 R390); a page without one is left. -/
def abortRunning (s : State) (pg : Nat) : State :=
  match (getPage s pg).run with
  | some c => postDone s pg rBUSY c
  | none => s

/-- An MSI-X vector raised (16 R561). -/
def sendMsix (s : State) (v : Nat) : State := { s with msix := s.msix ++ [v] }

/-- The copy queue's STATE becomes 10b and the entry in progress ends (16 R560). -/
def endQueue (s : State) (p : Nat) : State :=
  updPart (setRgF s 0x021 (0x54 + 0x20 * p) 1 0 2) p (fun x => { x with cqBusy := none, cqLeft := [] })

/-- The copy queue stopped by a reset or a link loss (16 R560, R561); the vector is raised when it ran. -/
def stopQueue (s : State) (p : Nat) : State :=
  let s' := endQueue s p
  if rgF s 0x021 (0x54 + 0x20 * p) 1 0 = 0 then sendMsix s' (20 + p) else s'

/-- A partition reset (01 R29, 20 R677, R684). The memory, allocations, bindings and counters stay. -/
def partitionReset (s : State) (p : Nat) : State :=
  let x := getPart s p
  let s := abortRunning s (0x2C + p)
  let s := tilesReset s (partTiles s p)
  let s := dropImage s p
  let s := { s with descs := s.descs.filter (fun e => e.1 / 2 ^ 20 ≠ p), sync := syncResetPart p s.sync,
                    cache := unprotect p s.cache,
                    fc := { s.fc with shadows := s.fc.shadows.filter (fun h => !(partTiles s p).contains h.tile) } }
  let s := if x.armed.isSome then setRgF s 0x07C (0x48 + 16 * p) 6 4 6 else s
  let s := updPart s p (fun y => { y with armed := none, run := none, poison := false, saving := none, restoring := none,
                                          seed := x.heldSeed.getD y.seed, heldSeed := none,
                                          lastEnd := if x.run.isSome then some (now s) else y.lastEnd })
  let s := setRg s 0x002 (0x50 + 4 * p) 0
  syncLaunchState (stopQueue s p) p

/-- Counters of tile pages and image pages, which a warm reset clears (20 R677). -/
def warmClearedCnt (k : Nat) : Bool := isTilePage (k / 256) || (0x2C ≤ k / 256 && k / 256 ≤ 0x2F)

/-- What a warm reset clears of a partition beside a partition reset: seeds and held seeds (20 R677, 10 R326). -/
def warmPart (s : State) (p : Nat) : State :=
  let s := updPart s p (fun x => { x with heldSeed := none })
  updPart (partitionReset s p) p (fun x => { x with seed := 0 })

/-- Registers a warm reset keeps: of tile pages `ARRAY_REPAIR`; none of the descriptor, image and copy-queue pages, and no
armed bindings (20 R677; log 17). -/
def warmKeepsReg (k : Nat) : Bool :=
  !(isTilePage (k / 4096) && k % 4096 != 0x118) &&
  !(0x28 ≤ k / 4096 && k / 4096 ≤ 0x2B) && !(0x2C ≤ k / 4096 && k / 4096 ≤ 0x2F) &&
  !(k / 4096 == 0x21) && !(k / 4096 == 0x22 && 0x80 ≤ k % 4096)

/-- Every page forwards every event with its default class again (02 R60). -/
def eventDefaults (m : List (Nat × Page)) : List (Nat × Page) :=
  (m.map (fun e => (e.1, { e.2 with enable := evEnableReset e.1, cls := evClassReset e.1 }))).filter
    (fun e => e.2 != pageReset e.1)

/-- The whole of R677's warm-reset column that acts at once: partitions, sync objects, tiles, bindings and counters.
Stack-cache write-back, the firmware check and self-tests come with the reset's completion (R679). -/
def warmClear (s : State) : State :=
  let s := warmPart (warmPart (warmPart (warmPart s 0) 1) 2) 3
  let s := { s with
    pages := eventDefaults s.pages
    sync := [], tiles := [], regs := s.regs.filter (fun e => warmKeepsReg e.1),
    cnt := s.cnt.filter (fun e => !warmClearedCnt e.1),
    fc := { s.fc with shadows := [] }
    hif := { s.hif with binds := [] }
    chorus := { s.chorus with openChk := none, ann := none, copies := 0, counted := [], groups := [] } }
  endQueue (endQueue (endQueue (endQueue s 0) 1) 2) 3

end Sys2Proof.Machine
end

