-- ==== Sys2Proof/Machine/Fault.lean ====
section
/-! DEFINITION. Events, counters and the fault collector (02 R59 to R74; 19 R657 to R668): latching, reporting, the
class action, and counting with saturation. -/

namespace Sys2Proof.Machine

/-- The device goes out of service (02 R41), with vector 8 when it does so now. -/
def goOos (s : State) : State := if s.oos then s else sendMsix { s with oos := true } 8

/-- Ticks of a millisecond. -/
def msTicks : Nat := 1050000

/-- The page's first-event record takes an event that becomes sticky now: nothing was sticky, or what was recorded became
sticky in the same fcycle and has a higher index (R66, R67). -/
def firstEvent (s : State) (x : Page) (e : Nat) : Bool :=
  x.sticky == 0 || (!x.sticky.getLsbD e && x.errAt == s.fcyc && decide (e < fld x.errFirst 3 0))

/-- An event latches on its page (R61, R66, R67). -/
def latch (s : State) (p e : Nat) (info : Nat) : State :=
  let x := getPage s p
  let y := { x with sticky := x.sticky ||| BitVec.ofNat 16 (2 ^ e) }
  setPage s p (if firstEvent s x e then
    { y with errFirst := BitVec.ofNat 32 (e + 256 * (now s % 2 ^ 23) + 2 ^ 31), errInfo := BitVec.ofNat 32 info,
             errAt := s.fcyc } else y)

/-- A counter counts n; the flag says that it saturates now (R71). -/
def countRaw (s : State) (p i n : Nat) : State × Bool :=
  let (c, sat) := (getCnt s p i).add n
  (setCnt s p i c, sat)

/-- The owning partitions of a report (R658), for every report whose page and detail say them. -/
def ownersOf (s : State) (p e info : Nat) : List Nat :=
  if isTilePage p then (match tileAt s (p - 0x100) with | some t => [partOf s t] | none => [])
  else if p = 3 ∧ (e = 0 ∨ e = 1) then [partOf s (info % 128)]
  else if isFabricPage p then [partOfQuad s (p - 0x80)]
  else if 0x2C ≤ p ∧ p ≤ 0x2F then [p - 0x2C]
  else List.range (nParts s)

/-- The poison condition can be set on the partition: its launch runs an image with a commit check and the time is
before the announcement that ends the check, or between a REPLAY announcement and its segment 0 (R659). -/
def poisonable (s : State) (p : Nat) : Bool :=
  match (getPart s p).run with
  | none => false
  | some r => (r.begun || r.seg != 0 || r.replayAnn) && r.abandonAnn.isNone && (!r.committed || r.replayAnn)

/-- A warm reset begins (20 R678 to R682): cause 1 HANG, 2 FATAL, 3 host. -/
def warmBegin (s : State) (cause : Nat) : State :=
  let s := warmClear s
  let hist := if cause = 3 then s.fc.warmHist else (now s :: s.fc.warmHist).take 15
  let win := rgF s 0x002 0x48 27 16 * 1000 * msTicks
  let recent := countP (fun c => decide (now s < c + win)) hist
  let esc := cause != 3 && decide (rgF s 0x002 0x48 3 0 ≤ recent)
  let s := { s with
    fc := { s.fc with warmHist := hist, warmStart := some s.fcyc, escalate := esc }
    ready := s.ready.filter (fun e => !(isTilePage e.1 || isFabricPage e.1 || isSlicePage e.1)) }
  setRgF (setRgF (setRgF s 0x002 0x4C 0 0 1) 0x002 0x4C 3 1 cause) 0x002 0x4C 4 4 0

/-- The fault state begins or its lull restarts with a report (R661, R668). -/
def faultEnter (s : State) (p e cls : Nat) : State :=
  let lull := rgF s 0x003 0x44 13 0 * msTicks
  let s1 := { s with fc := { s.fc with active := true, lullEnd := now s + lull } }
  if s.fc.active then s1
  else setRg (setRg s1 0x003 0x60 (BitVec.ofNat 32 (p % 512 + 4096 * e + 65536 * cls + 2 ^ 31))) 0x003 0x64
    (BitVec.ofNat 32 (now s))

/-- The pending bit of the reporting page (R666). -/
def setPendingBit (s : State) (p : Nat) : State :=
  let o := 0x80 + 4 * (p / 32)
  setRg s 0x003 o (rg s 0x003 o ||| BitVec.ofNat 32 (2 ^ (p % 32)))

/-- The CONTAINED action on partitions: each is reset and counted (R657, R684). -/
def containParts (count : State → Nat → Nat → State) : List Nat → State → State
  | [], s => s
  | q :: qs, s => containParts count qs (count (partitionReset s q) 0x002 2)

/-- A partition comes to hold the poison condition; a member that waits at the commit check answers POISON from then on, which
counts once (R659; 13 R414, 15 R511). -/
def poisonPart (count : State → Nat → Nat → State) (s : State) (q : Nat) : State :=
  let s := updPart s q (fun x => { x with poison := true })
  match (getPart s q).run with
  | some r =>
    if r.waiting.isSome && r.resume.isNone && r.atCommit && r.answer != 0 && r.answer != 5 then
      updPart (count s 0x07D 3) q (fun x => { x with run := x.run.map (fun r => { r with answer := 5 }) })
    else s
  | none => s

/-- The POISON_STEP action on partitions (R659). -/
def poisonParts (count : State → Nat → Nat → State) : List Nat → State → State
  | [], s => s
  | q :: qs, s =>
    poisonParts count qs
      (if poisonable s q then poisonPart count s q else containParts count [q] s)

/-- The collector takes a report (R657 to R663, 20 R686): with HANG and FATAL in one fcycle `LAST` records FATAL. `hang`: class 11b
means HANG here (R64). -/
def collect (count : State → Nat → Nat → State) (s : State) (p e cls : Nat) (hang : Bool) (owners : List Nat) : State :=
  let s := setPendingBit s p
  if cls = 0 then sendMsix (count s 0x003 0) 3
  else
    let row := if cls = 3 then (if hang then 3 else 4) else cls
    let inWarm := warmActive s
    let s := count s 0x003 row
    let s := faultEnter s p e cls
    if cls = 1 then
      let s := if owners.isEmpty then sendMsix s 9 else owners.foldl (fun s q => sendMsix s (4 + q)) s
      if inWarm then s else containParts count owners s
    else if cls = 2 then
      let s := sendMsix s 2
      if inWarm then s else poisonParts count owners s
    else
      let s := sendMsix s (if hang then 1 else 0)
      if inWarm then (if !hang && s.fc.warmStart == some s.fcyc && rgF s 0x002 0x4C 3 1 == 1 then setRgF s 0x002 0x4C 3 1 2 else s)
      else if s.oos then s else warmBegin (count s 0x002 0) (if hang then 1 else 2)

/-- An event occurs (R61, R62), with its owning partitions given. -/
def raiseWith (count : State → Nat → Nat → State) (s : State) (p e info : Nat) (owners : List Nat) : State :=
  let x := getPage s p
  let was := x.sticky.getLsbD e
  let s := latch s p e info
  if was || !x.enable.getLsbD e then s
  else collect count s p e (fld x.cls (2 * e + 1) (2 * e)) (evIsHang p e) owners

/-- Counting inside a class action, n levels deep: a saturation raises `COUNTER_SATURATED` (R71), whose own report counts
one level further down. Three levels exceed what one event can cause. -/
def countN : Nat → State → Nat → Nat → State
  | 0, s, p, i => (countRaw s p i 1).1
  | n + 1, s, p, i =>
    let (s', sat) := countRaw s p i 1
    if sat then
      let (v, s') := choose s' (2 ^ 32)
      raiseWith (countN n) s' p 15 v (ownersOf s' p 15 v)
    else s'

/-- A counter counts n (R70, R71). -/
def countBy (s : State) (p i n : Nat) : State :=
  let (s', sat) := countRaw s p i n
  if sat then
    let (v, s') := choose s' (2 ^ 32)
    raiseWith (countN 3) s' p 15 v (ownersOf s' p 15 v)
  else s'

def count1 (s : State) (p i : Nat) : State := countBy s p i 1

/-- An event occurs, its owning partitions given (R464, R658). -/
def raiseOwned (s : State) (p e info : Nat) (owners : List Nat) : State := raiseWith (countN 3) s p e info owners

/-- An event occurs (R61, R62). -/
def raise (s : State) (p e info : Nat) : State := raiseOwned s p e info (ownersOf s p e info)

/-- An event of whose detail in `ERR_INFO` the spec states nothing occurs: the detail is a free value (log 15). -/
def raiseOpen (s : State) (p e : Nat) : State :=
  let (v, s) := choose s (2 ^ 32)
  raise s p e v

/-- An event whose condition is a level begins or ends (R60, R62). -/
def raiseLevel (s : State) (p e : Nat) (on : Bool) : State :=
  let m := BitVec.ofNat 16 (2 ^ e)
  let was := (getPage s p).raw.getLsbD e
  let s := setPage s p { getPage s p with raw := if on then (getPage s p).raw ||| m else (getPage s p).raw &&& ~~~m }
  if on && !was then raiseOpen s p e else s

/-- A tile page's counter and event, by logical tile. -/
def tcount (s : State) (t i n : Nat) : State := if n = 0 then s else countBy s (tpage s t) i n
def traise (s : State) (t e info : Nat) : State := raise s (tpage s t) e info

/-- The TDC of a partition increments for a cause (11 R367 to R371), with its first-record. -/
def tdcAdd (s : State) (p cause ltile op : Nat) : State :=
  let seg := match (getPart s p).run with | some r => r.seg | none => 0
  let o := 0x210 + 8 * p
  let s := if rgF s 0x001 o 31 31 = 1 then s
    else setRg (setRg s 0x001 o (BitVec.ofNat 32 (cause + 16 * ltile + 4096 * (seg % 65536) + 2 ^ 31))) 0x001 (o + 4)
      (BitVec.ofNat 32 (op % 2 ^ 24))
  count1 (count1 s 0x001 p) 0x001 (0x40 + 8 * p + cause)

/-- The same for a logical tile of the device, its number given within its partition (R369). -/
def tdcTile (s : State) (t cause op : Nat) : State :=
  tdcAdd s (partOf s t) cause (t - firstTile s (partOf s t)) op

/-- A detection charged to a unit (19 R653): its count is remembered, and a unit at its threshold falls due. Keys: logical
tile; 256 + site; 512 + quadrant. -/
def detHist (s : State) (k : Nat) : List Nat := smGet (fun _ => []) s.fc.det k
def detCount (s : State) (k : Nat) : Nat :=
  countP (fun c => decide (now s < c + rgF s 0x003 0x4C 15 8 * 3600 * 1000 * msTicks)) (detHist s k)

/-! Power domains (18 R623 to R628). -/

/-- Every register, event and counter of n pages at its reset value (R627). -/
def clearPages (s : State) (p n : Nat) : State :=
  { s with pages := s.pages.filter (fun e => decide (e.1 < p ∨ p + n ≤ e.1))
           cnt := s.cnt.filter (fun e => decide (e.1 / 256 < p ∨ p + n ≤ e.1 / 256))
           regs := s.regs.filter (fun e => decide (e.1 / 4096 < p ∨ p + n ≤ e.1 / 4096)) }

/-- Hub domains H3 to H8 that are on (R624). -/
def hubOn (s : State) : List Bool :=
  let any := fun (p n : Nat) => (List.range n).any (fun k => (getBlk s (p + k)).pwrOn)
  [any 0x50 16, any 0x40 8, any 0x48 8, any 0x30 16,
   (List.range 136).any (fun k => isFree s k && (getBlk s (0x100 + k)).pwrOn), any 0x80 4]

/-- `PD_SWITCHES` counts the domains that have switched since a state before (R628, R633). -/
def countSwitches (s0 s : State) (n : Nat) : State :=
  countBy s 0x005 0 (n + countP (fun e => e.1 != e.2) ((hubOn s0).zip (hubOn s)))

/-- A domain goes off: its block keeps only what the hub serves (R627). -/
def domainOff (s : State) (p : Nat) : State :=
  let b := getBlk s p
  let s' := setReady (setBlk s p { control := b.control &&& 3, pwrOn := false }) p false
  countSwitches s (clearPages s' (blkBase p) (blkPages p)) (if b.pwrOn then 1 else 0)

/-- A site is marked retired, and goes off (01 R18, R21; 18 R625): work it does as a free site is dropped (01 R20). -/
def retireSite (s : State) (site : Nat) : State :=
  let s := { s with map := { s.map with retired := if s.map.retired.contains site then s.map.retired else site :: s.map.retired }
                    fc := { s.fc with shadows := s.fc.shadows.filter (fun h => h.site ≠ site) } }
  domainOff s (0x100 + site)

/-- The map registers show the map in force (R728). -/
def reloadMap (s : State) : State :=
  let s := (List.range 32).foldl (fun s n =>
    setRg s 0x004 (0x40 + 4 * n) (BitVec.ofNat 32 (leNat ((List.range 4).map (fun k => BitVec.ofNat 8 (siteOf s (4 * n + k))))))) s
  (List.range 5).foldl (fun s n =>
    setRg s 0x004 (0xC0 + 4 * n) (BitVec.ofNat 32 (natOfBits ((List.range 32).map (fun i => isRetired s (32 * n + i)))))) s

/-- A retired free site or one that failed (01 R21): marked, recorded, announced, and shown in the map registers (01 R728). -/
def retireFree (s : State) (site : Nat) : State :=
  let s := retireSite s site
  let s := setRg s 0x004 0xD8 (BitVec.ofNat 32 (0x7F + 256 * site + 65536 * 0xFF + 2 ^ 31))
  raiseOpen (reloadMap s) 0x004 0

def charge (s : State) (k : Nat) : State :=
  let s := { s with fc := { s.fc with det := smSet (fun _ => []) s.fc.det k ((now s :: detHist s k).take 15) } }
  if detCount s k < rgF s 0x003 0x4C 3 0 then s
  else if k < 128 then { s with fc := { s.fc with due := if s.fc.due.contains k then s.fc.due else s.fc.due ++ [k] } }
  else if k < 512 then (if isFree s (k - 256) then retireFree s (k - 256) else s)
  else goOos s

/-- A detection charged to a logical tile, with its page's counter (R647, R669). -/
def chargeTile (s : State) (t : Nat) : State := charge (tcount s t 0x60 1) t

/-! Fault injection (19 R672). -/

/-- One occurrence of the armed injection is used; `FI_CTL.ARM` clears with the last. -/
def injectUsed (s : State) : State :=
  let n := s.fi.left - 1
  let s := { s with fi := { s.fi with left := n } }
  if n = 0 then setRgF s 0x003 0x100 0 0 0 else s

/-- An injection of the kind is armed on the page: it takes place here. -/
def fiTake (s : State) (kind page : Nat) : Bool × State :=
  if s.fi.kind = kind ∧ s.fi.page = page ∧ 0 < s.fi.left then (true, injectUsed s) else (false, s)

end Sys2Proof.Machine
end

