-- ==== Sys2Proof/Machine/LineCode.lean ====
section
/-! DEFINITION. The line code of the memory tiers and the stack cache (14 R437, R438, R442): RS(80, 72) over GF(2^8), the
check symbols of a line, and what a decoder makes of a codeword. -/

namespace Sys2Proof.Machine

/-! The field: x^8 + x^4 + x^3 + x^2 + 1, with α = 02h. -/

/-- A field element times α. -/
def gfTwice (a : Nat) : Nat := if 128 ≤ a then (2 * a) ^^^ 0x11D else 2 * a

/-- The product of two field elements, by the bits of the second from its highest. -/
def gfMul (a b : Nat) : Nat :=
  [7, 6, 5, 4, 3, 2, 1, 0].foldl (fun r i => if bit b i then gfTwice r ^^^ a else gfTwice r) 0

/-- αⁿ. -/
def gfPow : Nat → Nat
  | 0 => 1
  | n + 1 => gfTwice (gfPow n)

/-- The inverse of a non-zero element: its 254th power. -/
def gfInv (a : Nat) : Nat :=
  let r := (List.range 7).foldl (fun r _ => gfMul (gfMul r r) a) 1
  gfMul r r

/-! The code: codeword symbol s is the coefficient of x^(79 - s). -/

/-- The product of a polynomial, lowest coefficient first, with x - r. -/
def polyTimes (g : List Nat) (r : Nat) : List Nat :=
  (List.range (g.length + 1)).map (fun i => (if i = 0 then 0 else g.getD (i - 1) 0) ^^^ gfMul r (g.getD i 0))

/-- g(x) = (x - α⁰)(x - α¹)…(x - α⁷), lowest coefficient first. -/
def lineGen : List Nat := (List.range 8).foldl (fun g i => polyTimes g (gfPow i)) [1]

/-- One step of the division by g: the remainder, highest coefficient first, takes the next symbol. -/
def divStep (g : List Nat) (r : List Nat) (m : Nat) : List Nat :=
  let f := m ^^^ r.headD 0
  (List.range 8).map (fun i => r.getD (i + 1) 0 ^^^ gfMul f (g.getD (7 - i) 0))

/-- The 8 check symbols of 72 payload bytes: the remainder of payload(x)·x^8 by g. -/
def checkSymbols (d : List Byte) : List Byte :=
  (((List.range 72).map (fun i => (d.getD i 0).toNat)).foldl (divStep lineGen) (List.replicate 8 0)).map (BitVec.ofNat 8)

/-- The codeword of a line. -/
def codeword (d : List Byte) : List Byte := slice d 0 72 ++ checkSymbols d

/-- The word's value at αʲ. -/
def syndrome (w : List Byte) (j : Nat) : Nat :=
  (List.range 80).foldl (fun r i => gfMul r (gfPow j) ^^^ (w.getD i 0).toNat) 0

/-- The word is a codeword. -/
def isCodeword (w : List Byte) : Bool := (List.range 8).all (fun j => syndrome w j == 0)

/-- The word with a symbol changed by a value. -/
def changeSymbol (w : List Byte) (s v : Nat) : List Byte := w.set s (w.getD s 0 ^^^ BitVec.ofNat 8 v)

/-- The values that put two symbols right when the first two syndromes are all that is wrong. -/
def pairValues (s0 s1 i j : Nat) : Nat × Nat :=
  let x := gfPow (79 - i)
  let y := gfPow (79 - j)
  let b := gfMul (s1 ^^^ gfMul s0 x) (gfInv (x ^^^ y))
  (s0 ^^^ b, b)

/-- The codeword that differs from a word in one symbol, or in two, if there is one: how many, and the codeword. -/
def nearCodeword (w : List Byte) : Option (Nat × List Byte) :=
  let s0 := syndrome w 0
  let s1 := syndrome w 1
  match ((List.range 80).map (fun i => changeSymbol w i s0)).find? isCodeword with
  | some c => some (1, c)
  | none =>
    (((List.range 80).flatMap (fun j => (List.range j).map (fun i => (i, j)))).findSome? (fun p =>
      let v := pairValues s0 s1 p.1 p.2
      let c := changeSymbol (changeSymbol w p.1 v.1) p.2 v.2
      if isCodeword c then some (2, c) else none))

/-! What a read makes of a codeword with some symbols in error. -/

/-- The error pattern as one byte for each symbol: entries of one symbol add up. -/
def errWord (err : List (BitVec 7 × Byte)) : List Byte :=
  err.foldl (fun l e => l.set e.1.toNat (l.getD e.1.toNat 0 ^^^ e.2)) (List.replicate 80 0)

/-- Symbols a pattern puts in error. -/
def badSymbols (err : List (BitVec 7 × Byte)) : Nat := countP (fun b => b != 0) (errWord err)

/-- Two words of one length added. -/
def addWords (a b : List Byte) : List Byte := List.zipWith (fun x y => x ^^^ y) a b

/-- What a decoder gives: the line as it stands in the codeword, the line with n symbols corrected, or no line. -/
inductive Decoded where
  | valid (d : List Byte)
  | corrected (d : List Byte) (n : Nat)
  | uncorrectable
  deriving DecidableEq, Repr

/-- Up to two symbols in error are corrected and three to six reported (R438). A word with more is what the code makes of
it: a codeword passes, one or two symbols away from a codeword it is miscorrected, and else it is reported (R437). -/
def lineDecode (d : List Byte) (err : List (BitVec 7 × Byte)) : Decoded :=
  let n := badSymbols err
  if n = 0 then .valid d
  else if n ≤ 2 then .corrected d n
  else if n ≤ 6 then .uncorrectable
  else
    let w := addWords (codeword d) (errWord err)
    if isCodeword w then .valid (w.take 72)
    else match nearCodeword w with
      | some (k, c) => .corrected (c.take 72) k
      | none => .uncorrectable

end Sys2Proof.Machine
end

