-- ==== Sys2Proof/Machine/Mem.lean ====
section
/-! DEFINITION. The memory tiers and the stack cache (14): where a line lies, reading and writing it through the cache
under a hint, correction, poisoning and row repair. -/

namespace Sys2Proof.Machine

/-! Geometry (R426 to R428). -/

/-- First address and size of tier S. -/
def sBase : Nat := 0x4000000000
def sSize (s : State) : Nat := if s.flash.part = 1 then 2 ^ 40 else 2 ^ 39
/-- The address decodes to memory, and to tier S. -/
def inMem (s : State) (a : Nat) : Bool := a < sBase + sSize s
def isS (a : Nat) : Bool := sBase ≤ a
def tierStart (a : Nat) : Nat := if isS a then sBase else 0
/-- Line index of an address, the line's address, and whether an address is a line address (R189). -/
def lineIx (a : Nat) : Nat := (a - tierStart a) / 72
def lineAddr (a : Nat) : Nat := tierStart a + 72 * lineIx a
def isLineAddr (a : Nat) : Bool := (a - tierStart a) % 72 == 0
def channels (a : Nat) : Nat := if isS a then 10 else 40
/-- The interleave period in lines. -/
def period (a : Nat) : Nat := 8 * channels a
def stackOf (a : Nat) : Nat := lineIx a % 8
def channelOf (a : Nat) : Nat := lineIx a / 8 % channels a
def rowOf (a : Nat) : Nat := lineIx a / period a / 32
/-- The controller page of a line. -/
def ctrlPage (a : Nat) : Nat := 0x40 + stackOf a + (if isS a then 8 else 0)
def sliceOf (a : Nat) : Nat := lineIx a % 16
def setKey (a : Nat) : Nat := sliceOf a * 16384 + lineIx a / 16 % 14563
/-- The error-row key of a line: channel and row. -/
def rowKey (a : Nat) : Nat := channelOf a * 2 ^ 24 + rowOf a
/-- The last whole line lies below this address (R428). -/
def tierLines (s : State) (tierS : Bool) : Nat := (if tierS then sSize s else sBase) / 72

def getCtrl (s : State) (k : Nat) : Ctrl := smGet (fun _ => {}) s.ctrls k
def setCtrl (s : State) (k : Nat) (c : Ctrl) : State := { s with ctrls := smSet (fun _ => {}) s.ctrls k c }

/-! Bytes behind the cache. -/

/-- What a byte of memory that nothing has written reads as: 00h (log 3), and a free byte where the contents became
unspecified (R434, R435; 20 R679). -/
def memDflt (m : Mem) (a : Nat) : Byte :=
  match m.holes.find? (fun h => decide (h.1 ≤ a ∧ a < h.1 + h.2.1)) with
  | some h => if h.2.2 = 0 then 0 else Config.freeByte h.2.2 a
  | none => 0
def memByte (m : Mem) (a : Nat) : Byte := smGet (memDflt m) m.cells a
def memSetByte (m : Mem) (a : Nat) (b : Byte) : Mem := { m with cells := smSet (memDflt m) m.cells a b }
/-- The memory's list is in its one canonical form. -/
def Mem.wf (m : Mem) : Bool := smWf (memDflt m) m.cells && smWf (fun _ => false) m.poison

/-- The contents of a range become unspecified, or zero (stamp 0). -/
def memBlank (m : Mem) (base size stamp : Nat) : Mem :=
  { m with cells := m.cells.filter (fun c => !decide (base ≤ c.1 ∧ c.1 < base + size)), holes := (base, size, stamp) :: m.holes }

def memBytes (m : Mem) (a : Nat) : Nat → List Byte
  | 0 => []
  | n + 1 => memByte m a :: memBytes m (a + 1) n

def memSetBytes (m : Mem) (a : Nat) : List Byte → Mem
  | [] => m
  | b :: bs => memSetBytes (memSetByte m a b) (a + 1) bs

def isPoison (m : Mem) (a : Nat) : Bool := smGet (fun _ => false) m.poison a
def setPoison (m : Mem) (a : Nat) (b : Bool) : Mem := { m with poison := smSet (fun _ => false) m.poison a b }

/-- 72 bytes FFh (R463). -/
def ffLine : List Byte := List.replicate 72 0xFF

/-! The cache. -/

def getSet (s : State) (k : Nat) : List CLine := smGet (fun _ => []) s.cache k
def putSet (s : State) (k : Nat) (l : List CLine) : State := { s with cache := smSet (fun _ => []) s.cache k l }
/-- The cached line of a line address. -/
def cached (s : State) (a : Nat) : Option CLine := (getSet s (setKey a)).find? (fun l => l.addr == a)
def dropCached (s : State) (a : Nat) : State :=
  putSet s (setKey a) ((getSet s (setKey a)).filter (fun l => l.addr ≠ a))

/-- A byte as a reader sees it through the cache, with no effect on it. -/
def peekByte (s : State) (a : Nat) : Byte :=
  match cached s (lineAddr a) with
  | some l => l.data.getD (a - lineAddr a) 0
  | none => if isPoison s.mem (lineAddr a) then 0xFF else memByte s.mem a

def peekBytes (s : State) (a : Nat) : Nat → List Byte
  | 0 => []
  | n + 1 => peekByte s a :: peekBytes s (a + 1) n

/-- The contents of a range, cached copies included, become unspecified (R434). -/
def blankRange (s : State) (base size : Nat) : State :=
  let stamp := s.free + 1
  let inside := fun (a : Nat) => decide (base ≤ a ∧ a < base + size)
  let fresh := fun (l : CLine) =>
    { l with data := (List.range 72).map (fun i => if inside (l.addr + i) then Config.freeByte stamp (l.addr + i) else l.data.getD i 0) }
  { s with free := stamp, mem := memBlank s.mem base size stamp, cache := s.cache.map (fun e => (e.1, e.2.map fresh)) }

/-- All of memory becomes unspecified, and no line is poisoned any more (20 R679). -/
def loseMemory (s : State) : State :=
  blankRange { s with mem := { s.mem with poison := [] } } 0 (sBase + sSize s)

/-! Ownership (R464). -/

def allocAt (s : State) (a : Nat) : Option Alloc :=
  s.allocs.find? (fun x => decide (x.base ≤ a + 71 ∧ a < x.base + x.size))

/-- The descriptor-table region of tier F (R194). -/
def descRegion (a : Nat) : Bool := 0x3FE0000000 ≤ a && a < 0x4000000000

/-- The line shares a byte with the descriptor table of a partition (R194). -/
def tableMeets (a p : Nat) : Bool := decide (a < 0x3FE0000000 + (p + 1) * 0x8000000 ∧ 0x3FE0000000 + p * 0x8000000 < a + 72)

/-- The partitions that own a line: of the allocation that holds it, and of the descriptor tables it shares a byte with; a
table of a partition that does not exist has no owner. -/
def lineOwners (s : State) (a : Nat) : List Nat :=
  ((allocAt s a).toList.map (fun x => x.part) ++ (List.range (nParts s)).filter (tableMeets a)).eraseDups

/-- The first-record of an uncorrectable or poisoned line (R466); of two owners, the first is shown (log 52). Sources: 0 read, 1 scrub, 2 remap copy, 3 write-back. -/
def ueRecord (s : State) (a src : Nat) (reread : Bool) : State :=
  let p := ctrlPage a
  if rgF s p 0x50 31 31 = 1 then s
  else
    let o := (lineOwners s a).head?
    setRg (setRg64 s p 0x48 a) p 0x50
      (BitVec.ofNat 32 (o.getD 0 + 4 * o.isSome.toNat + 8 * src + 32 * reread.toNat + 2 ^ 31))

/-- A line is found uncorrectable and written poisoned (R462, R464). -/
def poisonLine (s : State) (a src : Nat) : State :=
  let p := ctrlPage a
  let s := { s with mem := setPoison s.mem a true }
  let s := count1 (ueRecord s a src false) p 4
  raiseOwned s p 3 (lineIx a % 2 ^ 32) (lineOwners s a)

/-- A read meets a poisoned line (R462). -/
def poisonRead (s : State) (a src : Nat) : State :=
  let p := ctrlPage a
  let s := count1 (ueRecord s a src true) p 5
  raiseOwned s p 4 (lineIx a % 2 ^ 32) (lineOwners s a)

/-! Row repair (R452 to R458). -/

/-- The remap records of a controller, factory records first. -/
def remaps (c : Ctrl) : List DWord := c.factory ++ c.field
def recGen (r : DWord) : Nat := bits r.toNat 37 36
def recChannel (r : DWord) : Nat := bits r.toNat 29 24
def recRow (r : DWord) : Nat := bits r.toNat 23 0
/-- The generation that holds a row now: 0 its own place. A retired row stays where it is (R455). -/
def rowGen (c : Ctrl) (k : Nat) : Nat :=
  (remaps c).foldl (fun g r => if recChannel r * 2 ^ 24 + recRow r = k ∧ recGen r ≠ 3 then recGen r else g) 0
/-- Spares left of a generation in a channel. -/
def sparesLeft (c : Ctrl) (ch gen : Nat) : Nat :=
  (if gen = 1 then 64 else 16) - countP (fun r => recChannel r == ch && recGen r == gen) (remaps c)
/-- The remap record of a row (R456). -/
def mkRemap (a gen : Nat) : DWord :=
  BitVec.ofNat 64 (rowOf a + channelOf a * 2 ^ 24 + stackOf a * 2 ^ 32 + (isS a).toNat * 2 ^ 35 + gen * 2 ^ 36 + 2 ^ 63)

/-- The first and past-last line index of a row's repair span (R428). -/
def spanLo (a : Nat) : Nat := 32 * period a * rowOf a
def spanHi (a : Nat) : Nat := 32 * period a * (rowOf a + 1)

/-- A row at its threshold is repaired (R453, R456, R457). -/
def repairRow (s : State) (a : Nat) : State :=
  let p := ctrlPage a
  let c := getCtrl s (p - 0x40)
  let k := rowKey a
  if c.field.length ≥ 4096 then raiseOpen s p 5
  else
    let c := { c with rows := c.rows.filter (fun r => r.1 ≠ k) }
    let ch := channelOf a
    let gen := match rowGen c k with
      | 0 => if 0 < sparesLeft c ch 1 then 1 else if 0 < sparesLeft c ch 2 then 2 else 3
      | 1 => if 0 < sparesLeft c ch 2 then 2 else 3
      | _ => 3
    let c := { c with field := c.field ++ [mkRemap a gen], copies := if gen = 3 then c.copies else c.copies ++ [k] }
    let s := setCtrl s (p - 0x40) c
    let s := count1 s p (5 + gen)
    raiseOpen s p (if gen = 3 then 2 else 1)

/-- Put a row's count into the error-row table, replacing the oldest entry of a full table (R452). -/
def noteRow (s : State) (a : Nat) : State :=
  let p := ctrlPage a
  let c := getCtrl s (p - 0x40)
  let k := rowKey a
  let win := rgF s p 0x40 15 8 * 3600 * 1000 * msTicks
  let old := c.rows.find? (fun r => r.1 == k)
  let n := match old with
    | some (_, n, last) => (if now s ≤ last + win then n else 0) + 1
    | none => 1
  let rest := c.rows.filter (fun r => r.1 ≠ k)
  let full := old.isNone && 256 ≤ rest.length
  let oldest := rest.foldl (fun m r => min m r.2.2) (now s)
  let rest := if full then rest.eraseIdx (rest.findIdx (fun r => r.2.2 == oldest)) else rest
  let s := setCtrl s (p - 0x40) { c with rows := rest ++ [(k, n, now s)] }
  let s := if full then count1 s p 0xC else s
  if rgF s p 0x40 3 0 ≤ n then repairRow s a else s

/-- A codeword with `n` bad symbols is corrected and written back (R439). -/
def correctLine (s : State) (a n : Nat) : State :=
  let p := ctrlPage a
  let s := countBy (count1 s p 2) p 3 n
  noteRow (raiseOpen s p 0) a

/-- The pattern of an injected codeword fault: `FI_DATA` symbols in a row from a place freely chosen, each in error by a
free value (19 R672). -/
def injectErr (s : State) (err : List (BitVec 7 × Byte)) : List (BitVec 7 × Byte) × State :=
  let (k, s) := choose s 80
  let (x, s) := choose s (255 ^ 8)
  (err ++ (List.range (fld s.fi.data 3 0)).map (fun i =>
    (BitVec.ofNat 7 ((k + i) % 80), BitVec.ofNat 8 (x / 255 ^ i % 255 + 1))), s)

/-- The controller reads a line from memory with the pattern `err` in its codeword (R437 to R439, R462, R463); a corrected
codeword is written back. -/
def memRead (s : State) (a src : Nat) (err : List (BitVec 7 × Byte)) : List Byte × State :=
  let p := ctrlPage a
  let (inj, s) := fiTake s 3 p
  let (err, s) := if inj then injectErr s err else (err, s)
  let s := if src = 1 then s else count1 s p 0
  if isPoison s.mem a then (ffLine, if src = 1 then s else poisonRead s a src)
  else
    let d := memBytes s.mem a 72
    match lineDecode d err with
    | .valid l => (l, s)
    | .corrected l n => (l, correctLine (if l = d then s else { s with mem := memSetBytes s.mem a l }) a n)
    | .uncorrectable => (ffLine, poisonLine s a src)

/-- The controller writes a whole line, which clears its poisoning (R465). -/
def memWrite (s : State) (a : Nat) (d : List Byte) : State :=
  count1 { s with mem := setPoison (memSetBytes s.mem a (slice d 0 72)) a false } (ctrlPage a) 1

def slicePage (a : Nat) : Nat := 0x30 + sliceOf a

/-- A dirty line is written back. -/
def writeBack (s : State) (l : CLine) : State := count1 (memWrite s l.addr l.data) (slicePage l.addr) 2

/-- The victim of a full set: the least recently used unprotected way (R444). Sets are kept most recent first. -/
def victim (l : List CLine) : Option CLine := l.reverse.find? (fun x => x.prot.isNone)

/-- A line put most recently used into its set, evicting and demoting as R444 says. -/
def cachePut (s : State) (x : CLine) : State :=
  let k := setKey x.addr
  let l := (getSet s k).filter (fun y => y.addr ≠ x.addr)
  let full := 12 ≤ countP (fun y => y.prot.isSome) l && x.prot.isSome
  let l := if full then
      match l.reverse.find? (fun y => y.prot.isSome) with
      | some v => l.map (fun y => if y.addr = v.addr then { y with prot := none } else y)
      | none => l
    else l
  let v := if 16 ≤ l.length then victim l else none
  let l' := match v with | some v => l.filter (fun y => y.addr ≠ v.addr) | none => l
  let s := if full then count1 s (slicePage x.addr) 4 else s
  let s := match v with | some v => if v.dirty then writeBack s v else s | none => s
  putSet s k (x :: l')

/-- A read through the cache under a hint: 0 DEFAULT, 1 STREAM, 2 KEEP, 3 DROP_AFTER_USE (R443 to R447); an access to a slice
that is off is a STREAM access (18 R626). -/
def readLine (s : State) (a hint part : Nat) (err : List (BitVec 7 × Byte)) : List Byte × State :=
  let sp := slicePage a
  let hint := if (getBlk s sp).pwrOn then hint else 1
  let miss := fun (s : State) (err : List (BitVec 7 × Byte)) =>
    let (d, s) := memRead (count1 s sp 1) a 0 err
    if isPoison s.mem a then (d, s)
    else if hint = 0 then (d, cachePut s { addr := a, data := d, dirty := false, prot := none })
    else if hint = 2 then (d, cachePut s { addr := a, data := d, dirty := false, prot := some part })
    else (d, s)
  match cached s a with
  | none => miss s err
  | some l =>
    let serve := fun (s : State) (l : CLine) (d : List Byte) =>
      match hint with
      | 0 => (d, cachePut s l)
      | 1 => (d, putSet s (setKey a) ((getSet s (setKey a)).filter (fun y => y.addr ≠ a) ++ [l]))
      | 2 => (d, cachePut s { l with prot := some part })
      | _ =>
        let s := dropCached s a
        (d, if l.dirty then count1 s sp 3 else s)
    match lineDecode l.data err with
    | .valid d => serve (count1 s sp 0) l d
    | .corrected d _ => serve (count1 (count1 s sp 0) sp 5) { l with data := d } d
    | .uncorrectable =>
      if l.dirty then (ffLine, poisonLine (dropCached s a) a 3) else miss (dropCached s a) []

/-- A device write of a whole line through the cache (R443). -/
def writeLine (s : State) (a : Nat) (d : List Byte) (hint part : Nat) : State :=
  let s := { s with mem := setPoison s.mem a false }
  let d := slice d 0 72
  if hint = 1 ∨ !(getBlk s (slicePage a)).pwrOn then
    match cached s a with
    | some l =>
      memWrite (putSet s (setKey a) ((getSet s (setKey a)).filter (fun y => y.addr ≠ a) ++ [{ l with data := d, dirty := false }])) a d
    | none => memWrite s a d
  else
    let prot := if hint = 2 then some part else if hint = 3 then none else (cached s a).bind (fun l => l.prot)
    cachePut s { addr := a, data := d, dirty := true, prot := prot }

/-! Device accesses and the host's cached lines (16 R555). -/

/-- A back-invalidate snoop goes out for a line the host holds. -/
def snoop (s : State) (a : Nat) : State :=
  if s.hif.held.contains a then
    count1 { s with hif := { s.hif with held := s.hif.held.filter (· ≠ a), snoops := s.hif.snoops ++ [a] } } 0x020 3
  else s

/-- A tile's, move's, link's or copy's read and write of a line. -/
def devRead (s : State) (a hint part : Nat) (err : List (BitVec 7 × Byte)) : List Byte × State := readLine (snoop s a) a hint part err
def devWrite (s : State) (a : Nat) (d : List Byte) (hint part : Nat) : State := writeLine (snoop s a) a d hint part

/-- The lines that n bytes from an address lie in. -/
def spanLines (a n : Nat) : List Nat :=
  if n = 0 then [] else (List.range ((lineAddr (a + n - 1) - lineAddr a) / 72 + 1)).map (fun i => lineAddr a + 72 * i)

/-- A device's read of n bytes from address `a`, line by line in ascending order, each line under its hint; `errs`: the patterns
in the lines' codewords, in their order. -/
def devSpan (s : State) (a n : Nat) (hint : Nat → Nat) (part : Nat) (errs : List (List (BitVec 7 × Byte))) : List Byte × State :=
  let r := (spanLines a n).zipIdx.foldl (fun (r : List Byte × State) l =>
    let q := devRead r.2 l.1 (hint l.1) part (errs.getD l.2 [])
    (r.1 ++ q.1, q.2)) ([], s)
  (slice r.1 (a - lineAddr a) n, r.2)

/-- A device's write of some bytes of a line. The line is written whole, its other bytes as they are; the device reads no
memory for them (R443; log 52). -/
def devMerge (s : State) (a : Nat) (bs : List (Option Byte)) (hint part : Nat) : State :=
  let old := if bs.all Option.isSome then [] else peekBytes s a 72
  devWrite s a ((List.range 72).map (fun i => ((bs[i]?).join).getD (old.getD i 0))) hint part

/-- A device's write of bytes from an address on, line by line (R443; log 52). -/
def devPut (s : State) (a : Nat) (l : List Byte) (hint part : Nat) : State :=
  (spanLines a l.length).foldl (fun s x =>
    devMerge s x ((List.range 72).map (fun i => if a ≤ x + i then l[x + i - a]? else none)) hint part) s

/-- A tile freely chosen among a partition's: the page on which an event of tile pages arises whose work no tile carries
(log 52). -/
def anyTile (s : State) (p : Nat) : Nat × State :=
  let r := choose s (tilesPer s)
  (firstTile s p + r.1, r.2)

/-- A line leaving a quadrant for memory with bad parity (19 R639, R647): written poisoned. -/
def parityLine (s : State) (a q : Nat) : State :=
  let s := dropCached (snoop s a) a
  let s := { s with mem := setPoison s.mem a true }
  let s := count1 (count1 s (ctrlPage a) 1) (ctrlPage a) 4
  raise (charge s (512 + q)) (0x80 + q) 0 (a % 2 ^ 32)

/-- A tile's line leaves its quadrant for memory, through the hub port's parity check (19 R637, R672). -/
def outLine (s : State) (q a : Nat) (d : List Byte) (hint part : Nat) : State :=
  let (inj, s) := fiTake s 2 (0x80 + q)
  if inj then parityLine s a q else devWrite s a d hint part

/-- A tile's line leaves its quadrant for a link (19 R639, R672). -/
def outLink (s : State) (q : Nat) (d : List Byte) : List Byte × State :=
  let (inj, s) := fiTake s 2 (0x80 + q)
  if inj then (ffLine, raiseOpen (charge s (512 + q)) (0x80 + q) 0) else (d, s)

/-! Descriptors and allocations as the device reads them (06). -/

/-- A live descriptor of a partition. -/
def getDesc (s : State) (p n : Nat) : Option (BitVec 1024) :=
  let d := smGet (fun _ => (0 : BitVec 1024)) s.descs (p * 2 ^ 20 + n)
  if d = 0 then none else some d
/-- Bytes the device itself puts into memory, cached copies included. -/
def pokeBytes (s : State) (a : Nat) (l : List Byte) : State :=
  let put := fun (c : CLine) =>
    { c with data := (List.range 72).map (fun i =>
        if a ≤ c.addr + i ∧ c.addr + i < a + l.length then l.getD (c.addr + i - a) 0 else c.data.getD i 0) }
  let s := { s with mem := memSetBytes s.mem a l }
  [lineAddr a, lineAddr (a + 72), lineAddr (a + 127)].eraseDups.foldl (fun s x =>
    match cached s x with
    | some c => putSet s (setKey x) ((getSet s (setKey x)).map (fun y => if y.addr = x then put c else y))
    | none => s) s
/-- A descriptor made live (R194): its record also lies in the descriptor-table region of tier F. -/
def setDesc (s : State) (p n : Nat) (d : BitVec 1024) : State :=
  pokeBytes { s with descs := smSet (fun _ => (0 : BitVec 1024)) s.descs (p * 2 ^ 20 + n) d }
    (0x3FE0000000 + p * 0x8000000 + n * 0x80) (leBytes 128 d.toNat)
def partDescs (s : State) (p : Nat) : List (Nat × BitVec 1024) :=
  (s.descs.filter (fun e => e.1 / 2 ^ 20 == p)).map (fun e => (e.1 % 2 ^ 20, e.2))
def getAlloc (s : State) (p h : Nat) : Option Alloc := s.allocs.find? (fun a => a.part == p && a.handle == h)
def partAllocs (s : State) (p : Nat) : List Alloc := s.allocs.filter (fun a => a.part == p)

/-- The device address of a descriptor's line, counted from the line at `BASE` (R187). -/
def descLineAddr (d : BitVec 1024) (line : Int) : Nat := ((dBase d : Int) + 72 * line).toNat

end Sys2Proof.Machine
end

