-- ==== Sys2Proof/Machine/Ops.lean ====
section
/-! DEFINITION. The gate every host command to a page passes, and what every register write does first (02, 17, 20). -/

namespace Sys2Proof.Machine

/-- Firmware runs (17 R579). -/
def fwRunning (s : State) : Bool := rgF s 0x010 0x40 2 0 == 3

/-- ACLK and FCLK run: they stop when THERMTRIP# asserts (18 R621). -/
def aclkOn (s : State) : Bool := !s.boot.tripPin

/-- The host reaches the device's registers and memory: it is out of reset (17 R570, R571) and its link trained to a
rate and width that give service (16 R544). -/
def hostServed (s : State) : Bool := !s.hif.noService && !s.boot.hold && !s.boot.perst

/-- The page's registers beyond the four the hub serves can be read and written: the block has power (02 R46), and
firmware runs or the page is one the device serves without it (17 R574). -/
def pageServed (s : State) (p : Nat) : Bool :=
  hasHeader p && hostServed s && (getBlk s p).pwrOn && (fwRunning s || p == 0 || (0x10 ≤ p && p < 0x20) || p == 0x20)

/-- The four registers that the hub serves of every page (17 R574) can be reached (16 R544). -/
def hubServed (s : State) (p : Nat) : Bool := hasHeader p && hostServed s

/-- A write to a page discards its held snapshot and held upper word, but for the word it completes (02 R58). -/
def noteWrite (s : State) (p : Nat) : State := setPage s p { getPage s p with snap := none, held := none }

/-- A page of the sync-object window (02 R36). -/
def inWindow (p : Nat) : Bool := 0x200 ≤ p && p < 0x300

/-- The offset is the lower word of a 64-bit value the host may write (02 R57), the sync-object window aside. -/
def pairRW (p o : Nat) : Bool :=
  if isTilePage p then o == 0x240
  else if isCtrlPage p then o == 0x60
  else if isLinkPage p then o == 0x4C
  else if 0x24 ≤ p ∧ p < 0x28 then o == 0x48 || o == 0x50
  else match p with
    | 0x021 => o == 0x40 || o == 0x60 || o == 0x80 || o == 0xA0
    | 0x022 => o == 0x44
    | 0x071 => o == 0x44
    | 0x072 => o == 0x44
    | 0x073 => o == 0xC0
    | 0x07C => o == 0x40 || o == 0x50 || o == 0x60 || o == 0x70
    | _ => false

/-- The upper word that a write of the lower word completes with, if one is held (02 R57). -/
def heldUpper (s : State) (p o : Nat) : Option Word :=
  match (getPage s p).held with
  | some (k, w) => if k = o + 4 then some w else none
  | none => none

/-- A command runs on the page: its DONE is 0, or a result that R43 or R45 posted stands meanwhile (02 R49; log 51). -/
def cmdBusy (s : State) (p : Nat) : Bool := !isDone s p || (getPage s p).run.isSome

/-- A command that only ends work, which a block that takes no new work accepts (log 51): `LINK_DISABLE`, `CHORUS_STOP`,
`CHORUS_ABORT`, `WARM_RESET` and `PART_RESET`. -/
def endsWork (code : Nat) : Bool := [0x61, 0x71, 0x73, 0x98, 0x99].contains code

/-- The write of a command to `BLK_CMD` (02 R42, R47 to R51, 17 R584, 20 R686): ignored on an unserved page and while a
command runs on the page; refused out of service, in a warm reset, on a page not ready unless the command is one that R584
excepts, and on a block that takes no new work (with BUSY; log 51). `refuse` is what a refusal before the command's own
checks records. -/
def command (s : State) (p code : Nat) (arg : Arg) (unready : Bool) (refuse : State → State) (act : State → State) : State :=
  if !pageServed s p then s
  else
    let s := noteWrite s p
    if cmdBusy s p then s
    else
      let s := setPage s p { getPage s p with cmd := BitVec.ofNat 32 (code + 256 * arg.toNat) }
      if s.oos then postResult (refuse s) p rOOS code
      else if warmActive s then postResult (refuse s) p rBUSY code
      else if !getReady s p && !unready then postResult (refuse s) p rNOTREADY code
      else if refusesWork s p && !endsWork code then postResult (refuse s) p rBUSY code
      else act s

/-- A command that a page defines, with its argument checked to be zero (R54's shape of every argument-free command). -/
def command0 (s : State) (p code : Nat) (arg : Arg) (refuse : State → State) (act : State → State) : State :=
  command s p code arg false refuse (fun s => if arg ≠ 0 then postResult (refuse s) p rUNSUP code else act s)

/-- A command's code of the last write (02 R47). -/
def echoOf (s : State) (p : Nat) : Nat := fld (getPage s p).result 23 16

/-- The command codes a page defines, code 00h aside. -/
def cmdDefined (p : Nat) : List Nat :=
  if isLinkPage p then [0x60, 0x61]
  else if isCtrlPage p then [0x40, 0x41]
  else if isSlicePage p then [0x50]
  else match p with
    | 0x001 => [0x90, 0x91] | 0x002 => [0x98, 0x99] | 0x004 => [0x01] | 0x011 => [0xA0, 0xA1, 0xA2]
    | 0x021 => [0x80] | 0x022 => [0x84, 0x85]
    | 0x024 => [0x30, 0x31, 0x32] | 0x025 => [0x30, 0x31, 0x32] | 0x026 => [0x30, 0x31, 0x32] | 0x027 => [0x30, 0x31, 0x32]
    | 0x028 => [0x10, 0x11, 0x12] | 0x029 => [0x10, 0x11, 0x12] | 0x02A => [0x10, 0x11, 0x12] | 0x02B => [0x10, 0x11, 0x12]
    | 0x02C => [0x20, 0x21, 0x22, 0x23] | 0x02D => [0x20, 0x21, 0x22, 0x23] | 0x02E => [0x20, 0x21, 0x22, 0x23]
    | 0x02F => [0x20, 0x21, 0x22, 0x23]
    | 0x070 => [0x68] | 0x071 => [0x70, 0x71, 0x73] | 0x072 => [0x72]
    | _ => []

/-- Overwrite bytes of a tile store. -/
def tsSet (x : Tile) (a : Nat) (b : Byte) : Tile := { x with store := smSet (fun _ => (0 : Byte)) x.store a b }
def tsGet (x : Tile) (a : Nat) : Byte := smGet (fun _ => (0 : Byte)) x.store a
def tsBytes (x : Tile) (a : Nat) : Nat → List Byte
  | 0 => []
  | n + 1 => tsGet x a :: tsBytes x (a + 1) n
/-- A little-endian number in the tile store. -/
def tsNat (x : Tile) (a n : Nat) : Nat := leNat (tsBytes x a n)
def tsSets (x : Tile) (a : Nat) : List Byte → Tile
  | [] => x
  | b :: bs => tsSets (tsSet x a b) (a + 1) bs

/-- Size of a tile store (01 R9). -/
def tsSize : Nat := 2 ^ 21

/-- What a feed has read of a tile store before n bytes from an offset change: the ranges they touch, as they are. -/
def FeedSrc.keep (q : FeedSrc) (x : Tile) (a n : Nat) : FeedSrc :=
  let hit := q.spans.filter (fun r => decide (r.1 < a + n ∧ a < r.1 + r.2) && !q.kept.any (fun k => k.1 == r.1))
  if hit.isEmpty then q else { q with kept := q.kept ++ hit.map (fun r => (r.1, tsBytes x r.1 r.2)) }

/-- Bytes written into a tile store by an instruction: their parity is good again, lines they touch are no longer
the output of an unverified block, and a feed under way keeps what it read there (log 53). -/
def tsWrite (x : Tile) (a : Nat) (l : List Byte) : Tile :=
  let y := tsSets x a l
  { y with badPar := y.badPar.filter (fun b => decide (b < a ∨ a + l.length ≤ b)),
           unver := y.unver.filter (fun u => decide (u.off + 72 ≤ a ∨ a + l.length ≤ u.off)),
           feeds := y.feeds.map (fun f => { f with src := f.src.keep x a l.length }) }

/-- The tile-store bytes whose parity a read finds wrong (19 R637): the first line offset, if any. -/
def tsBad (x : Tile) (a n : Nat) : Option Nat := x.badPar.find? (fun b => decide (a ≤ b ∧ b < a + n))

/-- A tile's parity check at a read of n bytes (19 R638). -/
def tsCheck (s : State) (t a n : Nat) : State :=
  match tsBad (getTile s t) a n with
  | none => s
  | some b => traise (tcount (chargeTile s t) t 0x62 1) t 6 (b / 72 * 72)

/-- A dispatched step that is not enabled leaves the state as it is (log 2). -/
def skip (s : State) : Host.Outcome State Fault Refusal := .next s

/-- The step occurs when its condition holds. -/
def guarded (c : Bool) (s s' : State) : Host.Outcome State Fault Refusal := .next (if c then s' else s)

end Sys2Proof.Machine
end

