-- ==== Sys2Proof/Machine/Flags.lean ====
section
/-! DEFINITION. The first-event records of a tile page and the sticky arithmetic events (04 R137 to R142, 05 R181,
08 R279, 09 R312, 11 R376), and the clears that re-arm them. -/

namespace Sys2Proof.Machine

/-- The place of an arithmetic event: operation, stage, output row and column, step and output block number, the place in
schedule order (the acycle for which the block's first array entry, or the instruction, is scheduled), and the acycle. Stages:
0 accumulate, 1 drain scaling, 2 output conversion, 3 feed conversion (R138). -/
structure APlace where
  op : Nat
  stage : Nat
  row : Nat
  col : Nat
  kstep : Nat
  num : Nat
  order : Nat
  acy : Nat
  deriving DecidableEq, Repr

/-- An event's acycle, then its element in schedule order: by operation and output block, whose scheduled acycle orders them,
then by row and column (R141). -/
def APlace.key (a : APlace) : List Nat := [a.acy, a.order, a.op, a.num, a.row, a.col]

/-- A list of numbers comes before another, the first difference deciding. -/
def lexBefore : List Nat → List Nat → Bool
  | a :: l, b :: m => decide (a < b) || (a == b && lexBefore l m)
  | _, _ => false

/-- The arithmetic report registers: filled at the first event and held from then on, but for an event that arises before the
recorded one, or in its acycle at an element earlier in schedule order; the kinds of one element in one acycle add up (R138 to
R141). A CVT's event counts in the acycle of its result, so that an array event that arises before that result takes the record
over. A feed conversion's event and an accumulation's of one block with equal ROW and COLUMN in one acycle count as one element,
whose STAGE stays that of the first (DESIGN CHOICE, log 53). -/
def arithRecord (s : State) (t : Nat) (a : APlace) (e : AEv) : State :=
  let p := tpage s t
  let old := (getTile s t).arithAt
  let valid := rgF s p 0xC0 31 31 == 1
  let kinds := 2 ^ 24 * e.invalid.toNat + 2 ^ 25 * e.overflow.toNat + 2 ^ 26 * e.nanSeen.toNat
  let fresh := !valid || (match old with | some o => lexBefore a.key o | none => false)
  if fresh then
    let s := setRg s p 0xC0 (BitVec.ofNat 32 (a.op % 2 ^ 24 + kinds + 2 ^ 27 * a.stage + 2 ^ 31))
    let s := setRg (setRg (setRg s p 0xC4 (BitVec.ofNat 32 (a.row % 1024 + 65536 * (a.col % 1024)))) p 0xC8
      (BitVec.ofNat 32 a.kstep)) p 0xCC (BitVec.ofNat 32 a.num)
    updTile s t (fun x => { x with arithAt := some a.key })
  else if old == some a.key then setRg s p 0xC0 (rg s p 0xC0 ||| BitVec.ofNat 32 kinds)
  else s

/-- The sticky events INVALID, OVERFLOW and NAN_SEEN on a tile's page (R137). -/
def arithRaise (s : State) (t op : Nat) (e : AEv) : State :=
  let s := if e.invalid then traise s t 0 op else s
  let s := if e.overflow then traise s t 1 op else s
  if e.nanSeen then traise s t 2 op else s

/-- The sticky events with their record (R137, R140). -/
def arithEvent (s : State) (t : Nat) (a : APlace) (e : AEv) : State :=
  if !e.any then s else arithRaise (arithRecord s t a e) t a.op e

/-- The events of one element of a scatter that adds (06 R209), raised as R122 and R132 raise them; the place of the record,
which the spec does not give, is free (log 15). -/
def scatterEvent (s : State) (t op acy order stage : Nat) (e : AEv) : State :=
  if !e.any then s
  else
    let (row, s) := choose s 1024
    let (col, s) := choose s 1024
    let (k, s) := choose s (2 ^ 32)
    let (num, s) := choose s (2 ^ 32)
    arithEvent s t { op := op, stage := stage, row := row, col := col, kstep := k, num := num, order := order, acy := acy } e

/-- The events of an addition that no tile instruction makes: an ACCUM line's (15 R485) or a COPY's (16 R558). The operation and
the place of the record, which the spec does not give, are free, and the record, once filled, is held (log 15). -/
def looseEvent (s : State) (t : Nat) (e : AEv) : State :=
  if !e.any then s
  else
    let (op, s) := choose s (2 ^ 24)
    if rgF s (tpage s t) 0xC0 31 31 = 1 then arithRaise s t op e
    else updTile (scatterEvent s t op 0 0 2 e) t (fun x => { x with arithAt := none })

/-- `PREC_FIRST` (R278, R279). -/
def precFirst (s : State) (t op cause fromRung : Nat) : State :=
  let p := tpage s t
  if rgF s p 0x180 31 31 = 1 then s
  else setRg s p 0x180 (BitVec.ofNat 32 (op % 2 ^ 24 + 2 ^ 24 * cause + 2 ^ 28 * fromRung + 2 ^ 31))

/-- Skink exceptions of one element (R294). -/
structure KEv where
  invalid : Bool := false
  overflow : Bool := false
  divzero : Bool := false
  nanIn : Bool := false
  sat : Bool := false
  deriving DecidableEq, Repr

def KEv.exc (e : KEv) : Bool := e.invalid || e.overflow || e.divzero || e.nanIn

/-- `SKINK_FIRST` and `SKINK_FIRST_ELEM` (R311, R312): the first result with an exception, by result acycle and, within
one acycle, the lower operation number; `ra` is the acycle of the instruction's result. -/
def skinkRecord (s : State) (t op opcode ra : Nat) (i : Nat) (e : KEv) : State :=
  let p := tpage s t
  let earlier := match (getTile s t).skAt with
    | some o => decide (ra < o.1 ∨ (ra = o.1 ∧ op < o.2))
    | none => false
  if rgF s p 0x200 31 31 = 1 && !earlier then s
  else
    let s := setRg s p 0x200 (BitVec.ofNat 32 (op % 2 ^ 24 + 2 ^ 24 * e.invalid.toNat + 2 ^ 25 * e.overflow.toNat
      + 2 ^ 26 * e.divzero.toNat + 2 ^ 27 * e.nanIn.toNat + 2 ^ 31))
    updTile (setRg s p 0x204 (BitVec.ofNat 32 (i % 256 + 65536 * opcode))) t (fun x => { x with skAt := some (ra, op) })

/-- The exceptions of an instruction's elements counted and first-recorded (R294, R312, R313). -/
def skinkEvents (s : State) (t op opcode ra : Nat) (evs : List KEv) : State :=
  let i := evs.findIdx KEv.exc
  let s := if i < evs.length then skinkRecord s t op opcode ra i (evs.getD i {}) else s
  let s := tcount s t 0x4A (countP (fun e => e.invalid) evs)
  let s := tcount s t 0x4B (countP (fun e => e.overflow) evs)
  let s := tcount s t 0x4C (countP (fun e => e.divzero) evs)
  let s := tcount s t 0x4D (countP (fun e => e.nanIn) evs)
  tcount s t 0x4E (countP (fun e => e.sat) evs)

/-- The counts of a conversion added to the tile page's counters (R280); `conv` says the nonfinite elements are of a
feeder or Skink conversion. -/
def countConv (s : State) (t : Nat) (c : Counts) (conv : Bool) : State :=
  let s := tcount (tcount s t 0x39 c.sat) t 0x3A c.zero
  let s := if conv then tcount s t 0x3B c.nonf else s
  tcount (tcount s t 0x3C c.zblk) t 0x3D c.sblk

end Sys2Proof.Machine
end

