-- ==== Sys2Proof/Machine/Quant.lean ====
section
/-! DEFINITION. Choosing a block exponent and converting a block, with its counts (08 R241 to R250). -/

namespace Sys2Proof.Machine

/-- MAX of a narrow destination for scale selection (R247). -/
def maxOf : Fmt → Rat
  | .fp4 => 6 | .e4m3 => 448 | .e5m2 => 57344 | .int4s => 7 | .int4u => 15 | _ => 1

/-- ⌈log₂ m⌉ of a positive rational. -/
def ceilLog2 (m : Rat) : Int :=
  let e := floorLog2 m
  if pow2 e = m then e else e + 1

/-- The CURRENT exponent of the greatest finite magnitude of a block's real elements (R247). -/
def currentExp (f : Fmt) (m : Rat) (margin : Nat) : Nat :=
  if m = 0 then 0
  else (min 254 (max 0 (127 + ceilLog2 (m / maxOf f) + margin))).toNat

/-- An element of a conversion: whether it is real (R241), whether it is written as code 0 whatever its value (padding
and exclusions on load, R191, R256), the value to store and its rounding. -/
structure QElem where
  real : Bool
  pad : Bool
  x : XV
  rnd : Rnd

/-- The exponent a scale byte selects for a block (R245 to R248); a slot's code is read from `slot`. -/
def blockExp (f : Fmt) (scale : Nat) (slot : Nat → Nat) (rowscale : XV) (b : List QElem) : Nat :=
  if bit scale 0 then slot (bits scale 7 4)
  else
    let m := b.foldl (fun m e => if e.real then max m (xdiv e.x rowscale).mag else m) 0
    currentExp f m (bits scale 3 1)

/-- A converted block: its exponent, codes, counts and whether NONFINITE is set. -/
structure QBlock where
  exp : Nat
  codes : List Nat
  cnt : Counts
  nonfinite : Bool

def Counts.add (a b : Counts) : Counts :=
  let cap := fun x => min x (2 ^ 32 - 1)
  { sat := cap (a.sat + b.sat), zero := cap (a.zero + b.zero), nonf := cap (a.nonf + b.nonf), zblk := cap (a.zblk + b.zblk),
    sblk := cap (a.sblk + b.sblk), elems := a.elems + b.elems }

/-- The counts of a block's conversions over its real elements (R241, R242). -/
def blockCounts (rs : List (Bool × Conv)) : Counts :=
  let real := (rs.filter (fun r => r.1)).map (fun r => r.2)
  let n := real.length
  let z := countP (fun c => c.zeroed) real
  let t := countP (fun c => c.saturated) real
  { sat := t, zero := z, nonf := countP (fun c => c.nonfinite) real,
    zblk := (decide (0 < n ∧ z = n)).toNat, sblk := (decide (0 < n ∧ t = n)).toNat }

/-- A block converted at a chosen exponent (R102 to R107, R243); an element that is neither real nor padding is
converted uncounted (R260). -/
def convBlock (f : Fmt) (exp : Nat) (rowscale : XV) (b : List QElem) : QBlock :=
  let n := countP (fun e => e.real) b
  if exp = 255 then { exp := 255, codes := b.map (fun _ => 0), cnt := { nonf := n }, nonfinite := true }
  else
    let rs := b.map (fun e =>
      (e.real, if e.pad then { code := 0 } else convTo f e.rnd (quotient e.x exp rowscale)))
    { exp := exp, codes := rs.map (fun r => r.2.code), cnt := blockCounts rs,
      nonfinite := rs.any (fun r => r.2.nonfinite) }

/-- A whole block: exponent selection, then conversion. A block of padding only has exponent 00h (R191). -/
def quantBlock (f : Fmt) (scale : Nat) (slot : Nat → Nat) (rowscale : XV) (b : List QElem) : QBlock :=
  convBlock f (if b.all (fun e => e.pad) then 0 else blockExp f scale slot rowscale b) rowscale b

end Sys2Proof.Machine
end

