-- ==== Sys2Proof/Machine/Random.lean ====
section
/-! DEFINITION. The Gohild mixer and the bits its consumers use (10 R315 to R319). -/

namespace Sys2Proof.Machine

/-- Left rotations of the even and odd branch by round (R315). -/
def mixP : List Nat := [7, 19, 3, 26, 13, 29, 9, 22, 15, 4]
def mixQ : List Nat := [24, 11, 17, 5, 28, 14, 21, 2, 10, 27]

structure Mix where
  x0 : BitVec 32
  x1 : BitVec 32
  x2 : BitVec 32
  x3 : BitVec 32

/-- The key words of a seed and stream. -/
def mixKey (seed : BitVec 64) (stream : BitVec 32) (i : Nat) : BitVec 32 :=
  let k0 := seed.truncate 32
  let k1 := (seed >>> 32).truncate 32
  match i % 4 with
  | 0 => k0
  | 1 => k1
  | 2 => stream
  | _ => k0.rotateLeft 7 ^^^ k1.rotateLeft 19 ^^^ stream ^^^ 0x4B2FD0A7#32

def mixInject (k : Nat → BitVec 32) (s : Nat) (m : Mix) : Mix :=
  { x0 := (m.x0 ^^^ k s) + BitVec.ofNat 32 s * 0x2F9B1D45#32, x1 := m.x1 ^^^ k (s + 1), x2 := m.x2 ^^^ k (s + 2),
    x3 := m.x3 ^^^ k (s + 3) }

def mixRound (k : Nat → BitVec 32) (m : Mix) (r : Nat) : Mix :=
  let x0 := m.x0 + (m.x1.rotateLeft (mixP.getD r 0) ^^^ m.x3)
  let x2 := m.x2 + (m.x3.rotateLeft (mixQ.getD r 0) ^^^ m.x1)
  let m' : Mix := { x0 := m.x1, x1 := x2, x2 := m.x3, x3 := x0 }
  if r % 2 = 1 then mixInject k ((r + 1) / 2) m' else m'

/-- The word of a 128-bit counter (R315). -/
def mixWord (seed : BitVec 64) (stream : BitVec 32) (ctr : Nat) : BitVec 32 :=
  let k := mixKey seed stream
  let m : Mix := { x0 := BitVec.ofNat 32 ctr, x1 := BitVec.ofNat 32 (ctr / 2 ^ 32), x2 := BitVec.ofNat 32 (ctr / 2 ^ 64),
                   x3 := BitVec.ofNat 32 (ctr / 2 ^ 96) }
  let m := (List.range 10).foldl (mixRound k) (mixInject k 0 m)
  m.x0 ^^^ m.x2

/-- W(u, d): the word of draw d of logical index u (R317, R319). -/
def rngWord (seed : BitVec 64) (stream u d : Nat) : BitVec 32 :=
  mixWord seed (BitVec.ofNat 32 stream) (u % 2 ^ 104 * 2 ^ 24 + d % 2 ^ 24)

/-- The 4 stochastic-rounding bits of logical element i (R319). -/
def srNibble (seed : BitVec 64) (stream i : Nat) : Nat :=
  bits (rngWord seed stream (i / 8 * 8) 0).toNat (4 * (i % 8) + 3) (4 * (i % 8))

end Sys2Proof.Machine
end

