-- ==== Sys2Proof/Machine/Operands.lean ====
section
/-! DEFINITION. Every way a tile instruction names an operand: records of the image, descriptors with their bindings,
staged lines, and the elements a feeder presents (06, 07, 08, 11). -/

namespace Sys2Proof.Machine

/-! Image records. -/

def imgOf (s : State) (t : Nat) : Option Img := (getPart s (partOf s t)).img

/-- n bytes of the records section of the image that runs on the tile, at byte offset o (R380). -/
def recAt (s : State) (t o n : Nat) : List Byte :=
  match imgOf s t with
  | some i => peekBytes s (i.base + i.recOff + o) n
  | none => List.replicate n 0

def fcbAt (s : State) (t o : Nat) : Fcb := parseFcb (recAt s t (64 * o) 64)
def arecAt (s : State) (t o : Nat) : Arec := parseArec (recAt s t (64 * o) 64)
def mrecAt (s : State) (t o : Nat) : Mrec := parseMrec (recAt s t (64 * o) 64)
def precAt (s : State) (t : Nat) (o : Option Nat) : Prec :=
  match o with | some o => parsePrec (recAt s t (32 * o) 32) | none => noPrec
def srecAt (s : State) (t o : Nat) : Srec := parseSrec (recAt s t (16 * o) 16)
def drecAt (s : State) (t o : Nat) : Drec := parseDrec (recAt s t (32 * o) 32)

/-! The schedule of the mode that runs (R331, R383). -/

/-- The mode of the partition's running launch, or the mode in effect. -/
def schedMode (s : State) (p : Nat) : Nat := match (getPart s p).run with | some r => r.mode | none => powerMode s

/-- First address of the schedule section of a mode. -/
def schedBase (s : State) (p mode : Nat) : Nat :=
  match (getPart s p).img with | some i => i.base + i.sched.getD mode 0 | none => 0
def schedNat (s : State) (p mode o n : Nat) : Nat := leNat (peekBytes s (schedBase s p mode + o) n)
/-- Checks J, epoch length Λ and expected count of check j. -/
def checksOf (s : State) (p mode : Nat) : Nat := schedNat s p mode 0 4
def lambdaOf (s : State) (p mode : Nat) : Nat := schedNat s p mode 4 4
def checkT (s : State) (p mode j : Nat) : Nat := schedNat s p mode (8 + 8 * j) 8
/-- Offset and entry count of a stream of a partition tile. -/
def streamDir (s : State) (p mode lt st : Nat) : Nat × Nat :=
  let o := 8 + 8 * checksOf s p mode + 16 * (5 * lt + st)
  (schedNat s p mode o 8, schedNat s p mode (o + 8) 4)
/-- Entry i of a stream. -/
def streamEntry (s : State) (p mode lt st i : Nat) : BitVec 128 :=
  match (getPart s p).img with
  | some g => BitVec.ofNat 128 (leNat (peekBytes s (g.base + (streamDir s p mode lt st).1 + 16 * i) 16))
  | none => 0
/-- Entries of a tile's stream that are not fetched yet. -/
def unfetched (s : State) (t st : Nat) : List (BitVec 128) :=
  let p := partOf s t
  let m := schedMode s p
  let lt := t - firstTile s p
  let n := ((getTile s t).streams.getD st {}).fetched
  (List.range ((streamDir s p m lt st).2 - n)).map (fun i => streamEntry s p m lt st (n + i))
/-- Entries of a tile's stream that have not issued, up to the segment's mark, which is left out. -/
def restOfSegment (s : State) (t st : Nat) : List (BitVec 128) :=
  let y := (getTile s t).streams.getD st {}
  if y.marked then [] else (y.q ++ unfetched s t st).takeWhile (fun e => !eMark e)

/-- Entries of a stream with their segments. -/
def numberSegs : Nat → List (BitVec 128) → List (Nat × BitVec 128)
  | _, [] => []
  | j, e :: es => (j, e) :: numberSegs (if eIsEpoch e then j + 1 else j) es

/-- All entries of a tile's stream in the mode that runs, with their segments. -/
def schedEntries (s : State) (t st : Nat) : List (Nat × BitVec 128) :=
  let p := partOf s t
  let m := schedMode s p
  let lt := t - firstTile s p
  numberSegs 0 ((List.range (streamDir s p m lt st).2).map (streamEntry s p m lt st))

/-- A descriptor a tile's instruction names; 0 where none is live. -/
def tdesc (s : State) (t n : Nat) : BitVec 1024 := (getDesc s (partOf s t) n).getD 0

def tseed (s : State) (t : Nat) : DWord := (getPart s (partOf s t)).seed

/-- Positions of a dimension that a binding leaves occupied (R365); none where it is not bound. -/
def boundAt (x : Tile) (desc dim : Nat) : Option Nat :=
  (x.binds.find? (fun b => b.1 == desc && b.2.1 == dim)).map (fun b => smGet (fun _ => 0) x.occ b.2.2)

/-- Delayed-scale slot (R249). -/
def dslot (x : Tile) (i : Nat) : Nat := (smGet (fun _ => (0x7F : BitVec 8)) x.dscale i).toNat

/-! Which elements a line holds (06 R187). -/

/-- Some choice of indices below the given (stride, size) dimensions sums to an offset in an interval. -/
def reachable : List (Int × Nat) → Int → Int → Bool
  | [], lo, hi => decide (lo ≤ 0 ∧ 0 ≤ hi)
  | (st, n) :: ds, lo, hi => (List.range n).any (fun i => reachable ds (lo - i * st) (hi - i * st))

/-- The (stride, size) of every dimension of a descriptor but one, greatest |stride| first. -/
def otherDims (d : BitVec 1024) (dim : Nat) : List (Int × Nat) :=
  (((List.range (dRank d)).filter (· ≠ dim)).map (fun i => (dStride d i, dSize d i))).mergeSort
    (fun a b => decide (b.1.natAbs ≤ a.1.natAbs))

/-- The positions along a dimension that the elements of a line hold. -/
def linePositions (d : BitVec 1024) (dim : Nat) (line : Int) : List Nat :=
  let e : Int := perLine (dFormat d)
  (List.range (dSize d dim)).filter (fun i =>
    reachable (otherDims d dim) (line * e - i * dStride d dim) (line * e + e - 1 - i * dStride d dim))

/-! Staged lines. -/

/-- The directory key of a descriptor's line: the device address of the line, or the descriptor and its line before
substitution for an indexed descriptor (log 7). -/
def stageKey (d : BitVec 1024) (desc : Nat) (line : Int) : Nat × Int :=
  if dIdxEn d then (desc + 2, line) else (0, (dBase d : Int) + 72 * line)

/-- The key of a line's index stream: the one that the `MOVE_IN` that brought the line put beside it (R214, R343). -/
def idxKey (d : BitVec 1024) (desc : Nat) (line : Int) : Nat × Int :=
  if dIdxEn d then (desc + 2 + 2 ^ 20, line) else (1, (dBase d : Int) + 72 * line)

/-- The tile-store offset a list of places gives for a key. -/
def placeIn (l : List ((Nat × Int) × Nat)) (k : Nat × Int) : Option Nat := (l.find? (fun e => e.1 == k)).map (fun e => e.2)
def dirPut (x : Tile) (k : Nat × Int) (off : Nat) : Tile := { x with dir := (k, off) :: x.dir.filter (fun e => !(e.1 == k)) }

/-- The line's tag does not match its reader (R93). -/
def tagBad (d : BitVec 1024) (line : List Byte) : Bool :=
  dNarrow d && (bits (lineTag line) 3 0 != dFormat d || bits (lineTag line) 5 4 != (dSparse d).toNat)

/-! Feeds. -/

/-- What one feed reads: descriptor, its control block, rung, shape's lanes, what it took when it issued, and the zero points
its output block has read. -/
structure FeedCtx where
  x : Tile
  d : BitVec 1024
  f : Fcb
  rung : Nat
  n : Nat
  side : Nat
  seed : DWord
  excl : List Nat
  src : FeedSrc
  zps : List (Nat × Nat)

def mkFeedCtx (s : State) (t : Nat) (fd : FeedSt) (excl : List Nat) (zps : List (Nat × Nat)) : FeedCtx :=
  let f := fcbAt s t fd.fcb
  { x := getTile s t, d := tdesc s t f.desc, f := f, rung := fd.rung, n := feedLanes fd.side fd.shape, side := fd.side,
    seed := tseed s t, excl := excl, src := fd.src, zps := zps }

/-- Bytes of a range the feed reads, as they were when it issued (log 53). -/
def FeedCtx.bytes (c : FeedCtx) (o n : Nat) : List Byte :=
  match c.src.kept.find? (fun k => decide (k.1 ≤ o ∧ o + n ≤ k.1 + k.2.length)) with
  | some k => slice k.2 (o - k.1) n
  | none => tsBytes c.x o n

/-- The bytes of a line the feed reads; a line that nothing places reads as free bytes (log 7). -/
def FeedCtx.line (c : FeedCtx) (line : Int) : List Byte :=
  match placeIn c.src.lines (stageKey c.d c.f.desc line) with
  | some o => c.bytes o 72
  | none => (List.range 72).map (fun i => Config.freeByte (c.f.desc + 2 ^ 32) ((line.toNat) * 128 + i))

/-- The index vector of a lane and a K index (R217). -/
def FeedCtx.vec (c : FeedCtx) (lane k : Nat) : List Nat :=
  (List.range 6).map (fun i =>
    c.f.start.getD i 0 + (if i = c.f.laneDim then lane else 0) + (if i = c.f.kDim then k else 0))

/-- Positions of a dimension that a binding left occupied when the feed issued (R365). -/
def FeedCtx.boundAt (c : FeedCtx) (dim : Nat) : Option Nat := (c.src.bound.find? (fun b => b.1 == dim)).map (fun b => b.2)

/-- The size of a dimension as the feed sees it, a binding applied (R218, R365). -/
def FeedCtx.size (c : FeedCtx) (dim : Nat) : Nat :=
  match c.boundAt dim with
  | some o => min (dSize c.d dim) o
  | none => dSize c.d dim

/-- The lane lies inside the lane dimension (R218). -/
def FeedCtx.laneIn (c : FeedCtx) (lane : Nat) : Bool := c.f.start.getD c.f.laneDim 0 + lane < c.size c.f.laneDim

/-- The K size, rounded up for a rotated feed (R118, R730). -/
def FeedCtx.kSize (c : FeedCtx) : Nat :=
  let k := c.size c.f.kDim
  let n := rotN c.f.rot
  if n ≠ 0 ∧ !dNarrow c.d then ceilDiv k n * n else k

/-- Bytes of the index stream of a line (R157, R192). -/
def idxLine (d : BitVec 1024) : Nat := if perLine (dFormat d) = 128 then 32 else 16

/-- The kept element and its group's validity at a logical offset of a 2:4-sparse operand (R156 to R158). -/
def FeedCtx.kept (c : FeedCtx) (lane k : Nat) : Option Nat × Bool :=
  let k0 := k / 4 * 2
  let v := c.vec lane k0
  let pos := dPosOf c.d v
  let b := idxLine c.d
  let idx : List Byte := match placeIn c.src.lines (idxKey c.d c.f.desc (dLineOf c.d v)) with
    | some o => c.bytes o b
    | none => (List.range b).map (fun i => Config.freeByte (c.f.desc + 2 ^ 33) ((dLineOf c.d v).toNat * 64 + i))
  let ix := fun e => bits (leAt idx (e / 4) 1) (2 * (e % 4) + 1) (2 * (e % 4))
  let i0 := ix pos
  let i1 := ix (pos + 1)
  if i1 ≤ i0 then (none, true)
  else if k % 4 = i0 then (some k0, false) else if k % 4 = i1 then (some (k0 + 1), false) else (none, false)

/-- The stored code and block exponent at a lane and stored K offset; a bad tag or FFh reads as exponent FFh. -/
def FeedCtx.stored (c : FeedCtx) (lane k : Nat) : Nat × Nat :=
  let v := c.vec lane k
  let line := c.line (dLineOf c.d v)
  let pos := dPosOf c.d v
  match Fmt.ofCode (dFormat c.d) with
  | some f =>
    if f.isNarrow then
      let e := if tagBad c.d line then 255 else lineExp line (pos / 32)
      (lineElem f line pos, e)
    else (lineElem f line pos, 127)
  | none => (0, 127)

/-- A source K position exists: inside the K size of the descriptor itself. -/
def FeedCtx.kIn (c : FeedCtx) (k : Nat) : Bool :=
  if dSparse c.d then c.f.start.getD c.f.kDim 0 + k / 4 * 2 < c.size c.f.kDim
  else c.f.start.getD c.f.kDim 0 + k < c.size c.f.kDim

/-- The wide source value at an offset; past the K size or the lanes, +0 (R218, R730). -/
def FeedCtx.wide (c : FeedCtx) (lane k : Nat) : XV :=
  if c.laneIn lane && c.kIn k then
    (match Fmt.ofCode (dFormat c.d) with | some f => f.decode (c.stored lane k).1 | none => .nan)
  else .fin false 0

/-- The parity of the bits two numbers share, for the Hadamard signs. -/
def popParity : Nat → Nat → Nat → Bool
  | 0, _, _ => false
  | n + 1, a, b => (a % 2 == 1 && b % 2 == 1) != popParity n (a / 2) (b / 2)

/-- The rotated value at an offset (R230, R231). -/
def FeedCtx.rotated (c : FeedCtx) (lane k : Nat) : XV :=
  let n := rotN c.f.rot
  if n = 0 then c.wide lane k
  else
    let k0 := k / n * n
    let vs := (List.range n).map (fun j => let x := c.wide lane (k0 + j); if popParity 8 j (k % n) then x.negate else x)
    if vs.any XV.isNan then .nan
    else if vs.any (fun x => x == .inf false) && vs.any (fun x => x == .inf true) then .nan
    else match vs.find? XV.isInf with
      | some x => x
      | none => xvRat ((vs.foldl (fun a x => a + x.toRat) 0) * pow2 (-(rotS c.f.rot : Int)))

/-- Random bits of a value (R228, R730). -/
def FeedCtx.rnd (c : FeedCtx) (lane k : Nat) : Rnd :=
  if c.f.sr then .sr (srNibble c.seed c.f.stream (dLogical c.d (c.vec lane k))) else .rne

/-- The destination of a quantizing feed (R227, R264): level 0 as its control block says, 1 a repeat at E4M3, 2 a repeat
at BF16, for which it is none. -/
def FeedCtx.qfmt (c : FeedCtx) : Option Fmt :=
  if c.rung = 2 then none else if c.rung = 1 then some .e4m3 else Fmt.ofCode c.f.qformat

/-- A delayed-scale slot's code as the feed's conversion uses it: the one the slot held when its first block was converted
(R248). -/
def FeedCtx.slot (c : FeedCtx) (i : Nat) : Nat := c.src.code.getD (dslot c.x i)

/-- The 32-position block of a quantizing feed that holds an offset, with exclusions (R227, R241, R256). -/
def FeedCtx.qblock (c : FeedCtx) (fmt : Fmt) (lane k : Nat) : QBlock :=
  let k0 := k / 32 * 32
  let es := (List.range 32).map (fun j =>
    let kk := k0 + j
    let r := c.laneIn lane && decide (kk < c.f.klen) && decide (c.f.start.getD c.f.kDim 0 + kk < c.kSize)
        && !c.excl.contains kk
    { real := r, pad := !r, x := c.rotated lane kk, rnd := c.rnd lane kk : QElem })
  quantBlock fmt c.f.scale c.slot (.fin false 1) es

/-- The code of the entry a table expansion selects (R225). -/
def FeedCtx.table (c : FeedCtx) (lane code : Nat) : Nat :=
  let bank := c.f.expand - 2
  (smGet (fun _ => (0 : BitVec 8)) c.x.banks (c.side * 512 + bank * 256 + 16 * (16 * lane / c.n) + code % 16)).toNat

/-- The zero point of a lane: the one its output block has read, else the store's (R218, R224). -/
def FeedCtx.zp (c : FeedCtx) (lane : Nat) : Nat :=
  match c.zps.find? (fun z => z.1 == 1024 * c.side + lane) with
  | some z => z.2
  | none =>
    if c.laneIn lane then
      let b := leAt (c.bytes (c.f.zpOff + lane / 2) 1) 0 1
      if lane % 2 = 0 then b % 16 else b / 16
    else 0

def deadElem : Elem := { live := false, kind := 0, code := 0, exp := 127 }

/-- The kind of element a feed presents: rate classes follow (R115). -/
def FeedCtx.kind (c : FeedCtx) : Nat :=
  if c.f.path = 2 then (match c.qfmt with | some f => f.code | none => 5)
  else if !dNarrow c.d then 5
  else if c.f.expand ≥ 2 then 3
  else dFormat c.d

/-- The element at a lane and K offset, and whether its conversion to BF16 overflowed (R111 to R118, R217 to R231, R256). Where
`START` along `K_DIM` is no multiple of the step length a step spans two blocks; each element then takes the exponent of its own
(DESIGN CHOICE, log 53). -/
def FeedCtx.elem (c : FeedCtx) (lane k : Nat) : Elem × Bool :=
  let kindv := c.kind
  if !(decide (k < c.f.klen)) || c.excl.contains k then ({ deadElem with kind := kindv }, false)
  else if !c.laneIn lane then
    ({ live := if dSparse c.d then c.kIn k else decide (c.f.start.getD c.f.kDim 0 + k < c.kSize), kind := kindv, code := if kindv = 2 then 15 else 0, exp := 127 }, false)
  else if c.f.path = 2 then
    if c.kSize ≤ c.f.start.getD c.f.kDim 0 + k then ({ deadElem with kind := kindv }, false)
    else match c.qfmt with
      | some f =>
        let b := c.qblock f lane k
        (if b.exp = 255 then { live := true, kind := kindv, code := 0, exp := 127 }
          else { live := true, kind := kindv, code := b.codes.getD (k % 32) 0, exp := b.exp }, false)
      | none =>
        let r := convTo .bf16 (c.rnd lane k) (c.rotated lane k)
        ({ live := true, kind := 5, code := r.code, exp := 127 }, r.overflow)
  else if !c.kIn k then ({ deadElem with kind := kindv }, false)
  else if c.f.path = 1 then
    let r := convTo .bf16 (c.rnd lane k) (c.wide lane k)
    ({ live := true, kind := 5, code := r.code, exp := 127 }, r.overflow)
  else
    let kk := if dSparse c.d then (c.kept lane k).1 else some k
    match kk with
    | none => ({ deadElem with kind := kindv }, false)
    | some kk =>
      let (code, exp) := c.stored lane kk
      if exp = 255 then ({ live := true, kind := kindv, code := if kindv = 2 then 15 else 0, exp := 127 }, false)
      else if c.f.expand = 1 then ({ live := true, kind := 2, code := code + 15 - c.zp lane, exp := exp }, false)
      else if c.f.expand ≥ 2 then ({ live := true, kind := 3, code := c.table lane code, exp := exp }, false)
      else if kindv = 2 then ({ live := true, kind := 2, code := code + 15, exp := exp }, false)
      else ({ live := true, kind := kindv, code := code, exp := exp }, false)

/-- The BF16 value of an excluded position and whether its conversion overflowed; none at or beyond the K size, where the
position contributes no term (R106, R118, R256). -/
def FeedCtx.outlier (c : FeedCtx) (lane k : Nat) : Option (Nat × Bool) :=
  if !c.kIn k then none
  else if !c.laneIn lane then some (0, false)
  else
    let v := if dNarrow c.d then
        let (code, exp) := c.stored lane k
        match Fmt.ofCode (dFormat c.d) with
        | some f =>
          if exp = 255 then .fin false 0
          else if c.f.expand = 1 then (xvInt ((code : Int) - c.zp lane)).scale (blockFactor exp)
          else if c.f.expand ≥ 2 then (decodeF fE4M3 (c.table lane code)).scale (blockFactor exp)
          else (f.decode code).scale (blockFactor exp)
        | none => .nan
      else c.wide lane k
    let r := convTo .bf16 .rne v
    some (r.code, r.overflow)

/-- The magnitude channel statistics measure, as an FP32 code (R235, R236); none where nothing is measured. -/
def FeedCtx.magnitude (c : FeedCtx) (lane k : Nat) : Option Nat :=
  if !(c.laneIn lane && c.kIn k && decide (k < c.f.klen)) then none
  else
    let fin32 := fun (v : XV) => match v with
      | .nan => 0x7F800000
      | .inf _ => 0x7F800000
      | .fin _ m => (encodeWide fFP32 .rne (.fin false m)).1
    if !dNarrow c.d then some (fin32 (c.wide lane k))
    else
      let kk := if dSparse c.d then (c.kept lane k).1 else some k
      kk.map (fun kk =>
        let (code, exp) := c.stored lane kk
        if exp = 255 then 0
        else match Fmt.ofCode (dFormat c.d) with
          | some f =>
            if c.f.expand = 1 then fin32 ((xvInt ((code : Int) - c.zp lane)).scale (blockFactor exp))
            else if c.f.expand ≥ 2 then fin32 ((decodeF fE4M3 (c.table lane code)).scale (blockFactor exp))
            else fin32 ((f.decode code).scale (blockFactor exp))
          | none => 0x7F800000)

/-- The exact value of an element entering a multiplier (R111 to R114). -/
def Elem.value (e : Elem) : XV :=
  let v := match e.kind with
    | 0 => decodeF fFP4 e.code
    | 1 => xvInt (signExt 4 e.code)
    | 2 => xvInt ((e.code : Int) - 15)
    | 3 => decodeF fE4M3 e.code
    | 4 => decodeF fE5M2 e.code
    | _ => decodeF fBF16 e.code
  if e.kind = 5 then v else v.scale (blockFactor e.exp)

/-- The integer form of an element (R165). -/
def Elem.int (e : Elem) : Int :=
  if !e.live then 0
  else match e.kind with
    | 0 => ((decodeF fFP4 e.code).toRat * 2).num
    | 1 => signExt 4 e.code
    | 2 => (e.code : Int) - 15
    | 3 => ((decodeF fE4M3 e.code).toRat * 512).num
    | 4 => ((decodeF fE5M2 e.code).toRat * 65536).num
    | 9 => e.code
    | _ => 0

/-- Residues are taken modulo this prime (R165). -/
def resP : Nat := 65521
def toRes (i : Int) : Nat := (i % (resP : Int)).toNat

/-- Latency from the read that completes a feed group to its first presentation (R221, R351). -/
def feedLatency (d : BitVec 1024) (f : Fcb) : Nat :=
  if f.path = 2 then (if rotN f.rot ≠ 0 then 12 else 9)
  else if f.path = 1 then 6
  else if dNarrow d && f.expand ≠ 0 then 5
  else 4

/-- Positions of a feed group: a step, 32 K positions, or a rotation block of at least 32 (R221). -/
def feedGroup (f : Fcb) (stepLen : Nat) : Nat := if f.path = 2 then max 32 (rotN f.rot) else stepLen

/-- The step, counted from the feed's first, in whose place the feeder reads a stored K offset: the first step of the offset's
feed group. One tile-store read completes a group (DEDUCED from 11 R359's lead-in of 17 acycles: 12 of the longest path and 5 of
the longest array fill; log 53), so that group is presented its latency after that read, a step an acycle. -/
def readStep (d : BitVec 1024) (f : Fcb) (stepLen k : Nat) : Nat :=
  let kl := if dSparse d then 2 * k else k
  kl / feedGroup f stepLen * feedGroup f stepLen / stepLen

/-- The lines a lane reads, each with the last stored K offset the lane takes from it (R217, R218). -/
def FeedCtx.walk (c : FeedCtx) (lane : Nat) : List (Int × Nat) :=
  let e := perLine (dFormat c.d)
  let kk := min (if dSparse c.d then 2 * ceilDiv c.f.klen 4 else c.f.klen) (c.size c.f.kDim - c.f.start.getD c.f.kDim 0)
  if kk = 0 ∨ !c.laneIn lane then []
  else if dStride c.d c.f.kDim = 1 then
    let v := c.vec lane 0
    let p0 := dPosOf c.d v
    (List.range (ceilDiv (p0 + kk) e)).map (fun (i : Nat) => (dLineOf c.d v + i, min (kk - 1) ((i + 1) * e - p0 - 1)))
  else (List.range kk).map (fun k => (dLineOf c.d (c.vec lane k), k))

/-- Every line the feed reads with the greatest step in whose place a lane reads it. -/
def FeedCtx.lineSteps (c : FeedCtx) (stepLen : Nat) : List (Int × Nat) :=
  ((List.range c.n).flatMap c.walk).foldl (fun (m : List (Int × Nat)) e =>
    let q := readStep c.d c.f stepLen e.2
    if m.any (fun y => y.1 == e.1) then m.map (fun y => if y.1 = e.1 then (y.1, max y.2 q) else y) else m ++ [(e.1, q)]) []

/-- Step length along K of a pair of element kinds (R115): BF16 2, FP8 8, else 16; twice for a sparse row operand. -/
def stepLenOf (kr kc : Nat) (sparse : Bool) : Nat :=
  let l := if kr = 5 ∨ kc = 5 then 2 else if kr = 3 ∨ kr = 4 ∨ kc = 3 ∨ kc = 4 then 8 else 16
  if sparse then 2 * l else l

end Sys2Proof.Machine
end

