-- ==== Sys2Proof/Machine/Sched.lean ====
section
/-! DEFINITION. The scoreboard and the issue of schedule entries (11 R344 to R350): which store pages and occupancy
registers an entry reads and writes, when it can issue, and what issuing does. -/

namespace Sys2Proof.Machine

/-- The store pages of n bytes from an offset (R344). -/
def pagesOf (off n : Nat) : List Nat :=
  if n = 0 then [] else (List.range ((off + n - 1) / 2048 - off / 2048 + 1)).map (off / 2048 + ·)

/-- A feed entry's FCB offset and shape (R336). -/
def wFcb (w : Nat) : Nat := bits w 35 12
def wShape (w : Nat) : Nat := bits w 9 8
/-- Fields of a KPASS word (R337). -/
def wLast (w : Nat) : Bool := bit w 10
def wPrec (w : Nat) : Option Nat := if bits w 59 36 = 0xFFFFFF then none else some (bits w 59 36)
/-- Fields of a move word (R341). -/
def wRec (w : Nat) : Nat := bits w 35 12
def wHint (w : Nat) : Nat := bits w 9 8
def wTs (w : Nat) : Nat := bits w 52 32

/-- A feed entry as the feed it would start. -/
def feedOfEntry (stream : Nat) (e : BitVec 128) : FeedSt :=
  { side := stream, op := eOp e, occ := 0, fcb := wFcb (eWord e), shape := wShape (eWord e), rung := 0, issue := 0 }

/-- Bytes of the index-stream area of a sparse move's run (R192, R343). -/
def idxBytes (d : BitVec 1024) : Nat := if dSparse d then idxLine d else 0

/-- The channel of a feed's first K position in its statistics vector: a sparse operand's positions count kept elements, its
channels logical positions (R192, R235, R236). -/
def statBase (d : BitVec 1024) (f : Fcb) : Nat := (if dSparse d then 2 else 1) * f.start.getD f.kDim 0

/-! Where lines lie in the tile store. The spec gives a feed no tile-store address: a line lies where the latest `MOVE_IN` or
drain puts it (log 7). -/

/-- The first output column in line j of a drained row, and the row's lines (R340). -/
def drainCol (a : Arec) (per j : Nat) : Nat := j * per - a.start.getD a.colDim 0 % per
def drainLines (s : State) (t w : Nat) : Nat :=
  let a := arecAt s t (wFcb w)
  let per := perLine (dFormat (tdesc s t a.outDesc))
  ceilDiv (a.start.getD a.colDim 0 % per + blockWidth (wShape w)) per

/-- Where an entry puts lines, by directory key: a `MOVE_IN` its run and the index streams, a drain its rows. -/
def entryPlaces (s : State) (t stream : Nat) (e : BitVec 128) : List ((Nat × Int) × Nat) :=
  let w := eWord e
  if eMark e then []
  else if stream = 4 && eOpcode e = 1 then
    let m := mrecAt s t (wRec w)
    let d := tdesc s t m.desc
    (List.range m.count).flatMap (fun (i : Nat) =>
      (stageKey d m.desc (m.first + i), m.ts + 72 * i)
      :: (if idxBytes d = 0 then [] else [(idxKey d m.desc (m.first + i), m.ts + 72 * m.count + idxBytes d * i)]))
  else if stream = 2 && wLast w then
    let a := arecAt s t (wFcb w)
    let d := tdesc s t a.outDesc
    (List.range (feedLanes 0 (wShape w))).flatMap (fun i => (List.range (drainLines s t w)).map (fun j =>
      let v := (List.range 6).map (fun k => a.start.getD k 0 + (if k = a.rowDim then i else 0)
        + (if k = a.colDim then drainCol a (perLine (dFormat d)) j else 0))
      (stageKey d a.outDesc (dLineOf d v), a.tsOff + i * a.pitch + 72 * j)))
  else []

/-- Places put into a tile's directory, later ones over earlier ones. -/
def placeAll (x : Tile) (l : List ((Nat × Int) × Nat)) : Tile := l.foldl (fun x k => dirPut x k.1 k.2) x

/-- The places of a tile's whole schedule, the latest entry in segment and `OFFSET` first. -/
def schedPlaces (s : State) (t : Nat) : List ((Nat × Int) × Nat) :=
  let es := [2, 4].flatMap (fun st => (schedEntries s t st).map (fun e => (e.1, st, e.2)))
  let late := es.mergeSort (fun a b => decide (b.1 < a.1 ∨ (b.1 = a.1 ∧ eOffset b.2.2 ≤ eOffset a.2.2)))
  late.flatMap (fun e => (entryPlaces s t e.2.1 e.2.2).reverse)

/-- The m-th entry of an operation number in a stream (R338). -/
def nthEntry (s : State) (t st op m : Nat) : Option (BitVec 128) :=
  (((schedEntries s t st).filter (fun e => !eMark e.2 && eOp e.2 == op)).map (fun e => e.2))[m]?

/-- The step length of the pass that a feed is paired for (R115, R338). -/
def feedStepLen (s : State) (t : Nat) (fd : FeedSt) : Nat :=
  let me := mkFeedCtx s t fd [] []
  match nthEntry s t (1 - fd.side) fd.op fd.occ with
  | none => stepLenOf me.kind me.kind (dSparse me.d)
  | some e =>
    let it := mkFeedCtx s t (feedOfEntry (1 - fd.side) e) [] []
    stepLenOf me.kind it.kind (if fd.side = 0 then dSparse me.d else dSparse it.d)

/-- The bindings of a descriptor as a feed samples them at its issue (R365). -/
def boundNow (x : Tile) (desc : Nat) : List (Nat × Nat) :=
  (x.binds.filter (fun (b : Nat × Nat × Nat) => b.1 == desc)).map (fun (b : Nat × Nat × Nat) => (b.2.1, smGet (fun _ => 0) x.occ b.2.2))

/-- The context of a feed with the bindings of the moment. -/
def feedBound (s : State) (t : Nat) (fd : FeedSt) : FeedCtx :=
  mkFeedCtx s t { fd with src := { bound := boundNow (getTile s t) (fcbAt s t fd.fcb).desc } } [] []

/-- The directory keys of a feed's line: the line and, of a sparse operand, its index stream. -/
def FeedCtx.keys (c : FeedCtx) (line : Int) : List (Nat × Int) :=
  stageKey c.d c.f.desc line :: (if dSparse c.d then [idxKey c.d c.f.desc line] else [])

/-- The places of the lines a feed reads: where the launch has put them, else where the schedule's latest entry for them
does. -/
def feedPlaces (s : State) (t : Nat) (c : FeedCtx) (lines : List Int) : List ((Nat × Int) × Nat) :=
  let ks := lines.flatMap c.keys
  let known := ks.filterMap (fun k => (placeIn c.x.dir k).map (fun o => (k, o)))
  if known.length = ks.length then known
  else
    let sp := schedPlaces s t
    ks.filterMap (fun k => ((placeIn c.x.dir k).orElse (fun _ => placeIn sp k)).map (fun o => (k, o)))

/-- The tile-store range of a place: a line, or an index stream. -/
def placeSpan (c : FeedCtx) (p : (Nat × Int) × Nat) : Nat × Nat :=
  (p.2, if p.1.1 = 1 ∨ 2 + 2 ^ 20 ≤ p.1.1 then idxLine c.d else 72)

/-- What a feed in a pass of a step length takes when it issues: its source, and the step whose read is the last of each store
page it reads. -/
def feedSourceOf (s : State) (t : Nat) (fd : FeedSt) (stepLen : Nat) : FeedSrc × List (Nat × Nat) :=
  let c := feedBound s t fd
  let ls := c.lineSteps stepLen
  let places := feedPlaces s t c (ls.map (fun l => l.1))
  let zp := if c.f.expand = 1 then [(c.f.zpOff, ceilDiv c.n 2)] else []
  let reads := ls.flatMap (fun l => (c.keys l.1).filterMap (fun k => (placeIn places k).map (fun o => (placeSpan c (k, o), l.2))))
    ++ zp.map (fun z => (z, 0))
  ({ lines := places, bound := c.src.bound, spans := places.map (placeSpan c) ++ zp },
   (reads.flatMap (fun r => (pagesOf r.1.1 r.1.2).map (fun q => (q, r.2)))).foldl
     (fun m e => if m.any (fun (y : Nat × Nat) => y.1 == e.1) then m.map (fun (y : Nat × Nat) => if y.1 = e.1 then (y.1, max y.2 e.2) else y)
       else m ++ [e]) [])

def feedSource (s : State) (t : Nat) (fd : FeedSt) : FeedSrc × List (Nat × Nat) := feedSourceOf s t fd (feedStepLen s t fd)

/-- The drained rows of a block-ending array entry, as (offset, bytes) by output row (R340). -/
def drainRows (s : State) (t : Nat) (w : Nat) : List (Nat × Nat) :=
  let a := arecAt s t (wFcb w)
  (List.range (feedLanes 0 (wShape w))).map (fun i => (a.tsOff + i * a.pitch, 72 * drainLines s t w))

/-- The narrow lines that a drained row fills only in part, which the drain reads before it writes them (R340). -/
def drainParts (s : State) (t : Nat) (w : Nat) : List (Nat × Nat) :=
  let a := arecAt s t (wFcb w)
  let d := tdesc s t a.outDesc
  let per := perLine (dFormat d)
  let p0 := a.start.getD a.colDim 0 % per
  let n := drainLines s t w
  if !dNarrow d then []
  else (drainRows s t w).flatMap (fun r =>
    (if p0 = 0 then [] else [(r.1, 72)]) ++ (if (p0 + blockWidth (wShape w)) % per = 0 then [] else [(r.1 + 72 * (n - 1), 72)]))

/-- The tile-store ranges an entry reads, as (offset, bytes) (R345). -/
def entryReadRanges (s : State) (t stream : Nat) (e : BitVec 128) : List (Nat × Nat) :=
  let w := eWord e
  if eMark e then []
  else if stream ≤ 1 then
    let fd := feedOfEntry stream e
    let f := fcbAt s t fd.fcb
    (feedSource s t fd).1.spans
      ++ (if f.stats = 1 then [(f.statOff + 4 * statBase (tdesc s t f.desc) f, 4 * f.klen)] else [])
  else if stream = 2 then
    let a := arecAt s t (wFcb w)
    if wLast w then
      (if a.saEn then [(a.saOff, 4 * feedLanes 0 (wShape w))] else [])
      ++ (if a.sbEn then [(a.sbOff, 4 * blockWidth (wShape w))] else [])
      ++ (if a.orsEn then [(a.orsOff, 4 * feedLanes 0 (wShape w))] else [])
      ++ drainParts s t w
    else []
  else if stream = 3 then
    if eOpcode e = 0x38 then [(256 * (kImm w % 2 ^ 13), 256)]
    else if eOpcode e = 0x48 then let r := srecAt s t (kImm w); [(r.statBase + 4 * r.b, 4 * r.n)]
    else []
  else match eOpcode e with
    | 2 => let m := mrecAt s t (wRec w); let b := idxBytes (tdesc s t m.desc); [(m.ts, (72 + b) * m.count)]
    | 3 => let m := mrecAt s t (wRec w); if m.srcTs then [(m.ts, 72 * m.count)] else []
    | 4 => [(wTs w, 256)]
    | 5 => [(wTs w, 1)]
    | 6 => [(wTs w, 4)]
    | 8 => let r := drecAt s t (wRec w); [(r.assign, 4 * r.n * r.k)]
    | _ => []

/-- The store pages an entry reads (R345). -/
def entryReads (s : State) (t stream : Nat) (e : BitVec 128) : List Nat :=
  ((entryReadRanges s t stream e).flatMap (fun r => pagesOf r.1 r.2)).eraseDups

/-- The tile-store ranges an entry writes (R344). -/
def entryWriteRanges (s : State) (t stream : Nat) (e : BitVec 128) : List (Nat × Nat) :=
  let w := eWord e
  if eMark e then []
  else if stream ≤ 1 then
    let f := fcbAt s t (wFcb w)
    if f.stats ≠ 0 then [(f.statOff + 4 * statBase (tdesc s t f.desc) f, 4 * f.klen)] else []
  else if stream = 2 then
    if wLast w then
      let r := precAt s t (wPrec w)
      drainRows s t w ++ (if r.report = 0xFFFFFFFF then [] else [(r.report, 32)])
    else []
  else if stream = 3 then
    if eOpcode e = 0x39 then [(256 * (kImm w % 2 ^ 13), 256)]
    else if eOpcode e = 0x3B then [(72 * (kImm w % 2 ^ 15), 72)]
    else []
  else match eOpcode e with
    | 1 => let m := mrecAt s t (wRec w); [(m.ts, (72 + idxBytes (tdesc s t m.desc)) * m.count)]
    | 8 => let r := drecAt s t (wRec w); [(r.index, 4 * r.e * r.cap), (r.drop, ceilDiv (r.n * r.k) 8)]
    | _ => []

/-- The store pages an entry writes (R344). -/
def entryWrites (s : State) (t stream : Nat) (e : BitVec 128) : List Nat :=
  ((entryWriteRanges s t stream e).flatMap (fun r => pagesOf r.1 r.2)).eraseDups

/-- The descriptor an entry accesses, for its bindings (R365). -/
def entryDesc (s : State) (t stream : Nat) (e : BitVec 128) : Option Nat :=
  if eMark e then none
  else if stream ≤ 1 then some (fcbAt s t (wFcb (eWord e))).desc
  else if stream = 4 then
    match eOpcode e with
    | 1 => some (mrecAt s t (wRec (eWord e))).desc
    | 2 => some (mrecAt s t (wRec (eWord e))).desc
    | 3 => let m := mrecAt s t (wRec (eWord e)); if m.srcTs then none else some m.desc
    | _ => none
  else none

/-- Store offsets of lines an entry moves out of the tile (R171). -/
def entryLeaves (s : State) (t stream : Nat) (e : BitVec 128) : List (Nat × Nat) :=
  if stream = 4 && !eMark e then
    match eOpcode e with
    | 2 => let m := mrecAt s t (wRec (eWord e)); [(m.ts, 72 * m.count)]
    | 3 => let m := mrecAt s t (wRec (eWord e)); if m.srcTs then [(m.ts, 72 * m.count)] else []
    | _ => []
  else []

/-- Something that keeps an entry from issuing: from an acycle until, but not in, another (never, while it is none), with its
`CV_FIRST` cause and `CV_DETAIL` (R345, R375). -/
structure Obstacle where
  since : Nat
  upto : Option Nat
  cause : Nat
  detail : Nat
  deriving DecidableEq, Repr

def Obstacle.at_ (b : Obstacle) (acy : Nat) : Bool :=
  decide (b.since ≤ acy) && (match b.upto with | none => true | some u => decide (acy < u))

/-- The acycle of the launch for which an entry of the running segment is scheduled. -/
def offAt (x : Tile) (e : BitVec 128) : Nat := x.base + eOffset e

/-- The pending hold was placed in the acycle itself by an entry that issues together with this one: the other feed of a pair
whose statistics share a vector (07 R237), or the other of a lane and a reduction instruction that share an `OFFSET` (R346). -/
def together (x : Tile) (stream : Nat) (e : BitVec 128) (h : Hold) : Bool :=
  (decide (stream ≤ 1) && x.feeds.any (fun f => f.tag == h.tag && f.side != stream)) || (stream == 3 && h.off == offAt x e)

/-- Everything that keeps an entry from issuing, in the order of the causes (R171, R345). The unit's own acceptance is apart. -/
def obstacles (s : State) (t stream : Nat) (e : BitVec 128) : List Obstacle :=
  let x := getTile s t
  let held := fun (l : List Hold) (u dt : Nat) => (l.filter (fun h => h.unit == u)).map (fun h =>
    ({ since := if together x stream e h then h.since + 1 else h.since, upto := h.upto, cause := 0, detail := dt } : Obstacle))
  let occs := match entryDesc s t stream e with
    | some d => (x.binds.filter (fun (b : Nat × Nat × Nat) => b.1 == d)).map (fun (b : Nat × Nat × Nat) => b.2.2)
    | none => []
  let writes := entryWrites s t stream e
  let earlier := if writes.isEmpty then [] else (List.range 5).flatMap (fun st => if st = stream then [] else
    ((restOfSegment s t st).filter (fun e' => decide (eOffset e' < eOffset e))).flatMap (entryReads s t st))
  (entryReads s t stream e).flatMap (fun q => held x.pend q q)
  ++ occs.flatMap (fun o => held x.pendOcc o (o + 2 ^ 15))
  ++ writes.flatMap (fun q =>
      (x.readers.filter (fun h => h.unit == q && decide (h.off < offAt x e))).map (fun h => ({ since := 0, upto := h.upto, cause := 1, detail := q } : Obstacle))
      ++ (if earlier.contains q then [{ since := 0, upto := none, cause := 1, detail := q }] else []))
  ++ (entryLeaves s t stream e).flatMap (fun (r : Nat × Nat) =>
      (x.unver.filter (fun u => decide (u.off < r.1 + r.2 ∧ r.1 < u.off + 72))).map (fun u =>
        ({ since := 0, upto := u.free, cause := 2, detail := u.off / 2048 } : Obstacle)))

/-- Why an entry cannot issue in an acycle, with `CV_DETAIL` (R345, R375); none when it can, its unit accepting. -/
def blocked (s : State) (t stream : Nat) (e : BitVec 128) (acy : Nat) : Option (Nat × Nat) :=
  ((obstacles s t stream e).find? (fun b => b.at_ acy)).map (fun b => (b.cause, b.detail))

/-- The first acycle from one on that no obstacle of a list takes; none while one has no end. -/
def firstFree (l : List Obstacle) : Nat → Nat → Option Nat
  | 0, _ => none
  | n + 1, a => match l.find? (fun b => b.at_ a) with
    | none => some a
    | some b => match b.upto with | none => none | some u => firstFree l n u

def getStrm (x : Tile) (i : Nat) : Strm := x.streams.getD i {}
def setStrm (x : Tile) (i : Nat) (y : Strm) : Tile := { x with streams := x.streams.set i y }

/-- Enforcement of the tile's partition is strict (R348). -/
def strict (s : State) (t : Nat) : Bool := rgF s 0x001 0x200 (partOf s t) (partOf s t) == 1

/-- The schedule of the tile's partition runs a segment and the tile issues: its block did not refuse new work when the launch
started (02 R42, log 51), no replay is announced (12 R391, 13 R417), and it is not due to move at a replay's start (19 R654). -/
def issuing (s : State) (t : Nat) : Bool :=
  !(getTile s t).stopped && !(getTile s t).barred && !warmActive s && !s.oos &&
  (match (getPart s (partOf s t)).run with
   | some r => r.begun && !r.replayAnn && !r.moving.contains t
   | none => false)

/-- The next entry of a stream. -/
def front (s : State) (t stream : Nat) : Option (BitVec 128) := (getStrm (getTile s t) stream).q.head?

/-- The acycle of the launch that an acycle of the running segment is. -/
def absAcy (s : State) (t acy : Nat) : Nat := (getTile s t).base + acy

/-- The earliest acycle of a stream's next entry (R346). -/
def earliestAt (x : Tile) (stream : Nat) (e : BitVec 128) : Nat := offAt x e + (getStrm x stream).late

/-- The obstacles of an entry and, in the Skink stream, of the next one when the two share an `OFFSET` and so issue together
(R346). -/
def issueObstacles (s : State) (t stream : Nat) (e : BitVec 128) : List Obstacle :=
  obstacles s t stream e ++
    (match (getStrm (getTile s t) stream).q with
     | _ :: e' :: _ => if stream = 3 ∧ !eMark e' ∧ eOffset e' = eOffset e then obstacles s t stream e' else []
     | _ => [])

/-- A stream's entry issues at an acycle of the launch: its stream has not passed the segment's mark, its unit accepts it, and
it is the first acycle, from the entry's earliest, its arrival in an empty stream and its unit's readiness on, that nothing of
R345 holds (R346). `unitFrom` is the acycle from which the unit accepts; none where the spec gives the model no such acycle (a
wait on an object, which another agent may change at any count): then any acycle from the earliest on. In strict mode an entry
issues at its `OFFSET` only (R349). -/
def canIssue (s : State) (t stream acy : Nat) (e : BitVec 128) (unitOk : Bool) (unitFrom : Option Nat) : Bool :=
  let x := getTile s t
  let l := issueObstacles s t stream e
  issuing s t && !(getStrm x stream).marked && unitOk && (!strict s t || offAt x e == acy)
    && (match unitFrom with
        | some u => firstFree l (l.length + 1) (max (earliestAt x stream e) (max (getStrm x stream).fresh u)) == some acy
        | none => decide (earliestAt x stream e ≤ acy) && l.all (fun b => !b.at_ acy))

/-! Results in flight (R286, R351): a result is read from its acycle on; what reads earlier reads the old value. -/

/-- The bits a selection names replaced, within n bits. -/
def mergeBits (n old sel val : Nat) : Nat :=
  let m := sel % 2 ^ n
  (old &&& (2 ^ n - 1 - m)) ||| (val &&& m)

/-- One result reaches its register. -/
def landResult (x : Tile) : Result → Tile
  | .vreg r sel val =>
    let old := (smGet (fun _ => (0 : BitVec 2048)) x.vreg r).toNat
    { x with vreg := smSet (fun _ => (0 : BitVec 2048)) x.vreg r (BitVec.ofNat 2048 (mergeBits 2048 old sel val)) }
  | .mreg r sel val =>
    let old := (smGet (fun _ => (0 : BitVec 256)) x.mreg r).toNat
    { x with mreg := smSet (fun _ => (0 : BitVec 256)) x.mreg r (BitVec.ofNat 256 (mergeBits 256 old sel val)) }
  | .outliers tab cap => { x with outTab := tab, lastCap := cap }
  | .slot i v => { x with dscale := smSet (fun _ => (0x7F : BitVec 8)) x.dscale i v }
  | .bank base l =>
    let m := (l.zipIdx).foldl (fun m e => smSet (fun _ => (0 : BitVec 8)) m (base + e.2) e.1) x.banks
    { x with banks := m }

/-- The results whose acycle has come reach their registers, in order; the others stay in flight. -/
def landDue (acy : Nat) (x : Tile) : Tile :=
  (x.flights.filter (fun f => decide (f.due ≤ acy))).foldl (fun x f => landResult x f.res)
    { x with flights := x.flights.filter (fun f => decide (acy < f.due)) }

/-- Every result reaches its register. -/
def landAll (x : Tile) : Tile := x.flights.foldl (fun x f => landResult x f.res) { x with flights := [] }

/-- A flight put behind those due no later. -/
def flightInsert (f : Flight) : List Flight → List Flight
  | [] => [f]
  | g :: l => if f.due < g.due then f :: g :: l else g :: flightInsert f l

/-- A result is on its way. -/
def launchResult (x : Tile) (due : Nat) (r : Result) : Tile := { x with flights := flightInsert { due := due, res := r } x.flights }

/-- Acycles from one until, but not, another that a stall counter has not counted yet (R182, R377). -/
def noteStalls (s : State) (t idx a b : Nat) : State :=
  let x := getTile s t
  let new := ((List.range (b - a)).map (a + ·)).filter (fun i => !x.stalls.contains (idx, i))
  if new.isEmpty then s
  else tcount (setTile s t { x with stalls := new.map (fun i => (idx, i)) ++ x.stalls }) t idx new.length

/-- What issuing an entry does: it leaves its stream, lateness and the report registers follow, the acycles it waited are
counted, and cause 0 counts once in the segment (R346, R350, R375, R377). -/
def issueEntry (s : State) (t stream acy : Nat) (e : BitVec 128) : State :=
  let y := getStrm (getTile s t) stream
  let off := offAt (getTile s t) e
  let late := acy - off
  let tooLate := stream != 2 && !y.counted && decide (eSlack e < late)
  let reads := entryReads s t stream e
  let s := noteStalls s t 0x59 (off + y.late) acy
  let s := updTile s t (fun x =>
    { setStrm x stream { y with q := y.q.tail, late := late, counted := y.counted || tooLate } with
      blocks := x.blocks.map (fun b => if (x.unver.any (fun u => u.blk == b.id && (pagesOf u.off 72).any reads.contains))
        then { b with readOut := true } else b) })
  let s := setRg s (tpage s t) 0x264 (BitVec.ofNat 32 (max (rg s (tpage s t) 0x264).toNat (min late (2 ^ 32 - 1))))
  if tooLate then tdcTile (tcount s t 0x58 1) t 0 (eOp e) else s

/-- An entry's step at an acycle of the launch: when the stream's next entry satisfies `is` and issues, it issues and acts. -/
def issueStep (s : State) (t stream acy : Nat) (is : BitVec 128 → Bool) (unitOk : BitVec 128 → Bool)
    (unitFrom : BitVec 128 → Option Nat) (act : BitVec 128 → State → State) : Host.Outcome State Fault Refusal :=
  match front s t stream with
  | none => skip s
  | some e =>
    guarded (!eMark e && is e && canIssue s t stream acy e (unitOk e) (unitFrom e)) s
      (act e (updTile (issueEntry s t stream acy e) t (landDue acy)))

/-- An entry of a unit that always accepts (R345). -/
def issueFree (s : State) (t stream acy : Nat) (is : BitVec 128 → Bool) (act : BitVec 128 → State → State) :
    Host.Outcome State Fault Refusal := issueStep s t stream acy is (fun _ => true) (fun _ => some 0) act

/-- Pages held from an acycle until another, or until a completion of the tagged instruction; `off`: the acycle for which that
instruction is scheduled. -/
def hold (l : List Nat) (acy : Nat) (upto : Option Nat) (tag off : Nat) : List Hold :=
  l.map (fun u => { unit := u, since := acy, upto := upto, tag := tag, off := off })

/-- A fresh tag for holds that end with their producer's own completion. -/
def freshTag (x : Tile) : Nat × Tile := (x.moveTag, { x with moveTag := x.moveTag + 1 })

/-- The open holds of a tag on pages that satisfy `p` end: the pages are free from the acycle after (R344). -/
def endHolds (l : List Hold) (tag acy : Nat) (p : Nat → Bool) : List Hold :=
  l.map (fun h => if h.tag = tag ∧ h.upto = none ∧ p h.unit then { h with upto := some (acy + 1) } else h)

/-- Every open hold of a tag ends. -/
def endTag (l : List Hold) (tag acy : Nat) : List Hold := endHolds l tag acy (fun _ => true)

/-- The store pages of a run of lines with the last line that touches each: n lines of w bytes from an offset. -/
def runPages (off w n : Nat) : List (Nat × Nat) :=
  (pagesOf off (w * n)).map (fun q => (q, min (n - 1) (((q + 1) * 2048 - off - 1) / w)))

/-- Readers of a run whose lines are requested two an acycle from an acycle on (R343, R345, R351). -/
def runReaders (off w n acy sched : Nat) : List Hold :=
  (runPages off w n).flatMap (fun q => hold [q.1] acy (some (acy + q.2 / 2 + 1)) 0 sched)

end Sys2Proof.Machine
end

