-- ==== Sys2Proof/Machine/Shadow.lean ====
section
/-! DEFINITION. Sampled duplicate execution: numbering shadow units, choosing a free site, and what the site computes on its
copies with the partition's seed and the operation's streams (19 R641 to R645, 10 R318, R325). The site's feeders compute from
copies of the same bytes, tables, zero points, slots and outlier table what the tile's feeders do, so its cells take the same
link entries; its cells, its scale-and-convert and its lanes run beside the tile's while the launch samples (log 40). -/

namespace Sys2Proof.Machine

/-- The quadrant of a logical tile's site. -/
def quadOf (s : State) (t : Nat) : Nat := siteOf s t / 34

/-- The lowest free site of a quadrant that is powered, under no rotating self-test and holds no unfinished unit (R643). -/
def shadowSite (s : State) (q : Nat) : Option Nat :=
  (freeSites s q).find? (fun x => (getBlk s (0x100 + x)).pwrOn && !(s.fc.rot.any (fun (r : Nat × Nat) => r.2 == x))
    && !(s.fc.shadows.any (fun h => h.site == x)))

/-- The launch that a tile runs samples units (R642). -/
def samples (s : State) (t : Nat) : Bool :=
  match (getPart s (partOf s t)).run with | some r => r.dupN != 0 | none => false

/-- The Skink state of a tile copied to the site (R644). -/
def twinOf (x : Tile) : SkinkTwin := { vreg := x.vreg, mreg := x.mreg, flights := x.flights, chains := x.chains }

/-- The tile as the site has it: its own Skink state, with the results due landed, beside the tile's other state and bytes. -/
def onTwin (acy : Nat) (x : Tile) : Tile :=
  let y := landDue acy { x with vreg := x.twin.vreg, mreg := x.twin.mreg, flights := x.twin.flights, chains := x.twin.chains }
  { x with vreg := y.vreg, mreg := y.mreg, flights := y.flights, chains := y.chains }

/-- The site executes what the tile executes, on its copies; only its Skink state changes by it (R644, R646). `u`: the state before
the instruction, `v`: after it on the tile. The copies are made anew where a unit ends. -/
def twinStep (u v : State) (t acy : Nat) (ends : Bool) (act : State → State) : State :=
  if !samples v t then v
  else if ends then updTile v t (fun x => { x with twin := twinOf x })
  else
    let y := getTile (act (updTile u t (onTwin acy))) t
    updTile v t (fun x => { x with twin := twinOf y })

/-- A shadow unit of kind 0 array or 1 Skink ends on a tile: it is numbered, and when sampled it is shadowed or skipped
(R641 to R643); `differs`: the site's result differs from the tile's. The verdict is `DUP_VERDICT`. -/
def shadowUnit (s : State) (t kind op : Nat) (differs : Bool) : State :=
  match (getPart s (partOf s t)).run with
  | none => s
  | some r =>
    let u := (getTile s t).units
    let s := updTile s t (fun x => { x with units := u + 1 })
    if r.dupN = 0 then s
    else if (u + r.dupPhi) % r.dupN ≠ 0 then s
    else match shadowSite s (quadOf s t) with
      | none => count1 s 0x003 8
      | some x =>
        let h : Shadow := { tile := t, unit := u, kind := kind, op := op, site := x, differs := differs }
        { s with fc := { s.fc with shadows := s.fc.shadows ++ [h] } }

end Sys2Proof.Machine
end

