-- ==== Sys2Proof/Machine/Array.lean ====
section
/-! DEFINITION. The feeders and the Anole array (04, 05, 07, 08): feeds, K passes, steps, swaps, drains, verdicts,
fallback and repeats. -/

namespace Sys2Proof.Machine

/-! Lines, blocks and cells. -/

def getRow (x : Tile) (r : Nat) : List LinkEntry := smGet (fun _ => []) x.rowLinks r
def setRow (x : Tile) (r : Nat) (l : List LinkEntry) : Tile := { x with rowLinks := smSet (fun _ => []) x.rowLinks r l }
def getCol (x : Tile) (k : Nat) : List LinkEntry := smGet (fun _ => []) x.colLinks k
def setCol (x : Tile) (k : Nat) (l : List LinkEntry) : Tile := { x with colLinks := smSet (fun _ => []) x.colLinks k l }
def getCell (x : Tile) (r c : Nat) : Cell := smGet (fun _ => {}) x.cells (65 * r + c)
def setCell (x : Tile) (r c : Nat) (v : Cell) : Tile := { x with cells := smSet (fun _ => {}) x.cells (65 * r + c) v }
def getARow (x : Tile) (r : Nat) : ArrRow := smGet (fun _ => {}) x.rows r
def setARow (x : Tile) (r : Nat) (v : ArrRow) : Tile := { x with rows := smSet (fun _ => {}) x.rows r v }

def blockById (x : Tile) (id : Nat) : Option OBlock := x.blocks.find? (fun b => b.id == id)
def updBlock (x : Tile) (id : Nat) (f : OBlock → OBlock) : Tile :=
  { x with blocks := x.blocks.map (fun b => if b.id = id then f b else b) }

/-- The cell takes part in the block's steps: checksum cells not in BF16 class, the checksum row and corner in square
shape only (R172). -/
def participates (b : OBlock) (r c : Nat) : Bool :=
  if r < 64 && c < 64 then true else if b.bf16 then false else if r = 64 then b.shape == 0 else true

/-- The key of the column link or segment that serves a cell (R152). -/
def colKey (shape r c : Nat) : Nat :=
  let seg := if r = 64 then 0 else r / segRows shape
  if c = 64 then 1024 + seg else 64 * seg + c

/-- Output row and column of an array cell (R152, R154). -/
def outRow (shape r : Nat) : Nat := r % segRows shape
def outCol (shape r c : Nat) : Nat := 64 * (r / segRows shape) + c

/-- The pass of a block that holds a running step. -/
def passAt (b : OBlock) (step : Nat) : Option KPassSt :=
  b.passes.find? (fun p => decide (p.base ≤ step ∧ step < p.base + p.steps))

/-- The pass is the block's last. -/
def isLastPass (b : OBlock) (p : KPassSt) : Bool :=
  b.complete && (match b.passes.getLast? with | some q => q.base == p.base | none => false)

/-- Blocks that nothing waits for any more leave; a repeat stays while an attempt it replaces waits for its verdict (R267). -/
def sweepBlocks (x : Tile) : Tile :=
  { x with blocks := x.blocks.filter (fun b => !(b.decided && b.verd)
      || b.prevIds.any (fun i => x.blocks.any (fun y => y.id == i && !y.verd))) }

/-! Feeds and K passes. -/

/-- Distinct lane links of a feeder lane: row links a row lane is repeated into, or its column link (R152, R220). -/
def laneLinks (side shape lane : Nat) : List Nat :=
  if side = 0 then (List.range 64).filter (fun p => p % segRows shape == lane) else [lane]

def getLink (x : Tile) (side k : Nat) : List LinkEntry := if side = 0 then getRow x k else getCol x k
def pushLink (x : Tile) (side k : Nat) (e : LinkEntry) : Tile :=
  if side = 0 then setRow x k (getRow x k ++ [e]) else setCol x k (getCol x k ++ [e])

/-- The acycle from which a link that was full has had room (R161). -/
def roomAt (x : Tile) (side k : Nat) : Nat := smGet (fun _ => 0) x.rooms (2048 * side + k)

/-- No link of a feeder's shape is full (R161, R345). -/
def feederRoom (x : Tile) (side shape : Nat) : Bool :=
  (List.range (feedLanes side shape)).all (fun l => (laneLinks side shape l).all (fun k => (getLink x side k).length < 8))

/-- The acycle from which a feeder's links have all had room. -/
def feederFrom (x : Tile) (side shape : Nat) : Nat :=
  ((List.range (feedLanes side shape)).flatMap (laneLinks side shape)).foldl (fun a k => max a (roomAt x side k)) 0

/-- The empty slots of a bound feed (R365): lanes, or K positions, at or beyond the register's value. -/
def feedEmpty (c : FeedCtx) : Nat :=
  let beyond := fun dim n =>
    match c.boundAt dim with
    | some o => countP (fun i => decide (o ≤ c.f.start.getD dim 0 + i ∧ c.f.start.getD dim 0 + i < dSize c.d dim)) (List.range n)
    | none => 0
  beyond c.f.laneDim c.n + beyond c.f.kDim c.f.klen

/-- What an issued feed starts (R336, R338): the operation's next feed of the side. It samples its bindings and the places of its
lines; a store page stays read until the step in whose place it is read last (R345, R365), and the statistics pages until the
statistics are written. -/
def feedAct (t side acy : Nat) (e : BitVec 128) (s : State) : State :=
  let x := getTile s t
  let off := offAt x e
  let k := side * 2 ^ 24 + eOp e
  let m := smGet (fun _ => 0) x.occurs k
  let (tag, x) := freshTag x
  let fd0 := { feedOfEntry side e with occ := m, issue := acy, tag := tag }
  let q := feedSource s t fd0
  let f := fcbAt s t fd0.fcb
  let lat := feedLatency (tdesc s t f.desc) f
  let fd := { fd0 with first := acy + lat, lat := lat, src := q.1, pages := q.2 }
  let stats := entryWrites s t side e
  tcount (setTile s t { x with
    occurs := smSet (fun _ => 0) x.occurs k (m + 1)
    feeds := x.feeds ++ [fd]
    readers := x.readers
      ++ q.2.flatMap (fun p => hold [p.1] acy (if p.2 < lat then some (acy + p.2 + 1) else none) tag off)
      ++ (if f.stats = 1 then hold stats acy none tag off else [])
    pend := x.pend ++ hold stats acy none tag off }) t 0x5B (feedEmpty (mkFeedCtx s t fd [] []))

/-- FEED (R336, R338). -/
def execFeed (t : TileIx) (feeder : BitVec 1) (acy : Nat) (s : State) : Host.Outcome State Fault Refusal :=
  let t := t.toNat
  let side := feeder.toNat
  let a := absAcy s t acy
  issueStep s t side a (fun e => eOpcode e == 1) (fun e => feederRoom (getTile s t) side (wShape (eWord e)))
    (fun e => some (feederFrom (getTile s t) side (wShape (eWord e)))) (feedAct t side a)

/-- The positions a pass excludes (R256): those of the `cap` lowest-numbered table channels of its statistics feed. -/
def passExcl (s : State) (t : Nat) (fr fc : FeedSt) (cap : Nat) : List Nat :=
  let cr := (mkFeedCtx s t fr [] []).f
  let cc := (mkFeedCtx s t fc [] []).f
  let sf := if cr.stats ≠ 0 then cr else cc
  let st := sf.start.getD sf.kDim 0
  let ch := ((getTile s t).outTab.filter (fun k => decide (st ≤ k ∧ k < st + cr.klen))).take cap
  if cap = 0 then [] else ch.map (· - st)

/-- A pass of a block from its two feeds and its excluded positions; `sched`: the acycle in which its first step accumulates as
planned (R115, R116, R256, R338). -/
def mkPass (s : State) (t : Nat) (fr fc : FeedSt) (cap base step0 sched : Nat) (excl : List Nat) : KPassSt :=
  let cr := mkFeedCtx s t fr [] []
  let cc := mkFeedCtx s t fc [] []
  let l := stepLenOf cr.kind cc.kind (dSparse cr.d)
  { fcbR := fr.fcb, fcbC := fc.fcb, klen := cr.f.klen, steps := ceilDiv cr.f.klen l, base := base, step0 := step0,
    stepLen := l, cap := cap, excl := excl, sched := sched, srcR := fr.src, srcC := fc.src }

/-- A pair of feeds runs in the BF16 rate class (R115). -/
def pairBf16 (s : State) (t : Nat) (fr fc : FeedSt) : Bool :=
  (mkFeedCtx s t fr [] []).kind == 5 || (mkFeedCtx s t fc [] []).kind == 5

/-- The rung of a first attempt: the narrowest quantize-on-load format of its feeds, or, where none quantizes, the one of
its rate class (R262, R263; log 21). -/
def firstRung (s : State) (t : Nat) (fr fc : FeedSt) : Nat :=
  let cr := mkFeedCtx s t fr [] []
  let cc := mkFeedCtx s t fc [] []
  let q := (if cr.f.path = 2 then [cr.f.qformat] else []) ++ (if cc.f.path = 2 then [cc.f.qformat] else [])
  if q.contains 0 then 0
  else if !q.isEmpty then 1
  else if cr.kind = 5 ∨ cc.kind = 5 then 2
  else if stepLenOf cr.kind cc.kind false = 8 then 1 else 0

/-- The passes of a block have their outlier steps counted in the running order of its steps. -/
def nextStep0 (b : OBlock) : Nat :=
  (b.passes.map (fun p => p.steps + (if p.cap = 0 then 0 else 1))).foldl (· + ·) 0

/-- A pass joins a block, its two feeds are bound to it, and the running step number moves on. -/
def addPass (x : Tile) (b : OBlock) (p : KPassSt) (side0 side1 : FeedSt → Bool) : Tile :=
  let i := b.passes.length
  let b' := { b with passes := b.passes ++ [p], feedsLeft := b.feedsLeft + 2 }
  let has := x.blocks.any (fun y => y.id == b.id)
  { x with
    nextStep := p.base + p.steps
    blocks := if has then x.blocks.map (fun y => if y.id = b.id then b' else y) else x.blocks ++ [b']
    feeds := x.feeds.map (fun f => if side0 f || side1 f then { f with blk := some b.id, pass := i } else f) }

/-- The place in a tile's counts of a pass entry of an operation. -/
def passKey (e : BitVec 128) : Nat := 2 * 2 ^ 24 + eOp e

/-- The feed that a pass entry takes from a side (R338). -/
def passMate (x : Tile) (side : Nat) (e : BitVec 128) (f : FeedSt) : Bool :=
  f.side == side && f.op == eOp e && f.occ == smGet (fun _ => 0) x.occurs (passKey e) && f.blk.isNone && !f.repeated

/-- The block that a pass entry adds to: the operation's open one, else a new one. -/
def passBlock (s : State) (t : Nat) (e : BitVec 128) (fr fc : FeedSt) : OBlock :=
  let x := getTile s t
  let w := eWord e
  match x.blocks.find? (fun b => !b.complete && b.kind == 0 && b.op == eOp e) with
  | some b => b
  | none =>
    { id := x.nextBlk, op := eOp e, num := smGet (fun _ => 0) x.occurs (5 * 2 ^ 24 + eOp e), rung := firstRung s t fr fc,
      level := 0, kind := 0, shape := wShape w, arec := wFcb w, prec := wPrec w, slack := eSlack e, schedSwap := 0,
      bf16 := pairBf16 s t fr fc, passes := [], complete := false, tag := x.moveTag, ord := offAt x e }

/-- Entry to write of a drained row (R149). -/
def convLatency (f : Fmt) : Nat := if f.isNarrow then 9 else 6

/-- Entry to write of a drained row of a descriptor's format. -/
def drainLatency (d : BitVec 1024) : Nat := if dNarrow d then 9 else 6

/-- What an issued pass starts from its two feeds (R337, R338, R732). Its feeds present no step before it issues; a
block-ending pass places its drained lines, and the replay window's budget begins no earlier than 17 acycles after its drain
as scheduled (DEDUCED from R359; log 53). -/
def kpassAct (t acy : Nat) (e : BitVec 128) (fr fc : FeedSt) (s : State) : State :=
  let x := getTile s t
  let w := eWord e
  let off := offAt x e
  let prec := precAt s t (wPrec w)
  let nk := 5 * 2 ^ 24 + eOp e
  let isOpen := x.blocks.any (fun b => !b.complete && b.kind == 0 && b.op == eOp e)
  let b := passBlock s t e fr fc
  let fill := arrayFill (wShape w)
  let p := mkPass s t fr fc prec.cap x.nextStep (nextStep0 b) (off + fill) (passExcl s t fr fc prec.cap)
  let last := wLast w
  let swap := off + fill + p.steps + (if p.cap = 0 then 0 else 1)
  let b := { b with bf16 := b.bf16 || pairBf16 s t fr fc, slack := eSlack e, complete := last, schedSwap := swap }
  let x := (freshTag x).2
  let y := addPass { x with nextBlk := if isOpen then x.nextBlk else x.nextBlk + 1 } b p (passMate x 0 e) (passMate x 1 e)
  let occ1 := smSet (fun _ => 0) x.occurs (passKey e) (smGet (fun _ => 0) x.occurs (passKey e) + 1)
  let occ2 := if last then smSet (fun _ => 0) occ1 nk (smGet (fun _ => 0) x.occurs nk + 1) else occ1
  let y := if last then placeAll y (entryPlaces s t 2 e) else y
  let out := tdesc s t (arecAt s t (wFcb w)).outDesc
  setTile s t { y with
    occurs := occ2
    feeds := y.feeds.map (fun f => if f.tag == fr.tag || f.tag == fc.tag then { f with first := max f.first acy } else f)
    winFrom := max y.winFrom (if last then swap + 64 + drainLatency out + 17 else off + fill + p.steps + 17)
    readers := y.readers ++ hold (entryReads s t 2 e) acy none b.tag off
    pend := y.pend ++ hold (entryWrites s t 2 e) acy none b.tag off }

/-- KPASS (R337, R338, R732): the array accepts it once both its feeds have issued. -/
def execKpass (t : TileIx) (acy : Nat) (s : State) : Host.Outcome State Fault Refusal :=
  let t := t.toNat
  let a := absAcy s t acy
  let mate := fun (x : Tile) side e => x.feeds.find? (passMate x side e)
  issueStep s t 2 a (fun e => eOpcode e == 0x10)
    (fun e => let x := getTile s t; (mate x 0 e).isSome && (mate x 1 e).isSome)
    (fun e => let x := getTile s t; some (max ((mate x 0 e).elim 0 (·.issue)) ((mate x 1 e).elim 0 (·.issue))))
    (fun e s =>
      let x := getTile s t
      match mate x 0 e, mate x 1 e with
      | some fr, some fc => kpassAct t a e fr fc s
      | _, _ => s)

/-- The steps a feed has presented on a lane. -/
def laneSteps (f : FeedSt) (l : Nat) : Nat := (smGet (fun _ => (0, 0)) f.lanes l).1

/-- The steps that every lane of a feed has presented. -/
def feedSteps (f : FeedSt) (n : Nat) : Nat := (List.range n).foldl (fun m l => min m (laneSteps f l)) (laneSteps f 0)

/-- Everything a lane's presentation of one step reads and shows: its context, its K offsets and its block's place. -/
structure Present where
  c : FeedCtx
  fd : FeedSt
  b : OBlock
  p : KPassSt
  lane : Nat
  step : Nat

def Present.ks (q : Present) : List Nat := (List.range q.p.stepLen).map (q.step * q.p.stepLen + ·)

/-- Quantize-on-load conversions whose block begins in the step, with their counts (R227, R241, R239). -/
def presentQuant (s : State) (t : Nat) (q : Present) : State :=
  match q.c.f.path, q.c.qfmt with
  | 2, some f =>
    (q.ks.filter (fun k => k % 32 == 0 && k < q.p.klen && q.c.laneIn q.lane)).foldl (fun s k =>
      let n := (q.c.qblock f q.lane k).cnt
      let s := tcount (countConv s t n true) t 0x2A 1
      updTile s t (fun x => updBlock x q.b.id (fun b => { b with ins := b.ins.add n }))) s
  | _, _ => s

/-- Rotation blocks transformed and stochastically rounded elements of the step (R239, R328). -/
def presentCounts (s : State) (t : Nat) (q : Present) : State :=
  let n := rotN q.c.f.rot
  let wide := !dNarrow q.c.d
  let r := if n ≠ 0 && wide && q.c.laneIn q.lane then countP (fun k => k % n == 0 && decide (k < q.p.klen)) q.ks else 0
  let sr := if q.c.f.sr && q.c.f.path ≠ 0 && q.c.laneIn q.lane then
      countP (fun k => decide (k < q.p.klen) && !q.p.excl.contains k
        && decide (q.c.f.start.getD q.c.f.kDim 0 + k < q.c.kSize)) q.ks
    else 0
  tcount (tcount s t 0x2B r) t 0x51 sr

/-- Elements read under block exponent FFh, dropped sparse groups, and lines met for the first time (R85, R93, R158,
R261, R638). -/
def presentReads (s : State) (t : Nat) (q : Present) : State :=
  let c := q.c
  if !c.laneIn q.lane then s
  else
    let ks := q.ks.filter (fun k => decide (k < q.p.klen) && c.kIn k)
    if !dNarrow c.d then
      ks.foldl (fun s k =>
        let v := c.vec q.lane k
        let w := if dFormat c.d = 8 then 2 else 4
        match placeIn c.src.lines (stageKey c.d c.f.desc (dLineOf c.d v)) with
        | some o => tsCheck s t (o + w * dPosOf c.d v) w
        | none => s) s
    else
      let src := fun k => if dSparse c.d then (c.kept q.lane k).1 else some k
      let ff := countP (fun k => match src k with
        | some kk => (c.stored q.lane kk).2 == 255 && !q.p.excl.contains k
        | none => false) ks
      let s := if ff = 0 then s else
        updTile (tcount s t 0x3B ff) t (fun x => updBlock x q.b.id (fun b => { b with ins := b.ins.add { nonf := ff } }))
      let bad := if dSparse c.d then countP (fun k => k % 4 == 0 && (c.kept q.lane k).2) ks else 0
      let s := if bad = 0 then s else traise (tcount s t 0x26 bad) t 7 q.fd.op
      let stored := fun k => if dSparse c.d then k / 4 * 2 else k
      let firsts := ks.filter (fun k => k == 0 || ((!dSparse c.d || k % 4 == 0) && dPosOf c.d (c.vec q.lane (stored k)) == 0))
      let s := firsts.foldl (fun s k =>
        let ln := dLineOf c.d (c.vec q.lane (stored k))
        let line := c.line ln
        let s := match placeIn c.src.lines (stageKey c.d c.f.desc ln) with | some o => tsCheck s t o 72 | none => s
        let s := if tagBad c.d line then traise s t 3 q.fd.op else s
        if bit (lineTag line) 7 then tcount s t 0x43 1 else s) s
      if c.f.expand = 1 && q.step == 0 then tsCheck s t (c.f.zpOff + q.lane / 2) 1 else s

/-- The overflows of a conversion to BF16 in the step, those of excluded positions included (R106, R140, R229, R256, R264). -/
def presentOverflow (s : State) (t acy : Nat) (q : Present) : State :=
  let overflows := fun k => (q.c.elem q.lane k).2 || (q.p.excl.contains k && ((q.c.outlier q.lane k).elim false (·.2)))
  (q.ks.filter overflows).foldl (fun s k =>
    arithEvent s t { op := q.fd.op, stage := 3, row := q.lane, col := q.fd.side, kstep := k, num := q.b.num, order := q.b.ord,
                     acy := acy } { overflow := true }) s

/-- FP32 codes of non-negative numbers in order. -/
def maxAmax (m : List (Nat × Nat)) (k v : Nat) : List (Nat × Nat) :=
  smSet (fun _ => 0) m k (max (smGet (fun _ => 0) m k) v)

/-- The edge summers' sums with one lane's step added: lanes seen and sums (R167). -/
def edgeAdd (x : Tile) (key : Nat) (es : List Elem) : Nat × List Nat :=
  let (n, l) := smGet (fun _ => ((0 : Nat), ([] : List Nat))) x.edges key
  (n + 1, (List.range es.length).map (fun i => (l.getD i 0 + toRes (es.getD i deadElem).int) % resP))

/-- The step's entries enter the lane's links, and a finished edge sum enters the checksum link (R145, R146, R167). -/
def presentLinks (x : Tile) (acy : Nat) (q : Present) (es : List Elem) : Tile :=
  let side := q.fd.side
  let n := q.p.base + q.step
  let x := (laneLinks side q.fd.shape q.lane).foldl (fun x k =>
    pushLink x side k { blk := q.b.id, step := n, elems := es, at_ := acy }) x
  if q.b.bf16 || (side == 0 && q.fd.shape ≠ 0) then x
  else
    let seg := if side = 0 then 0 else q.lane / 64
    let key := 128 * n + 64 * side + seg
    let (cnt, sums) := edgeAdd x key es
    if cnt < 64 then { x with edges := smSet (fun _ => (0, [])) x.edges key (cnt, sums) }
    else
      let es' := sums.map (fun v => ({ live := true, kind := 9, code := v, exp := 127 } : Elem))
      let x := { x with edges := smSet (fun _ => (0, [])) x.edges key (0, []) }
      pushLink x side (if side = 0 then 64 else 1024 + seg) { blk := q.b.id, step := n, elems := es', at_ := acy }

/-- The link that takes an edge sum of the lane. -/
def edgeLink (side lane : Nat) : Nat := if side = 0 then 64 else 1024 + lane / 64

/-- Outlier misses of a feed: K positions, not excluded, whose magnitude over the lanes exceeds θ (R258). -/
def feedMisses (c : FeedCtx) (fd : FeedSt) (p : KPassSt) (theta : XV) : Nat :=
  if c.f.stats = 0 || p.cap == 0 || theta.isNan then 0
  else countP (fun k => c.kIn k && !p.excl.contains k &&
    (match decodeF fFP32 (smGet (fun _ => 0) fd.amax k), theta with
     | .inf _, .inf n => n
     | .inf _, _ => true
     | .fin _ m, .fin n q => decide ((if n then -q else q) < m)
     | .fin _ _, .inf n => n
     | _, _ => false)) (List.range p.klen)

/-- Every lane of a feed has presented every step: the attempt remembers the acycle and its misses, and a feed with no
statistics leaves (R258, R265). -/
def feedDone (s : State) (t acy : Nat) (q : Present) (fd : FeedSt) : State :=
  if !((List.range q.c.n).all (fun l => laneSteps fd l == q.p.steps)) then s
  else
    let m := feedMisses q.c fd q.p (decodeF fFP32 (precAt s t q.b.prec).thresh)
    updTile (tcount s t 0x3F m) t (fun x =>
      let x := updBlock x q.b.id (fun b =>
        { b with feedsLeft := b.feedsLeft - 1, lastAcy := max b.lastAcy acy, misses := b.misses + m })
      { x with
        feeds := if q.c.f.stats = 0 then x.feeds.filter (fun f => !(f.tag == fd.tag))
          else x.feeds.map (fun f => if f.tag = fd.tag then { f with lastAcy := acy } else f) })

/-- A step presented frees the feeder's pipeline for the read of the step its latency later: the store pages whose last read
that is are free from the next acycle (R221, R345). -/
def readsDone (x : Tile) (acy : Nat) (q : Present) (fd : FeedSt) : Tile :=
  let a := feedSteps q.fd q.c.n
  let b := feedSteps fd q.c.n
  if a = b then x
  else { x with readers := endHolds x.readers fd.tag acy (fun u => fd.pages.any (fun p => p.1 == u && decide (p.2 < b + fd.lat))) }

/-- What a lane reads once: its zero point at its first step of the output block (R224), and the feed's delayed-scale code at its
first converted block (R248). -/
def latchFeed (x : Tile) (q : Present) : Tile :=
  let key := 1024 * q.fd.side + q.lane
  let x := if q.c.f.expand = 1 && !q.b.zps.any (fun z => z.1 == key) then
      updBlock x q.b.id (fun b => { b with zps := (key, q.c.zp q.lane) :: b.zps })
    else x
  if q.c.f.path = 2 && bit q.c.f.scale 0 && q.fd.src.code.isNone then
    let code := dslot q.c.x (bits q.c.f.scale 7 4)
    let put := fun (p : KPassSt) => if p.base ≠ q.p.base then p
      else if q.fd.side = 0 then { p with srcR := { p.srcR with code := some code } } else { p with srcC := { p.srcC with code := some code } }
    updBlock { x with feeds := x.feeds.map (fun f => if f.tag = q.fd.tag then { f with src := { f.src with code := some code } } else f) }
      q.b.id (fun b => { b with passes := b.passes.map put })
  else x

/-- The step's operands enter the links, the outlier strip and the running statistics, and the lane moves on. -/
def presentStore (x : Tile) (acy : Nat) (q : Present) (es : List Elem) : Tile :=
  let outs := (q.p.excl.zipIdx.filter (fun e => q.ks.contains e.1)).filterMap (fun e =>
    (q.c.outlier q.lane e.1).map (fun v => (64 * q.lane + e.2, v.1)))
  let amax := if q.c.f.stats = 0 then q.fd.amax else
    q.ks.foldl (fun m k => match q.c.magnitude q.lane k with | some v => maxAmax m k v | none => m) q.fd.amax
  let x := presentLinks x acy q es
  let x := latchFeed x q
  let lanes := smSet (fun _ => (0, 0)) q.fd.lanes q.lane (q.step + 1, acy)
  let x := { x with feeds := x.feeds.map (fun f => if f.tag = q.fd.tag then { f with lanes := lanes, amax := amax } else f) }
  let x := updBlock x q.b.id (fun b => { b with passes := b.passes.map (fun p =>
    if p.base = q.p.base then
      (if q.fd.side = 0 then { p with outR := outs.foldl (fun m e => smSet (fun _ => 65536) m e.1 e.2) p.outR }
       else { p with outC := outs.foldl (fun m e => smSet (fun _ => 65536) m e.1 e.2) p.outC })
    else p) })
  readsDone x acy q { q.fd with lanes := lanes, amax := amax }

/-- One lane's next step is presented. When an event of its reads resets the partition, nothing follows (R184). -/
def presentStep (s : State) (t acy : Nat) (q : Present) : State :=
  let es := q.ks.map (fun k => (q.c.elem q.lane k).1)
  let s := presentReads (presentCounts (presentQuant s t q) t q) t q
  let s := presentOverflow s t acy q
  if !(getTile s t).feeds.any (fun f => f.tag == q.fd.tag) then s
  else
    let s := if q.lane = 0 then tcount s t (0x28 + q.fd.side) 1 else s
    let s := updTile s t (fun x => presentStore x acy q es)
    match (getTile s t).feeds.find? (fun f => f.tag == q.fd.tag) with
    | some fd => feedDone s t acy q fd
    | none => s

/-- The feed, block and pass whose step a lane presents next. -/
def presentOf (s : State) (t side lane : Nat) : Option Present :=
  let x := getTile s t
  let cand := x.feeds.filterMap (fun fd =>
    if fd.side ≠ side || feedLanes side fd.shape ≤ lane then none
    else match fd.blk.bind (blockById x) with
      | none => none
      | some b => match b.passes[fd.pass]? with
        | none => none
        | some p => if laneSteps fd lane < p.steps then
            some { c := mkFeedCtx s t fd p.excl b.zps, fd := fd, b := b, p := p, lane := lane, step := laneSteps fd lane }
          else none)
  cand.head?

/-- The acycle in which a lane presents its next step: in its feed's order one an acycle from the feed's first, and not while a
link is full (R161, R221). -/
def presentAt (x : Tile) (q : Present) : Nat :=
  let prev := if q.step = 0 then 0 else (smGet (fun _ => (0, 0)) q.fd.lanes q.lane).2 + 1
  (edgeLink q.fd.side q.lane :: laneLinks q.fd.side q.fd.shape q.lane).foldl (fun a k => max a (roomAt x q.fd.side k))
    (max (q.fd.first + q.step) prev)

/-- The lane's links have room, and it is the acycle in which the lane presents (R161, R221). -/
def presentDue (x : Tile) (acy : Nat) (q : Present) : Bool :=
  (laneLinks q.fd.side q.fd.shape q.lane).all (fun k => (getLink x q.fd.side k).length < 8)
    && (getLink x q.fd.side (edgeLink q.fd.side q.lane)).length < 8
    && acy == presentAt x q

/-- FEED_PRESENT (R161, R221). -/
def execFeedPresent (t : TileIx) (feeder : BitVec 1) (lane : BitVec 10) (acy : Nat) (s : State) :
    Host.Outcome State Fault Refusal :=
  let t := t.toNat
  if !aclkOn s then skip s else
  let acy := absAcy s t acy
  let s' := updTile s t (landDue acy)
  match presentOf s' t feeder.toNat lane.toNat with
  | none => skip s
  | some q => guarded (presentDue (getTile s' t) acy q) s (presentStep s' t acy q)

/-! Steps. -/

/-- The step is its block's first. -/
def isFirstStep (b : OBlock) (n : Nat) : Bool := match b.passes.head? with | some p => p.base == n | none => false

/-- The acycle in which a cell performs a step: the first in which both its links hold the step's entries and it has performed
the step before, or, at a block's first step, its row has swapped (R160, R153, R351). -/
def stepAt (x : Tile) (r c : Nat) (b : OBlock) (e k : LinkEntry) : Nat :=
  max (max e.at_ k.at_ + arrayFill b.shape)
    (max ((getCell x r c).at_ + 1) (if isFirstStep b e.step then (getARow x r).swapAt + 1 else 0))

/-- The step a cell performs next and its two entries, when both links hold it and the cell may (R160). -/
def cellEntries (x : Tile) (r c : Nat) : Option (OBlock × KPassSt × LinkEntry × LinkEntry) :=
  let v := getCell x r c
  let pick := fun (e : LinkEntry) => decide (v.next ≤ e.step)
  let found : Option (LinkEntry × LinkEntry) := match (getRow x r).find? pick with
    | none => none
    | some e0 =>
      match blockById x e0.blk with
      | none => none
      | some b0 =>
        let col := getCol x (colKey b0.shape r c)
        if c = 64 then
          (match col.find? pick with
           | none => none
           | some k => ((getRow x r).find? (fun (e : LinkEntry) => e.step == k.step)).map (fun e => (e, k)))
        else (col.find? (fun (k : LinkEntry) => k.step == e0.step)).map (fun k => (e0, k))
  match found with
  | none => none
  | some (e, k) =>
    match blockById x e.blk with
    | none => none
    | some b =>
      match passAt b e.step with
      | none => none
      | some p =>
        if participates b r c && !v.outDue && (!isFirstStep b e.step || decide (v.blkDone ≤ (getARow x r).swaps)) then some (b, p, e, k) else none

/-- The factor of an element's integer form (R165). -/
def intFactor (e : Elem) : Nat := match e.kind with | 0 => 2 | 3 => 512 | 4 => 65536 | _ => 1

/-- The terms of a step, in ascending K (R111 to R119). -/
def stepPairs (a b : List Elem) : List (Elem × Elem) := (a.zip b).filter (fun p => p.1.live && p.2.live)

/-- The product of two integer forms with one bit flipped (19 R672). -/
def flipBit (p : Int) (k : Nat) : Int :=
  if (Int.fdiv p (2 ^ k)) % 2 = 0 then p + (2 ^ k : Nat) else p - (2 ^ k : Nat)

/-- The W40 terms and the residue increment of a step, the lowest term's product flipped when a fault is injected. -/
def stepTerms (a b : List Elem) (flip : Option Nat) : List (XV × XV) × Nat :=
  let ps := stepPairs a b
  let ts := ps.map (fun p => (p.1.value, p.2.value))
  let sum := ps.foldl (fun n p => n + p.1.int * p.2.int) 0
  match flip, ps.head? with
  | some k, some (e, f) =>
    let p := e.int * f.int
    let p' := flipBit p k
    let ok := e.value.isFinite && f.value.isFinite
    let q : Rat := (p' : Rat) / ((intFactor e * intFactor f : Nat) : Rat) * blockFactor e.exp * blockFactor f.exp
    (if ok then (xvRat q, .fin false 1) :: ts.tail else ts, toRes (sum - p + p'))
  | _, _ => (ts, toRes sum)

/-- A link that was full and has room again takes entries from the next acycle on (R161; log 53). -/
def noteRoom (x : Tile) (side k acy : Nat) (was now : List LinkEntry) : Tile :=
  if was.length < 8 || 8 ≤ now.length then x else { x with rooms := smSet (fun _ => 0) x.rooms (2048 * side + k) (acy + 1) }

/-- A link's entries that every participating cell of its line has performed retire (R161). -/
def retireRow (x : Tile) (r acy : Nat) : Tile :=
  let l := (getRow x r).filter (fun e => match blockById x e.blk with
    | none => false
    | some b => (List.range 65).any (fun c => participates b r c && decide ((getCell x r c).next ≤ e.step)))
  noteRoom (setRow x r l) 0 r acy (getRow x r) l

def colRows (b : OBlock) (key : Nat) : List Nat :=
  let seg := if key < 1024 then key / 64 else key - 1024
  (List.range (segRows b.shape)).map (segRows b.shape * seg + ·) ++ (if b.shape = 0 then [64] else [])

def retireCol (x : Tile) (key acy : Nat) : Tile :=
  let c := if key < 1024 then key % 64 else 64
  let l := (getCol x key).filter (fun e => match blockById x e.blk with
    | none => false
    | some b => (colRows b key).any (fun r => participates b r c && decide ((getCell x r c).next ≤ e.step)))
  noteRoom (setCol x key l) 1 key acy (getCol x key) l

/-- The injected product fault of the named cell is due in this step (19 R672). -/
def injectHere (s : State) (t r c : Nat) : Option Nat :=
  if s.fi.kind = 1 ∧ 0 < s.fi.left ∧ s.fi.page = tpage s t ∧ fld s.fi.data 6 0 = r ∧ fld s.fi.data 14 8 = c then
    some (fld s.fi.data 20 16) else none

/-- What a cell holds after a step on its two entries: with an injected fault, the products' sum in its accumulator, its
residue, and the events (R121 to R126, R166). -/
def steppedCell (v : Cell) (plain : Bool) (acy : Nat) (b : OBlock) (p : KPassSt) (e k : LinkEntry) (inj : Option Nat) : Cell × AEv :=
  let (ts, res) := stepTerms e.elems k.elems inj
  let (acc, ev) := if plain then cellStep v.act ts else (v.act, {})
  let atEnd := e.step + 1 == p.base + p.steps
  let due := atEnd && plain && p.cap != 0
  ({ v with
    act := acc
    res := if b.bf16 then v.res else (v.res + res) % resP
    next := e.step + 1
    outDue := due
    at_ := acy
    blkDone := if atEnd && !due && isLastPass b p then b.id + 1 else v.blkDone }, ev)

/-- The place of an array event. -/
def cellPlace (b : OBlock) (r c kstep acy : Nat) : APlace :=
  { op := b.op, stage := 0, row := outRow b.shape r, col := outCol b.shape r c, kstep := kstep, num := b.num, order := b.ord, acy := acy }

/-- The acycle from which a cell that lacks an entry of a step counts a feed stall: within a K pass the one after its step
before, at a pass's first step no earlier than the one the schedule gives that step (R182; log 53). -/
def stallFrom (x : Tile) (r c : Nat) (b : OBlock) (p : KPassSt) (n : Nat) : Nat :=
  let a := (getCell x r c).at_ + 1
  if n = p.base then max (max a p.sched) (if isFirstStep b n then (getARow x r).swapAt + 1 else 0) else a

/-- The same step in the cell of the site that shadows the tile, on the same entries (19 R644). -/
def dupStep (v : Cell) (plain : Bool) (acy : Nat) (b : OBlock) (p : KPassSt) (e k : LinkEntry) : BitVec 40 :=
  (steppedCell { v with act := v.dup } plain acy b p e k none).1.act

/-- A cell's step: the cell, its two links, the injection used and the counts (R121 to R126, R160, R182). -/
def cellAct (s : State) (t r c acy : Nat) (b : OBlock) (p : KPassSt) (e k : LinkEntry) : State :=
  let x := getTile s t
  let inj := if b.bf16 then none else injectHere s t r c
  let v := steppedCell (getCell x r c) (r < 64 && c < 64) acy b p e k inj
  let dup := if samples s t then dupStep (getCell x r c) (r < 64 && c < 64) acy b p e k else 0
  let s := setTile s t (retireCol (retireRow (setCell x r c { v.1 with dup := dup }) r acy) (colKey b.shape r c) acy)
  let s := noteStalls s t 0x21 (stallFrom x r c b p e.step) acy
  let s := if inj.isSome then injectUsed s else s
  let s := if r = 0 ∧ c = 0 then tcount s t 0x20 1 else s
  arithEvent s t (cellPlace b r c (p.step0 + (e.step - p.base)) acy) v.2

/-- ARRAY_STEP (R121 to R126, R160, R161, R166): in the acycle that R160 and R351 give. -/
def execArrayStep (t : TileIx) (r c : BitVec 7) (acy : Nat) (s : State) : Host.Outcome State Fault Refusal :=
  let t := t.toNat
  if !aclkOn s then skip s else
  let a := absAcy s t acy
  match cellEntries (getTile s t) r.toNat c.toNat with
  | none => skip s
  | some (b, p, e, k) => guarded (a == stepAt (getTile s t) r.toNat c.toNat b e k) s (cellAct s t r.toNat c.toNat a b p e k)

/-- The outlier products of a cell in a pass: a position at or beyond the K size of either operand has none (R118, R257). -/
def outlierTerms (b : OBlock) (p : KPassSt) (r c : Nat) : List (XV × XV) :=
  (List.range p.excl.length).filterMap (fun j =>
    let u := smGet (fun _ => 65536) p.outR (64 * outRow b.shape r + j)
    let v := smGet (fun _ => 65536) p.outC (64 * outCol b.shape r c + j)
    if u < 65536 ∧ v < 65536 then some (decodeF fBF16 u, decodeF fBF16 v) else none)

/-- The block and pass whose outlier step a cell owes. -/
def outlierDue (x : Tile) (r c : Nat) : Option (OBlock × KPassSt) :=
  x.blocks.findSome? (fun b => (passAt b ((getCell x r c).next - 1)).map (fun p => (b, p)))

/-- A cell's outlier step (R133, R151, R257). -/
def outlierAct (s : State) (t r c acy : Nat) (b : OBlock) (p : KPassSt) : State :=
  let x := getTile s t
  let v := getCell x r c
  let (acc, ev) := cellStep v.act (outlierTerms b p r c)
  let dup := if samples s t then (cellStep v.dup (outlierTerms b p r c)).1 else 0
  let s' := setTile s t (setCell x r c { v with act := acc, dup := dup, outDue := false, at_ := acy, blkDone := if isLastPass b p then b.id + 1 else v.blkDone })
  arithEvent (if r = 0 ∧ c = 0 then tcount s' t 0x20 1 else s') t (cellPlace b r c (p.step0 + p.steps) acy) ev

/-- OUTLIER_STEP (R133, R151, R257): in the acycle after the pass's last step. -/
def execOutlierStep (t : TileIx) (r c : BitVec 7) (acy : Nat) (s : State) : Host.Outcome State Fault Refusal :=
  let t := t.toNat
  if !aclkOn s then skip s else
  let a := absAcy s t acy
  let v := getCell (getTile s t) r.toNat c.toNat
  match outlierDue (getTile s t) r.toNat c.toNat with
  | none => skip s
  | some (b, p) => guarded (v.outDue && 0 < v.next && a == v.at_ + 1) s (outlierAct s t r.toNat c.toNat a b p)

/-! Swap and drain. -/

/-- The block's swap or drain entry is later than its slack: TDC cause 1, once (R164). -/
def slackCheck (s : State) (t acy : Nat) (b : OBlock) (sched : Nat) : State :=
  if b.late || acy ≤ sched + b.slack then s
  else
    let s := updTile s t (fun x => updBlock x b.id (fun b => { b with late := true }))
    tdcTile (tcount s t 0x23 1) t 1 b.op

/-- The block an array row swaps next: the first not below its count that the row takes part in. -/
def swapBlock (x : Tile) (r : Nat) : Option OBlock :=
  x.blocks.find? (fun b => decide ((getARow x r).swaps ≤ b.id) && participates b r 0)

/-- Every array row that takes part has swapped the block. -/
def allSwapped (x : Tile) (b : OBlock) : Bool :=
  (List.range 65).all (fun r => !participates b r 0 || decide (b.id < (getARow x r).swaps))

/-- The block is complete in the row's cells, and what the row swapped before has drained (R148, R162). -/
def swapReady (x : Tile) (r : Nat) (b : OBlock) : Bool :=
  b.complete && (getARow x r).entered == (getARow x r).swaps &&
    (List.range 65).all (fun c => !participates b r c || ((getCell x r c).blkDone == b.id + 1 && !(getCell x r c).outDue))

/-- The acycle in which a row swaps a block that is ready: the first after its cells' last steps and its shadow row's entry into
scale-and-convert (R162, R351). -/
def swapAcy (x : Tile) (r : Nat) (b : OBlock) : Nat :=
  max ((List.range 65).foldl (fun a c => if participates b r c then max a (getCell x r c).at_ else a) 0) (getARow x r).enterAt + 1

/-- A row's accumulators swapped: the shadow of each cell takes the active one, which is 0 (R148). -/
def swapCells (x : Tile) (r : Nat) : Tile :=
  (List.range 65).foldl (fun x c =>
    let v := getCell x r c
    setCell x r c { v with shd := v.act, act := 0, shRes := v.res, res := 0, dupShd := v.dup, dup := 0 }) x

/-- A row swaps a block; the last row of the block ends its repeat and the slack is checked (R148, R162, R164). -/
def swapAct (s : State) (t r acy : Nat) (b : OBlock) : State :=
  let x := getTile s t
  let x' := setARow (swapCells x r) r { getARow x r with swaps := b.id + 1, swapAt := acy }
  let done := allSwapped x' b
  let x' := if done && x'.running == some b.id then { x' with running := none } else x'
  if done then slackCheck (setTile s t x') t acy b b.schedSwap else setTile s t x'

/-- SWAP of one array row (R148, R162, R164). -/
def execArraySwap (t : TileIx) (r : BitVec 7) (acy : Nat) (s : State) : Host.Outcome State Fault Refusal :=
  let t := t.toNat
  if !aclkOn s then skip s else
  let a := absAcy s t acy
  match swapBlock (getTile s t) r.toNat with
  | none => skip s
  | some b => guarded (swapReady (getTile s t) r.toNat b && r.toNat ≤ 64 && a == swapAcy (getTile s t) r.toNat b) s
      (swapAct s t r.toNat a b)

/-- Residues of a drained row enter the block's check sums (R168). -/
def checkRow (b : OBlock) (r : Nat) (res : List Nat) (chk : Nat) (chkRow : List Nat) (corner : Nat) : OBlock :=
  if b.bf16 then b
  else
    let sum := res.foldl (fun a v => (a + v) % resP) 0
    let b := { b with rowBad := if sum = chk then b.rowBad else b.rowBad ++ [r] }
    if b.shape ≠ 0 then b
    else
      let b := { b with
        colSum := (List.range 64).map (fun c => (b.colSum.getD c 0 + res.getD c 0) % resP)
        colSumChk := (b.colSumChk + chk) % resP }
      if r = 63 then { b with chkRow := chkRow, corner := corner } else b

/-- A row waits to enter the conversion path: it has swapped and not drained, the row before it has, and, of row 63, so has the
checksum row its swap (R149, R163). -/
def enterWaits (x : Tile) (r : Nat) (b : OBlock) : Bool :=
  decide ((getARow x r).entered < (getARow x r).swaps)
    && (r == 0 || decide ((getARow x r).swaps ≤ (getARow x (r - 1)).entered))
    && (!(r == 63 && participates b 64 0) || decide (b.id < (getARow x 64).swaps))

/-- The acycle from which a waiting row may enter when the path takes it: one after its swap, and one after the row before it
(R163, R351). -/
def enterFrom (x : Tile) (r : Nat) (b : OBlock) : Nat :=
  max ((getARow x r).swapAt + 1) (max (if r = 0 then 0 else (getARow x (r - 1)).enterAt + 1)
    (if r = 63 ∧ participates b 64 0 then (getARow x 64).swapAt + 1 else 0))

/-- The block that a row drains next. -/
def enterBlock (x : Tile) (r : Nat) : Option OBlock := blockById x ((getARow x r).swaps - 1)

/-- Rows that could enter at an acycle, with their blocks. -/
def enterRivals (x : Tile) (acy : Nat) : List (Nat × OBlock) :=
  (List.range 64).filterMap (fun i => (enterBlock x i).bind (fun b =>
    if enterWaits x i b && decide (enterFrom x i b ≤ acy) then some (i, b) else none))

/-- The conversion path takes a row in an acycle. -/
def pathTaken (x : Tile) (a : Nat) : Bool := (List.range 64).any (fun i => decide (0 < (getARow x i).entered) && (getARow x i).enterAt == a)

/-- A row enters the conversion path in the first acycle that the path takes it: one row an acycle, that of the older block
first where two could enter (R149, R163; DESIGN CHOICE, log 53). -/
def enterReady (x : Tile) (r acy : Nat) (b : OBlock) : Bool :=
  enterWaits x r b && decide (enterFrom x r b ≤ acy)
    && (List.range (acy - enterFrom x r b)).all (fun i => pathTaken x (enterFrom x r b + i))
    && !pathTaken x acy && (enterRivals x acy).all (fun q => decide (b.id ≤ q.2.id))

/-- The row that enters: the shadow accumulators and residues of its 64 cells, and its check cell (R149, R168). -/
def enteredRow (x : Tile) (r acy : Nat) (b : OBlock) : ConvRow :=
  let cells := (List.range 64).map (fun c => getCell x r c)
  { blk := b.id, row := r, acc := cells.map (fun v => v.shd), res := cells.map (fun v => v.shRes),
    chk := (getCell x r 64).shRes, entered := acy, dup := cells.map (fun v => v.dupShd) }

/-- A row enters the conversion path; its residues enter the check, the last row's slack is checked, and the acycle counts as a
drain stall when another row could have entered (R163, R164, R168, R182). -/
def enterAct (s : State) (t r acy : Nat) (b : OBlock) : State :=
  let x := getTile s t
  let a := getARow x r
  let row := enteredRow x r acy b
  let chkRow := (List.range 64).map (fun c => (getCell x 64 c).shRes)
  let x' := updBlock x b.id (fun b => checkRow b r row.res row.chk chkRow (getCell x 64 64).shRes)
  let x' := setARow { x' with conv := x'.conv ++ [row] } r { a with entered := a.swaps, enterAt := acy }
  let x' := if r = 63 ∧ participates b 64 0 then setARow x' 64 { getARow x' 64 with entered := (getARow x' 64).swaps, enterAt := acy }
    else x'
  let s' := if (enterRivals x acy).any (fun q => q.1 != r) then noteStalls (setTile s t x') t 0x22 acy (acy + 1) else setTile s t x'
  if r = 63 then slackCheck s' t acy ((blockById x' b.id).getD b) (b.schedSwap + 64) else s'

/-- DRAIN_ROW_ENTER (R149, R163, R164, R168). -/
def execDrainRowEnter (t : TileIx) (r : BitVec 6) (acy : Nat) (s : State) : Host.Outcome State Fault Refusal :=
  let t := t.toNat
  if !aclkOn s then skip s else
  let x := getTile s t
  let a := absAcy s t acy
  match enterBlock x r.toNat with
  | none => skip s
  | some b => guarded (enterReady x r.toNat a b) s (enterAct s t r.toNat a b)

/-- What a drained row is written with. -/
structure Drain where
  t : Nat
  b : OBlock
  a : Arec
  d : BitVec 1024
  fmt : Fmt
  r : Nat
  acy : Nat
  seed : DWord

def Drain.i (q : Drain) : Nat := outRow q.b.shape q.r
/-- The output column of a cell of the row. -/
def Drain.j (q : Drain) (c : Nat) : Nat := outCol q.b.shape q.r c
/-- The index vector of an output element (R340). -/
def Drain.vec (q : Drain) (c : Nat) : List Nat :=
  (List.range 6).map (fun k => q.a.start.getD k 0 + (if k = q.a.rowDim then q.i else 0) + (if k = q.a.colDim then q.j c else 0))
/-- The drained cell is an output element (R131). -/
def Drain.real (q : Drain) (c : Nat) : Bool :=
  (q.vec c).getD q.a.rowDim 0 < dSize q.d q.a.rowDim && (q.vec c).getD q.a.colDim 0 < dSize q.d q.a.colDim
def Drain.e (q : Drain) : Nat := q.fmt.perLine
/-- The element's position counted across the row's lines. -/
def Drain.pos (q : Drain) (c : Nat) : Nat := q.a.start.getD q.a.colDim 0 % q.e + q.j c
/-- The tile-store offset of the line that holds it. -/
def Drain.off (q : Drain) (c : Nat) : Nat := q.a.tsOff + q.i * q.a.pitch + 72 * (q.pos c / q.e)
def Drain.rnd (q : Drain) (c : Nat) : Rnd :=
  if q.a.sr then .sr (srNibble q.seed q.a.stream (dLogical q.d (q.vec c))) else .rne
/-- The row fills the whole line of the element (R340). -/
def Drain.full (q : Drain) (c : Nat) : Bool :=
  let p0 := q.a.start.getD q.a.colDim 0 % q.e
  let l := q.pos c / q.e * q.e
  p0 ≤ l && l + q.e ≤ p0 + blockWidth q.b.shape
/-- The place of an event of a drained row: it counts in the acycle of the row's write (DESIGN CHOICE, log 53). -/
def Drain.place (q : Drain) (stage c : Nat) : APlace :=
  { op := q.b.op, stage := stage, row := q.i, col := q.j c, kstep := 0, num := q.b.num, order := q.b.ord, acy := q.acy }

/-- Bytes of a drained line are written: earlier blocks' lines that share it stay unverified with it (R171). Nothing is written
once the partition has been reset (R184). -/
def drainStore (s : State) (q : Drain) (off : Nat) (at_ : Nat) (l : List Byte) (keep : Bool) : State :=
  if (blockById (getTile s q.t) q.b.id).isNone then s
  else updTile s q.t (fun x =>
    let old := x.unver.filter (fun u => keep && u.off == off && u.blk != q.b.id)
    let y := tsWrite x at_ l
    { y with unver := { off := off, blk := q.b.id } :: (old ++ y.unver.filter (fun u => !(u.off == off))) })

/-- The wide elements of a row written (R130, R132). -/
def drainWide (s : State) (q : Drain) (ds : List XV) : State :=
  (ds.zipIdx).foldl (fun s e =>
    let r := convTo q.fmt (q.rnd e.2) e.1
    let w := q.fmt.width / 8
    let s := drainStore s q (q.off e.2) (q.off e.2 + w * (q.pos e.2 % q.e)) (leBytes w r.code) true
    if r.overflow then arithEvent s q.t (q.place 2 e.2) { overflow := true } else s) s

/-- One 32-element block of a narrow row converted and written into its line (R130, R191, R241, R260, R340). The line carries no
check value: a line in the tile store holds none (09 R300). A line that the row fills only in part keeps the `NONFINITE` that
an attempt it replaces set, as a partial write never clears it, and page counter 38h keeps that attempt's elements (DESIGN CHOICE,
log 53). -/
def drainBlock (q : Drain) (rowscale : XV) (ds : List XV) (s : State) (g : Nat) : State :=
  let x := getTile s q.t
  let mark := (precAt s q.t q.b.prec).markOut
  let out := fun c => mark && q.real c && x.outTab.contains ((q.vec c).getD (dKdim q.d) 0)
  let cs := (List.range 32).map (32 * g + ·)
  let es := cs.map (fun c => ({ real := q.real c && !out c, pad := !q.real c, x := ds.getD c .nan, rnd := q.rnd c } : QElem))
  let code := if bit q.a.scale 0 then some (((blockById x q.b.id).bind (·.ocode)).getD (dslot x (bits q.a.scale 7 4))) else none
  let b := quantBlock q.fmt q.a.scale (fun _ => code.getD 0) rowscale es
  let c0 := 32 * g
  let off := q.off c0
  let bi := q.pos c0 % q.e / 32
  let old := tsBytes x off 72
  let tag0 := if q.full c0 && bi == 0 then 0 else lineTag old
  let tag := mkTag q.fmt.code (dSparse q.d) (dRotated q.d) (bit tag0 7 || cs.any out) (bit tag0 8 || b.nonfinite) false
  let w := 32 * q.fmt.width / 8
  let el := (packElems q.fmt b.codes).take w
  let elems := (slice old 0 64).take (w * bi) ++ el ++ (slice old 0 64).drop (w * bi + w)
  let exps := (slice old 64 4).set bi (BitVec.ofNat 8 b.exp)
  let line := padLine q.fmt ((q.vec c0).getD (dKdim q.d) 0 - q.pos c0 % q.e) (dSize q.d (dKdim q.d)) (mkLine elems exps tag false 0 0)
  let s := drainStore s q off off line (!q.full c0)
  let s := countConv s q.t b.cnt false
  let s := updTile s q.t (fun x =>
    let put := fun (y : OBlock) => if y.id = q.b.id then { y with ocode := code } else y
    { updBlock x q.b.id (fun y => { y with outs := y.outs.add b.cnt, ocode := code }) with
      replay := x.replay.map (fun r => { r with blk := put r.blk }) })
  if b.cnt.zblk + b.cnt.sblk = 0 then s else traise s q.t 11 q.b.op

/-- The precision report of a finished final attempt (R253). -/
def writeReport (s : State) (t id : Nat) : State :=
  match blockById (getTile s t) id with
  | none => s
  | some b =>
    let r := precAt s t b.prec
    let again := (getTile s t).replay.any (fun q => q.blk.op == b.op && q.blk.num == b.num && q.kind == 1)
      || (getTile s t).blocks.any (fun y => decide (b.id < y.id) && y.op == b.op && y.num == b.num)
    if !b.decided || b.drainDone.isNone || r.report = 0xFFFFFFFF || again then s
    else
      let head := b.op % 2 ^ 24 + 2 ^ 24 * b.rung + 2 ^ 26 * (decide (b.level ≠ 0)).toNat + 2 ^ 27 * b.exhausted.toNat
      let cap := fun (n : Nat) => min n 65535
      updTile s t (fun x => tsWrite x r.report (leBytes 4 head ++ leBytes 4 b.ins.sat ++ leBytes 4 b.ins.zero
        ++ leBytes 4 b.ins.nonf ++ leBytes 2 (cap b.ins.zblk) ++ leBytes 2 (cap b.ins.sblk) ++ leBytes 4 b.outs.sat
        ++ leBytes 4 b.outs.nonf ++ leBytes 4 b.misses))

/-- The lines of a block and of the attempts it replaces count as verified from an acycle on (R171, R172). -/
def freeLines (l : List Unver) (b : OBlock) (acy : Nat) : List Unver :=
  l.map (fun u => if (u.blk == b.id || b.prevIds.contains u.blk) && u.free.isNone then { u with free := some acy } else u)

/-- Row 63 is in the tile store: drain complete (R149, R172, R253, R641). -/
def drainDone (s : State) (t acy : Nat) (b : OBlock) : State :=
  let s := updTile s t (fun x =>
    let x := updBlock x b.id (fun b => { b with drainDone := some acy, verd := b.bf16 })
    { x with
      readers := endTag x.readers b.tag acy
      pend := endTag x.pend b.tag acy
      unver := if b.bf16 then freeLines x.unver b (acy + 1) else x.unver })
  let s := shadowUnit (writeReport s t b.id) t 0 b.op b.dupBad
  updTile s t sweepBlocks

/-- The store range of the lines that hold an array row's cells (R340). -/
def Drain.span (q : Drain) (r : Nat) : Nat × Nat :=
  let q' := { q with r := r }
  (q'.off 0, q'.off 63 + 72 - q'.off 0)

/-- The store pages a drain still writes or reads after a row: those of the rows to come, its scale vectors' and its report's
(R344, R345). -/
def Drain.pagesLeft (q : Drain) (s : State) : List Nat :=
  let r := precAt s q.t q.b.prec
  ((List.range 64).filter (fun i => decide (q.r < i))).flatMap (fun i => pagesOf (q.span i).1 (q.span i).2)
  ++ (if q.a.saEn then pagesOf q.a.saOff (4 * feedLanes 0 q.b.shape) else [])
  ++ (if q.a.sbEn then pagesOf q.a.sbOff (4 * blockWidth q.b.shape) else [])
  ++ (if q.a.orsEn then pagesOf q.a.orsOff (4 * feedLanes 0 q.b.shape) else [])
  ++ (if r.report = 0xFFFFFFFF then [] else pagesOf r.report 32)

/-- The row written: scaled, converted and counted; the rotation is that of the array instruction whose drain it is, the block's
last (R128 to R132, R233, R337, R340). -/
def drainRow (s : State) (q : Drain) (v : ConvRow) : State :=
  let t := q.t
  let x := getTile s t
  let rot := match q.b.passes.getLast? with | some p => (fcbAt s t p.fcbR).rot | none => 0
  let half : Rat := if rot = 2 ∨ rot = 4 then mkRat 1 2 else 1
  let sa := (if q.a.saEn then decodeF fFP32 (tsNat x (q.a.saOff + 4 * q.i) 4) else .fin false 1).scale half
  let sb := fun c => if q.a.sbEn then decodeF fFP32 (tsNat x (q.a.sbOff + 4 * q.j c) 4) else .fin false 1
  let rs := if q.a.orsEn then decodeF fFP32 (tsNat x (q.a.orsOff + 4 * q.i) 4) else .fin false 1
  let s := if q.a.saEn then tsCheck s t (q.a.saOff + 4 * q.i) 4 else s
  let s := if q.a.sbEn then tsCheck s t (q.a.sbOff + 4 * q.j 0) 256 else s
  let s := if q.a.orsEn then tsCheck s t (q.a.orsOff + 4 * q.i) 4 else s
  let ds := (v.acc.zipIdx).map (fun e => drainScale e.1 sa (sb e.2))
  let s := (ds.zipIdx).foldl (fun s e => arithEvent s t (q.place 1 e.2) e.1.2) s
  let vals := ds.map (fun e => e.1)
  let nf := countP (fun e => q.real e.2 && !e.1.isFinite) vals.zipIdx
  let s := tcount s t 0x38 nf
  let s := if q.a.sr && q.fmt.code ≠ 9 then tcount s t 0x51 (countP (fun c => q.real c) (List.range 64)) else s
  if q.fmt.isNarrow then drainBlock q rs vals (drainBlock q rs vals s 0) 1
  else
    let s := updTile s t (fun x => updBlock x q.b.id (fun y => { y with outs := y.outs.add { nonf := nf } }))
    drainWide s q vals

/-- What a row of a block is written with; none when its output has no narrow or wide format. -/
def drainOf (s : State) (t acy : Nat) (b : OBlock) (r : Nat) : Option Drain :=
  let a := arecAt s t b.arec
  let d := tdesc s t a.outDesc
  (Fmt.ofCode (dFormat d)).map (fun f =>
    { t := t, b := b, a := a, d := d, fmt := f, r := r, acy := acy, seed := tseed s t })

/-- The bytes of a row's lines in the tile store. -/
def rowBytes (s : State) (q : Drain) : List Byte := tsBytes (getTile s q.t) (q.span q.r).1 (q.span q.r).2

/-- The row as the shadowing site drains it differs from the row written, where the launch samples (19 R644, R645). -/
def dupRow (s : State) (q : Drain) (v : ConvRow) (s' : State) : State :=
  if samples s q.t && rowBytes (drainRow s q { v with acc := v.dup }) q != rowBytes s' q then
    updTile s' q.t (fun x => updBlock x q.b.id (fun b => { b with dupBad := true }))
  else s'

/-- A converted row is written, and the pages that no later row needs are free; `x` is the tile after the results due have
landed. -/
def writeAct (s : State) (x : Tile) (t acy : Nat) (q : Drain) (v : ConvRow) : State :=
  let left := q.pagesLeft s
  let s' := setTile s t { x with
    conv := x.conv.filter (fun w => !(w.row == v.row && w.blk == v.blk))
    readers := endHolds x.readers q.b.tag acy (fun u => !left.contains u)
    pend := endHolds x.pend q.b.tag acy (fun u => !left.contains u) }
  let s' := dupRow s' q v (drainRow s' q v)
  match blockById (getTile s' t) q.b.id with
  | some b => if v.row = 63 then drainDone s' t acy b else s'
  | none => s'

/-- DRAIN_ROW_WRITE (R128 to R132, R149, R340). -/
def execDrainRowWrite (t : TileIx) (r : BitVec 6) (acy : Nat) (s : State) : Host.Outcome State Fault Refusal :=
  let t := t.toNat
  if !aclkOn s then skip s else
  let a := absAcy s t acy
  let x := landDue a (getTile s t)
  match x.conv.find? (fun v => v.row == r.toNat) with
  | none => skip s
  | some v =>
    match (blockById x v.blk).bind (fun b => drainOf s t a b v.row) with
    | none => skip s
    | some q => guarded (a == v.entered + convLatency q.fmt) s (writeAct s x t a q v)

/-! Verdict. -/

/-- The columns whose check failed, and the corner check, in square shape (R168). -/
def colBad (b : OBlock) : List Nat :=
  if b.shape ≠ 0 then [] else (List.range 64).filter (fun c => b.colSum.getD c 0 != b.chkRow.getD c 0)
def cornerBad (b : OBlock) : Bool :=
  b.shape == 0 && !(b.corner == b.chkRow.foldl (fun a v => (a + v) % resP) 0 && b.corner == b.colSumChk)

/-- The checksum report registers (R178 to R181). -/
def chkRecord (s : State) (t : Nat) (b : OBlock) : State :=
  let p := tpage s t
  if rgF s p 0x100 31 31 = 1 then s
  else
    let mask := fun (l : List Nat) (lo : Nat) => BitVec.ofNat 32 ((l.filter (fun k => decide (lo ≤ k ∧ k < lo + 32))).foldl (fun a k => a + 2 ^ (k - lo)) 0)
    let s := setRg s p 0x100 (BitVec.ofNat 32 (b.op % 2 ^ 24 + 2 ^ 24 * b.shape + 2 ^ 26 * (cornerBad b).toNat + 2 ^ 31))
    let s := setRg s p 0x104 (BitVec.ofNat 32 b.num)
    let s := setRg (setRg s p 0x108 (mask b.rowBad 0)) p 0x10C (mask b.rowBad 32)
    setRg (setRg s p 0x110 (mask (colBad b) 0)) p 0x114 (mask (colBad b) 32)

/-- The length of a tile-operation (R352). -/
def opLength (b : OBlock) : Nat := max (nextStep0 b + 1) 65

/-- No entry that reads the block's store pages has issued or is scheduled before the segment's epoch point (R648). -/
def recomputable (s : State) (t : Nat) (b : OBlock) : Bool :=
  let x := getTile s t
  let pages := (x.unver.filter (fun u => u.blk == b.id)).flatMap (fun u => pagesOf u.off 72)
  !b.readOut && (List.range 5).all (fun st => (restOfSegment s t st).all (fun e => !(entryReads s t st e).any pages.contains))

/-- What a mismatch sets off (R267, R647 to R649). -/
def mismatchAct (s : State) (t acy : Nat) (b : OBlock) : State :=
  let x := getTile s t
  let same := fun (y : OBlock) => y.op == b.op && y.num == b.num
  let widerQ := x.replay.any (fun q => same q.blk && q.kind == 1)
  let widerR := x.blocks.any (fun y => same y && decide (b.id < y.id) && y.kind == 1)
  if b.recomp then raise s 0x003 1 t
  else if widerQ || widerR then
    setTile s t { x with
      replay := x.replay.map (fun q => if same q.blk ∧ q.kind = 1 then { q with blk := { q.blk with recomp := true } } else q)
      blocks := x.blocks.map (fun y => if same y ∧ b.id < y.id then { y with recomp := true } else y) }
  else if recomputable s t b then
    let s := setTile s t { x with replay := x.replay ++ [{ blk := { b with recomp := true }, rung := b.rung, kind := 2, cost := opLength b, at_ := acy }] }
    tdcTile (tcount s t 0x61 1) t 6 b.op
  else raise s 0x003 1 t

/-- The block whose verdict comes at an acycle: 96 after its drain was done (R168, R169). -/
def verdictBlock (x : Tile) (acy : Nat) : Option OBlock :=
  x.blocks.find? (fun b => !b.bf16 && !b.verd && b.drainDone == some (acy - 96) && 96 ≤ acy)

/-- Some check of the block failed (R168). -/
def checksBad (b : OBlock) : Bool := !b.rowBad.isEmpty || !(colBad b).isEmpty || cornerBad b

/-- A verdict: a mismatch is recorded and acted on, and else the block's lines are verified (R169 to R173). -/
def verdictAct (s : State) (t acy : Nat) (b : OBlock) : State :=
  let s := updTile s t (fun x => updBlock x b.id (fun b => { b with verd := true }))
  let s := if checksBad b then
      let s := traise (chkRecord (tcount s t 0x25 1) t b) t 5 b.op
      mismatchAct (chargeTile s t) t acy b
    else
      updTile (tcount s t 0x24 1) t (fun x => { x with unver := freeLines x.unver b acy })
  updTile s t sweepBlocks

/-- CHECKSUM_VERDICT (R168 to R172). -/
def execChecksumVerdict (t : TileIx) (acy : Nat) (s : State) : Host.Outcome State Fault Refusal :=
  if !aclkOn s then skip s else
  let a := absAcy s t.toNat acy
  match verdictBlock (getTile s t.toNat) a with
  | none => skip s
  | some b => .next (verdictAct s t.toNat a b)

/-! Statistics, fallback, repeats. -/

/-- The larger of a stored magnitude and a new one; a stored NaN stays (R237). -/
def statMax (old new : Nat) : Nat :=
  match decodeF fFP32 old, decodeF fFP32 new with
  | .nan, _ => old
  | .inf n, .inf _ => if n then new else old
  | .inf n, _ => if n then new else old
  | _, .inf _ => new
  | a, b => if a.toRat < b.toRat then new else old

/-- The feed of a side whose statistics are written at an acycle: two after its last lane's last step (R235). -/
def statsFeed (x : Tile) (side acy : Nat) : Option FeedSt :=
  x.feeds.find? (fun f => f.side == side && f.lastAcy + 2 == acy && f.lastAcy != 0)

/-- A feed's statistics written, and the feed over (R235, R237, R238). -/
def statsAct (s : State) (t acy : Nat) (fd : FeedSt) : State :=
  let x := getTile s t
  let f := fcbAt s t fd.fcb
  let off := f.statOff + 4 * statBase (tdesc s t f.desc) f
  let old := (List.range f.klen).map (fun k => tsNat x (off + 4 * k) 4)
  let (a, o, before) := x.lastStat
  let new := (List.range f.klen).map (fun k =>
    let v := smGet (fun _ => 0) fd.amax k
    let stored := old.getD k 0
    let at_ := off + 4 * k
    if a = acy + 1 ∧ o ≤ at_ ∧ at_ < o + 4 * before.length then
      statMax (statMax (before.getD ((at_ - o) / 4) 0) stored) v
    else if f.stats = 1 then statMax stored v else v)
  let x := tsWrite x off (new.flatMap (leBytes 4))
  setTile s t { x with
    pend := endTag x.pend fd.tag acy
    readers := endTag x.readers fd.tag acy
    lastStat := (acy + 1, off, old)
    feeds := x.feeds.filter (fun g => !(g.tag == fd.tag)) }

/-- STATS_WRITE (R235, R237, R238). -/
def execStatsWrite (t : TileIx) (feeder : BitVec 1) (acy : Nat) (s : State) : Host.Outcome State Fault Refusal :=
  if !aclkOn s then skip s else
  let a := absAcy s t.toNat acy
  match statsFeed (getTile s t.toNat) feeder.toNat a with
  | none => skip s
  | some fd => .next (statsAct s t.toNat a fd)

/-- The lowest cause code that holds for an attempt (R262); 0 none. -/
def trigger (b : OBlock) (r : Prec) : Nat :=
  if b.rung = 2 then 0
  else if r.satLimit < b.ins.sat then 1
  else if r.zeroLimit < b.ins.zero then 2
  else if 0 < b.ins.zblk then 3
  else if 0 < b.ins.sblk then 4
  else if b.rung = 0 ∧ 0 < b.misses then 5
  else 0

/-- The block whose precision is decided at an acycle: two after its last feed (R262). -/
def decisionBlock (x : Tile) (acy : Nat) : Option OBlock :=
  x.blocks.find? (fun b => b.complete && b.feedsLeft == 0 && !b.decided && b.lastAcy + 2 == acy)

/-- A decision: a trigger queues a repeat at the next rung, or is reported when there is none (R262 to R265). -/
def decideAct (s : State) (t acy : Nat) (b : OBlock) : State :=
  let r := precAt s t b.prec
  let cause := trigger b r
  let up := decide (b.rung + 1 ≤ r.top)
  let s := updTile s t (fun x => updBlock x b.id (fun b => { b with decided := true, exhausted := cause != 0 && !up }))
  let s :=
    if cause = 0 then s
    else if up then
      let cost := if b.rung = 0 then r.costFp8 else r.costBf16
      let s := updTile s t (fun x => { x with replay := x.replay ++ [{ blk := b, rung := b.rung + 1, kind := 1, cost := cost, at_ := acy }] })
      precFirst (tcount s t 0x3E 1) t b.op cause b.rung
    else traise s t 10 b.op
  updTile (writeReport s t b.id) t sweepBlocks

/-- FALLBACK_DECISION (R262 to R265). -/
def execFallbackDecision (t : TileIx) (acy : Nat) (s : State) : Host.Outcome State Fault Refusal :=
  if !aclkOn s then skip s else
  let a := absAcy s t.toNat acy
  match decisionBlock (getTile s t.toNat) a with
  | none => skip s
  | some b => .next (decideAct s t.toNat a b)

/-- The acycle in which a queued repeat accumulates its first step: the window's first, the one after its predecessor's swap,
or, where the repeat was queued later, after a lead-in of 17 acycles (R274, R359; log 53). -/
def repeatStart (x : Tile) (q : Repeat) : Nat :=
  max (match x.epoch with | some w => w.1 | none => x.winFrom) (max x.repFree (q.at_ + 17))

/-- The acycle at which the window in which a tile runs its queue ends, as (open, end): an epoch, without end after the end
marks, or up to the segment's mark once the feeds and array entries before it have issued (R268, R269, R274, R396). -/
def windowEnd (s : State) (t : Nat) : Bool × Option Nat :=
  let x := getTile s t
  if x.streams.all (fun y => y.ended) then (true, none)
  else match x.epoch with
    | some w => (true, some w.2)
    | none => match front s t 0, front s t 1, front s t 2 with
      | some a, some b, some c => (eMark a && eMark b && eMark c, some (offAt x c))
      | _, _, _ => (false, none)

/-- The first queued repeat starts in its acycle when its cost fits in the acycles left in the window (R269). -/
def windowFits (s : State) (t : Nat) (q : Repeat) : Bool :=
  let w := windowEnd s t
  w.1 && (match w.2 with | some e => decide (repeatStart (getTile s t) q + q.cost ≤ e) | none => true)

/-- The passes of a repeat opened again at its rung, with their feeds, which read what the attempt before read with the codes
it used; `start`: the acycle in which the first pass accumulates its first step (R250, R263, R264, R338, R359). -/
def reopen (s : State) (t : Nat) (old : OBlock) (start : Nat) : List KPassSt → State
  | [] => s
  | p :: ps =>
    let x := getTile s t
    match blockById x old.id with
    | none => s
    | some b =>
      let (tr, x) := freshTag x
      let (tc, x) := freshTag x
      let mk := fun side fcb (src : FeedSrc) tag =>
        ({ side := side, op := b.op, occ := 0, fcb := fcb, shape := b.shape, rung := b.level, issue := 0, tag := tag,
           first := start - arrayFill b.shape, src := { src with kept := [] }, repeated := true } : FeedSt)
      let fr := mk 0 p.fcbR p.srcR tr
      let fc := mk 1 p.fcbC p.srcC tc
      let s := setTile s t { x with feeds := x.feeds ++ [fr, fc] }
      let n := mkPass s t fr fc p.cap x.nextStep (nextStep0 b) start p.excl
      let b := { b with bf16 := b.bf16 || pairBf16 s t fr fc }
      reopen (updTile s t (fun x => addPass x b n (fun f => f.tag == tr) (fun f => f.tag == tc))) t old
        (start + n.steps + (if n.cap = 0 then 0 else 1)) ps

/-- The block that a queued repeat runs as. -/
def repeatBlock (x : Tile) (q : Repeat) : OBlock :=
  { id := x.nextBlk, op := q.blk.op, num := q.blk.num, rung := q.rung,
    level := if q.kind = 1 then q.rung else q.blk.level, kind := q.kind, shape := q.blk.shape, arec := q.blk.arec,
    prec := q.blk.prec, slack := q.blk.slack, schedSwap := 0, bf16 := false, passes := [], complete := true, late := true,
    tag := x.moveTag, recomp := q.blk.recomp, prevIds := q.blk.id :: q.blk.prevIds, ord := q.blk.ord, zps := q.blk.zps,
    ocode := q.blk.ocode }

/-- The first queued repeat begins: its block runs, its feeds are open again, and its cost is counted (R264, R267, R359). -/
def repeatAct (s : State) (t : Nat) (q : Repeat) (rest : List Repeat) : State :=
  let x := getTile s t
  let b := repeatBlock x q
  let start := repeatStart x q
  let s' := setTile s t { x with nextBlk := x.nextBlk + 1, moveTag := x.moveTag + 1, replay := rest, running := some b.id,
                                 blocks := x.blocks ++ [b], repFree := start + q.cost }
  tcount (reopen s' t b start q.blk.passes) t 0x41 q.cost

/-- REPEAT_START (R264, R267, R269, R359): its lead-in of 17 acycles begins. -/
def execRepeatStart (t : TileIx) (acy : Nat) (s : State) : Host.Outcome State Fault Refusal :=
  let x := getTile s t.toNat
  match x.replay with
  | [] => skip s
  | q :: rest =>
    guarded (absAcy s t.toNat acy + 17 == repeatStart x q && !warmActive s && !s.oos && windowFits s t.toNat q) s
      (repeatAct s t.toNat q rest)

end Sys2Proof.Machine
end

