-- ==== Sys2Proof/Machine/Plan.lean ====
section
/-! DEFINITION. The accesses that an image's move streams plan (11 R343, R351, R356, R357): the entries of a stream in their
places, and the lines that its moves request, in order. -/

namespace Sys2Proof.Machine

/-- The first tick edge at or after a count that is a multiple of an alignment step (R333). -/
def alignUp (c step : Nat) : Nat := ceilDiv c step * step

/-- A schedule entry in its place: stream, segment, `OFFSET`, and its planned acycle counted from the launch. -/
structure PEnt where
  st : Nat
  seg : Nat
  off : Nat
  at_ : Nat
  e : BitVec 128

def PEnt.w (n : PEnt) : Nat := eWord n.e
def PEnt.code (n : PEnt) : Nat := eOpcode n.e
/-- The entry is an instruction, not a mark, of the stream. -/
def PEnt.isOf (n : PEnt) (st : Nat) : Bool := n.st == st && !eMark n.e
def PEnt.isMove (n : PEnt) (code : Nat) : Bool := n.isOf 4 && n.code == code

/-- The expected count of a check, less COMMIT (R412). -/
def planT (s : State) (p m j : Nat) : Nat := checkT s p m j % 2 ^ 63
/-- The ticks after `LAUNCH_AT` at which a segment is taken to begin (R360). -/
def planStart (s : State) (p m : Nat) (member : Bool) (j : Nat) : Nat :=
  if j = 0 then 0 else planT s p m (j - 1) + (if member then 2048 else 0)
/-- The acycle, counted from the launch, of a segment's acycle 0. -/
def planBase (s : State) (p m : Nat) (member : Bool) (j : Nat) : Nat :=
  acyclesOf m (alignUp (planStart s p m member j) (alignStep m))

def planStream (s : State) (p m : Nat) (member : Bool) (lt st : Nat) : List PEnt :=
  (numberSegs 0 ((List.range (streamDir s p m lt st).2).map (streamEntry s p m lt st))).map (fun q =>
    { st := st, seg := q.1, off := eOffset q.2, at_ := planBase s p m member q.1 + eOffset q.2, e := q.2 })

/-- A line access that an image plans: order key (segment, then acycle of the request), tick from the launch, tile, write, hint,
the line's address, and whether that address is known at load: the line of an indexed move is taken where it lies without the
index tensor (DESIGN CHOICE, log 53). -/
structure MAcc where
  key : Nat
  tick : Nat
  tile : Nat
  write : Bool
  hint : Nat
  addr : Nat
  known : Bool := true

/-- The fcycles that a count of ticks takes: both clocks divide the root by 8 (00 R8, 18 R603). -/
def fcyclesOf (ticks : Nat) : Nat := ticks * 8 / 8

/-- The place of line i of a move in the order of the requests. -/
def planKey (seg off i : Nat) : Nat := seg * 2 ^ 40 + off + i / 2

/-- The device address of the index stream of a sparse descriptor's line (R192). -/
def idxAddr (d : BitVec 1024) (line : Int) : Nat := ((dSparseBase d : Int) + line * idxBytes d).toNat

/-- The hint with which a line of a run's index streams is read: the word's, but a line that the next line of the run reads too is
dropped by that one (R443, R446; log 53). -/
def idxHint (d : BitVec 1024) (hint : Nat) (next : Option Int) (a : Nat) : Nat :=
  if hint = 3 ∧ next.any (fun k => (spanLines (idxAddr d k) (idxBytes d)).contains a) then 0 else hint

/-- The position of a line's entry along the indexed dimension (R193, R343). -/
def lineEntry (d : BitVec 1024) (l : Int) : Nat := (linePositions d (dIdxDim d) l).headD 0

/-- The address of the line that holds entry i of a descriptor's index tensor, and the place of its INT32 there (R193). -/
def entryAt (s : State) (p : Nat) (d : BitVec 1024) (i : Nat) : Nat × Nat :=
  let x := (getDesc s p (dIdxDesc d % 2 ^ 20)).getD 0
  let off := dOffset x [i]
  (descLineAddr x (Int.fdiv off 18), 4 * (Int.fmod off 18).toNat)

/-- The accesses of line i of a run: its index entry's, its own, and, where `stream` says so, its index stream's (R343, R443). -/
def lineAccs (s : State) (p : Nat) (d : BitVec 1024) (first : Int) (count : Nat) (stream : Bool) (acc : MAcc) (i : Nat) : List MAcc :=
  let l := first + i
  (if dIdxEn d then [{ acc with write := false, addr := (entryAt s p d (lineEntry d l)).1 }] else [])
  ++ [{ acc with addr := descLineAddr d l, known := !dIdxEn d }]
  ++ (spanLines (idxAddr d l) (if stream then idxBytes d else 0)).map (fun a =>
    { acc with addr := a, known := !dIdxEn d,
               hint := if acc.write then acc.hint else idxHint d acc.hint (if i + 1 < count then some (l + 1) else none) a })

/-- The lines a move entry requests, two an acycle in order (R343, R351). -/
def moveAccs (s : State) (p t m : Nat) (member : Bool) (n : PEnt) : List MAcc :=
  let r := mrecAt s t (wRec n.w)
  let d := tdesc s t r.desc
  if !(n.isMove 1 || n.isMove 2 || (n.isMove 3 && !r.srcTs)) then []
  else (List.range r.count).flatMap (fun i =>
    lineAccs s p d r.first r.count (!n.isMove 3)
      { key := planKey n.seg n.off i, tick := planStart s p m member n.seg + ticksOf m (n.off + i / 2), tile := t,
        write := n.isMove 2, hint := wHint n.w, addr := 0 } i)

/-- The line may be planned against the stack-cache bound at an order key (R357). -/
def cachePlanned (l : List MAcc) (addr key : Nat) : Bool :=
  l.any (fun k => k.known && k.addr == addr && k.hint == 2 && decide (k.key < key) &&
    !(l.any (fun d => d.known && !d.write && d.hint == 3 && d.addr == addr && decide (k.key ≤ d.key) && decide (d.key < key))))

/-- Every access that the moves of a partition's image plan in a mode. -/
def planAccs (s : State) (p m : Nat) (member : Bool) (tiles : Nat) : List MAcc :=
  (List.range tiles).flatMap (fun lt => (planStream s p m member lt 4).flatMap (moveAccs s p (firstTile s p + lt) m member))

end Sys2Proof.Machine
end

