-- ==== Sys2Proof/Machine/LinkCode.lean ====
section
/-! DEFINITION. The coding of the Brekeger links (15 R474, R475, R478): CRC-32, flits in a codeword message, RS(544, 514) over
GF(2^10), and the dealing of a codeword to the lanes (log 55). -/

namespace Sys2Proof.Machine

/-! CRC-32 (R478), least significant bit first. -/

/-- The register after one message bit. -/
def crc32Step (c : Nat) : Nat := if bit c 0 then (c / 2) ^^^ 0xEDB88320 else c / 2

/-- The register after one byte. -/
def crc32Byte (c : Nat) (b : Byte) : Nat := (List.range 8).foldl (fun c _ => crc32Step c) (c ^^^ b.toNat)

/-- The CRC-32 of a byte sequence. -/
def crc32 (l : List Byte) : Nat := (l.foldl crc32Byte 0xFFFFFFFF) ^^^ 0xFFFFFFFF

/-! Flits (R475): bit 0 is the type, bits 1 to 256 the body. -/

def controlFlit (body : BitVec 256) : BitVec 257 := BitVec.ofNat 257 (2 * body.toNat + 1)
def dataFlit (body : BitVec 256) : BitVec 257 := BitVec.ofNat 257 (2 * body.toNat)
def isControl (f : BitVec 257) : Bool := f.getLsbD 0
def flitBody (f : BitVec 257) : BitVec 256 := BitVec.ofNat 256 (f.toNat / 2)

/-! The field: x^10 + x^3 + 1. -/

/-- A field element times α. -/
def gxTwice (a : Nat) : Nat := if 512 ≤ a then (2 * a) ^^^ 0x409 else 2 * a

/-- The product of two field elements. -/
def gxMul (a b : Nat) : Nat :=
  if a = 0 ∨ b = 0 then 0
  else [9, 8, 7, 6, 5, 4, 3, 2, 1, 0].foldl (fun r i => if bit b i then gxTwice r ^^^ a else gxTwice r) 0

/-- αⁿ. -/
def gxPow : Nat → Nat
  | 0 => 1
  | n + 1 => gxTwice (gxPow n)

/-- The inverse of a non-zero element: its power 2^10 - 2. -/
def gxInv (a : Nat) : Nat :=
  let r := (List.range 9).foldl (fun r _ => gxMul (gxMul r r) a) 1
  gxMul r r

/-- The sum of products of two lists' elements. -/
def gxDot (a b : List Nat) : Nat := (List.zipWith gxMul a b).foldl (fun s v => s ^^^ v) 0

/-- A polynomial's value, highest coefficient first. -/
def gxEval (p : List Nat) (x : Nat) : Nat := p.foldl (fun r c => gxMul r x ^^^ c) 0

/-! The code: symbol s of a codeword is the coefficient of x^(543 - s); g(x) = (x - α⁰)(x - α¹)…(x - α²⁹). -/

/-- g(x), lowest coefficient first. -/
def linkGen : List Nat :=
  (List.range 30).foldl (fun g j =>
    List.zipWith (fun a b => a ^^^ b) (0 :: g) (g.map (gxMul (gxPow j)) ++ [0])) [1]

/-- One step of the division by g: the remainder, highest coefficient first, takes a message symbol. -/
def parityStep (g r : List Nat) (m : Nat) : List Nat :=
  let f := m ^^^ r.headD 0
  List.zipWith (fun a c => a ^^^ gxMul f c) (r.tail ++ [0]) g

/-- The codeword of a message of 514 symbols: the message, then the 30 parity symbols. -/
def linkEncode (msg : List Nat) : List Nat :=
  msg ++ msg.foldl (parityStep ((linkGen.take 30).reverse)) (List.replicate 30 0)

/-- The word's values at α⁰ to α²⁹. -/
def linkSyndromes (w : List Nat) : List Nat := (List.range 30).map (fun j => gxEval w (gxPow j))

/-- The search for the error locator: the locator so far, the one before its last lengthening with that discrepancy, the
number of errors, and the steps since. -/
structure Locator where
  cur : List Nat := [1]
  old : List Nat := [1]
  disc : Nat := 1
  errs : Nat := 0
  gap : Nat := 1

/-- Two polynomials added, lowest coefficient first. -/
def gxAdd : List Nat → List Nat → List Nat
  | [], b => b
  | a, [] => a
  | x :: a, y :: b => (x ^^^ y) :: gxAdd a b

/-- The locator takes syndrome n (Berlekamp and Massey). -/
def locatorStep (syn : List Nat) (l : Locator) (n : Nat) : Locator :=
  let d := gxDot l.cur ((syn.take (n + 1)).reverse)
  if d = 0 then { l with gap := l.gap + 1 }
  else
    let q := gxMul d (gxInv l.disc)
    let next := gxAdd l.cur (List.replicate l.gap 0 ++ l.old.map (gxMul q))
    if 2 * l.errs ≤ n then { cur := next, old := l.cur, disc := d, errs := n + 1 - l.errs, gap := 1 }
    else { l with cur := next, gap := l.gap + 1 }

/-- The positions whose locators are the roots' inverses, each with its inverse locator: x runs from α^-543 up. -/
def errorPlaces (loc : List Nat) : List (Nat × Nat) :=
  ((List.range 544).foldl (fun (st : Nat × List (Nat × Nat)) i =>
    (gxTwice st.1, if gxEval loc.reverse st.1 = 0 then (i, st.1) :: st.2 else st.2)) (gxPow 480, [])).2

/-- The error value at a place, from the locator and the evaluator (Forney; the first root of g is α⁰). -/
def errorValue (loc ev : List Nat) (x : Nat) : Nat :=
  let odd := (loc.zipIdx).map (fun e => if e.2 % 2 = 1 then e.1 else 0)
  gxMul (gxMul (gxInv x) (gxEval ev.reverse x)) (gxInv (gxEval odd.tail.reverse x))

/-- A received word of 544 symbols corrected in at most 15 symbols: how many were wrong, and the codeword; none where it is
uncorrectable. -/
def linkDecode (w : List Nat) : Option (Nat × List Nat) :=
  let syn := linkSyndromes w
  if syn.all (fun v => v == 0) then some (0, w)
  else
    let l := (List.range 30).foldl (locatorStep syn) {}
    let places := errorPlaces l.cur
    if 15 < l.errs ∨ places.length ≠ l.errs then none
    else
      let ev := (List.range 30).map (fun n => gxDot l.cur ((syn.take (n + 1)).reverse))
      some (l.errs, places.foldl (fun w p => w.set p.1 (w.getD p.1 0 ^^^ errorValue l.cur ev p.2)) w)

/-! Messages and lanes (R474, R475): a message's bits in order, ten to a symbol and the first the lowest; symbol s goes to lane
s mod 8. -/

/-- The number that values of a width spell, the first lowest. -/
def packNats (w : Nat) : List Nat → Nat
  | [] => 0
  | v :: l => v % 2 ^ w + 2 ^ w * packNats w l

/-- A number cut into n values of a width, the lowest first. -/
def cutNat (w n v : Nat) : List Nat := (List.range n).map (fun i => v / 2 ^ (w * i) % 2 ^ w)

/-- The 514 message symbols of 20 flits. -/
def messageOf (flits : List (BitVec 257)) : List Nat := cutNat 10 514 (packNats 257 (flits.map (fun f => f.toNat)))

/-- The 20 flits of a message. -/
def flitsOfMessage (msg : List Nat) : List (BitVec 257) := (cutNat 257 20 (packNats 10 msg)).map (BitVec.ofNat 257)

/-- What the 8 lanes carry of a codeword, 68 symbols each. -/
def dealLanes (w : List Nat) : List (BitVec 680) :=
  (List.range 8).map (fun k => BitVec.ofNat 680 (packNats 10 ((List.range 68).map (fun i => w.getD (8 * i + k) 0))))

/-- The codeword that 8 aligned lanes carry. -/
def gatherLanes (lanes : List (BitVec 680)) : List Nat :=
  (List.range 544).map (fun s => (lanes.getD (s % 8) 0).toNat / 2 ^ (10 * (s / 8)) % 1024)

/-- The lanes that carry 20 flits. -/
def lanesOfFlits (flits : List (BitVec 257)) : List (BitVec 680) := dealLanes (linkEncode (messageOf flits))

/-- The flits that a codeword's lanes are decoded to, with the symbols corrected; none where it is uncorrectable. -/
def flitsOfLanes (lanes : List (BitVec 680)) : Option (Nat × List (BitVec 257)) :=
  (linkDecode (gatherLanes lanes)).map (fun r => (r.1, flitsOfMessage (r.2.take 514)))

end Sys2Proof.Machine
end

