-- ==== Sys2Proof/Machine/Links.lean ====
section
/-! DEFINITION. The Brekeger links (15 R472 to R505, R535): flits and their fields, sending and acknowledging, retry,
training and spare lanes, routing, and the time exchange. -/

namespace Sys2Proof.Machine

/-! State and registers of a link. -/

def lkPage (n : Nat) : Nat := 0x50 + n
def lk (s : State) (n : Nat) : LinkSt := smGet (fun _ => {}) s.links n
def setLk (s : State) (n : Nat) (l : LinkSt) : State := { s with links := smSet (fun _ => {}) s.links n l }
/-- `LINK_STATUS.STATE`: 0 down, 1 training, 2 up, 3 mismatch. -/
def lkState (s : State) (n : Nat) : Nat := rgF s (lkPage n) 0x44 1 0
def setLkState (s : State) (n v : Nat) : State := setRgF s (lkPage n) 0x44 1 0 v
def lkUp (s : State) (n : Nat) : Bool := lkState s n == 2 && aclkOn s
/-- The device's number and the output link of a destination (R496). -/
def devNum (s : State) : Nat := rgF s 0x060 0x040 11 0
def routeOf (s : State) (d : Nat) : Option Nat :=
  let e := bits (rg s (0x060 + d / 256) (0x100 + 4 * (d % 256 / 4))).toNat (8 * (d % 4) + 7) (8 * (d % 4))
  if bit e 7 then some (e % 16) else none

/-! Flits (R475 to R479, R492, R502, R523). -/

/-- n bytes of a control flit from byte i. -/
def fB (f : BitVec 256) (i n : Nat) : Nat := f.toNat / 2 ^ (8 * i) % 2 ^ (8 * n)
def fKind (f : BitVec 256) : Nat := fB f 0 1 % 16
def fSeq (f : BitVec 256) : Nat := fB f 2 2
def fAck (f : BitVec 256) : Option Nat := if bit (fB f 4 2) 15 then some (fB f 4 2 % 4096) else none
def fCredit (f : BitVec 256) : Nat := fB f 6 2
def fBody (f : BitVec 256) : BitVec 160 := BitVec.ofNat 160 (fB f 8 20)

/-- n bytes of a packet's body, bytes numbered as in the flit. -/
def bB (b : BitVec 160) (i n : Nat) : Nat := b.toNat / 2 ^ (8 * (i - 8)) % 2 ^ (8 * n)

/-- A body from its bytes 8 to 27. -/
def bodyOf (l : List Byte) : BitVec 160 := BitVec.ofNat 160 (leNat l)

/-- The DATA body of R479. -/
def dataBody (dest src len op tgt loc deadline route : Nat) : BitVec 160 :=
  bodyOf (leBytes 2 dest ++ leBytes 2 src ++ leBytes 1 len ++ leBytes 1 op ++ leBytes 3 tgt ++ leBytes 6 loc
    ++ leBytes 3 deadline ++ leBytes 1 route ++ leBytes 1 0)

/-- The SYNC body of R523. -/
def syncBody (msg hops code dest src obj value aux : Nat) : BitVec 160 :=
  bodyOf (leBytes 1 (msg + 16 * hops) ++ leBytes 1 code ++ leBytes 2 dest ++ leBytes 2 src ++ leBytes 2 obj ++ leBytes 8 value
    ++ leBytes 4 aux)

/-- A control flit breaks R476, R477, R479, R492, R502 or R523: a reserved kind, a reserved field that is not zero, or a
DATA `LEN` outside 1 to 36. -/
def badFlit (f : BitVec 256) : Bool :=
  let k := fKind f
  let common := fB f 0 1 ≥ 16 || k ≥ 6 || fB f 1 1 != 0 || fB f 2 2 ≥ 4096 || (k != 1 && k != 3 && fB f 2 2 != 0)
    || bits (fB f 4 2) 14 12 != 0 || fB f 6 2 ≥ 4096
  let tgt := fB f 14 3
  let kindBad := match k with
    | 1 => fB f 8 2 ≥ 4096 || fB f 10 2 ≥ 4096 || fB f 12 1 == 0 || fB f 12 1 > 36 || fB f 13 1 ≥ 64
        || tgt ≥ (if bit (fB f 13 1) 0 then 128 else 2 ^ 20) || bits (fB f 26 1) 3 2 != 0 || fB f 27 1 != 0
    | 3 =>
      let m := fB f 8 1 % 16
      m > 4 || fB f 10 2 ≥ 4096 || fB f 12 2 ≥ 4096 || ((m == 1 || m == 4) && fB f 9 1 != 0)
        || ((m == 2 || m == 3) && (fB f 14 2 != 0 || fB f 24 4 ≥ 65536)) || (m == 4 && fB f 24 4 ≥ 4)
        || ((m == 0 || m == 1) && fB f 24 4 != 0)
    | 4 => bits (fB f 26 1) 6 4 != 0
    | 5 => fB f 18 1 ≥ 4 || bits (fB f 19 1) 6 4 != 0 || fB f 24 4 != 0
    | _ => false
  common || kindBad

/-- Data flits of a payload (R480). -/
def flitsOf (l : List Byte) : Nat := ceilDiv l.length 32

/-! Sending (R476, R478, R486, R487, R489). -/

/-- The bytes of data-flit bodies in order. -/
def bodyBytes (l : List (BitVec 256)) : List Byte := l.flatMap (fun d => leBytes 32 d.toNat)

/-- The CRC of a control flit whose bytes 0 to 27 are given, after data flits (R478). -/
def flitCrc (before : List (BitVec 256)) (head : List Byte) : Nat := crc32 (bodyBytes before ++ head)

/-- The control flit that a link sends: the last number it accepted as ACK and the flits freed as CREDIT (R476, R478). -/
def controlBody (l : LinkSt) (kind seq : Nat) (body : BitVec 160) : BitVec 256 :=
  let ack := if l.rxAny then 2 ^ 15 + (l.rxNext + 4095) % 4096 else 0
  let head := leBytes 1 kind ++ leBytes 1 0 ++ leBytes 2 seq ++ leBytes 2 ack ++ leBytes 2 l.freed ++ leBytes 20 body.toNat
  BitVec.ofNat 256 (leNat (head ++ leBytes 4 (flitCrc l.txData head)))

/-- A control flit goes out: nothing is freed or due any more, and the next CRC starts with no data flit before it. -/
def emit (s : State) (n kind seq : Nat) (body : BitVec 160) : State :=
  let l := lk s n
  count1 (setLk s n { l with sent := l.sent ++ [controlFlit (controlBody l kind seq body)], txData := [], freed := 0,
                             ackDue := false }) (lkPage n) 0

/-- The data flits of a packet go out behind its header, the last filled with 00h (R480). -/
def emitData (s : State) (n : Nat) (payload : List Byte) : State :=
  let l := lk s n
  let ds := (List.range (flitsOf payload)).map (fun i => BitVec.ofNat 256 (leNat (slice payload (32 * i) 32)))
  countBy (setLk s n { l with sent := l.sent ++ ds.map dataFlit, txData := l.txData ++ ds }) (lkPage n) 0 ds.length

/-- The flits of a packet under a sequence number. -/
def emitPacket (s : State) (n seq : Nat) (p : TxPkt) : State :=
  let s := emit s n (if p.data then 1 else 3) seq p.body
  if p.data then emitData s n p.payload else s

/-- An IDLE flit goes out when data flits await their CRC, or an acknowledgement or credits are due: nothing else is due then
(R476, R478, R489). IDLE flits that would carry nothing new are not shown (DESIGN CHOICE, log 55). -/
def flush (s : State) (n : Nat) : State :=
  let l := lk s n
  if lkUp s n && (!l.txData.isEmpty || l.ackDue || decide (0 < l.freed)) then emit s n 0 0 0 else s

def flushAll (s : State) : State := (List.range 16).foldl flush s

/-- A packet goes out with the next sequence number and waits for its acknowledgement. -/
def transmit (s : State) (n : Nat) (p : TxPkt) : State :=
  let l := lk s n
  let k := if p.data then flitsOf p.payload else 0
  let s := setLk s n { l with txSeq := (l.txSeq + 1) % 4096, unacked := l.unacked ++ [(l.txSeq, p)], credits := l.credits - k }
  let s := match p.src with
    | some m => setLk s m { lk s m with freed := (lk s m).freed + k }
    | none => s
  emitPacket (count1 s (lkPage n) 2) n l.txSeq p

/-- SYNC messages go out as long as fewer than 2,048 packets are unacknowledged (R487, R489). -/
def drainSync (s : State) (n : Nat) : List TxPkt → State
  | [] => s
  | p :: ps =>
    if 2048 ≤ (lk s n).unacked.length then setLk s n { lk s n with syncQ := p :: ps }
    else drainSync (transmit s n p) n ps

/-- The receive-buffer flits a discarded packet held are freed (R486). -/
def freeHeld (s : State) (p : TxPkt) : State :=
  match p.src with
  | some m => setLk s m { lk s m with freed := (lk s m).freed + flitsOf p.payload }
  | none => s

/-- A packet is handed to a link for sending; a link that is not up discards it (R495). -/
def enqueue (s : State) (n : Nat) (p : TxPkt) : State :=
  if !lkUp s n then count1 (freeHeld s p) (lkPage n) 0xA
  else if p.data then setLk s n { lk s n with dataQ := (lk s n).dataQ ++ [p] }
  else
    let q := (lk s n).syncQ ++ [p]
    drainSync (setLk s n { lk s n with syncQ := [] }) n q

/-- A packet this device originates goes to the link of its destination's route; without a valid entry it goes nowhere. -/
def originate (s : State) (dest : Nat) (p : TxPkt) : State :=
  match routeOf s dest with
  | some n => enqueue s n p
  | none => s

/-- A link goes down (R495, R585): its queued and held packets are discarded and counted. -/
def linkDown (s : State) (n : Nat) : State :=
  let l := lk s n
  let ps := l.unacked.map (·.2) ++ l.syncQ ++ l.dataQ
  let s := (l.syncQ ++ l.dataQ).foldl freeHeld s
  let s := setReady (setLkState (setLk s n {}) n 0) (lkPage n) false
  let s := countBy s (lkPage n) 0xA ps.length
  raiseOpen s (lkPage n) 1

/-! Receiving (R486 to R488). -/

/-- Everything up to an acknowledged sequence number leaves the unacknowledged packets; progress ends a run of RETRYs. -/
def ackTo (s : State) (n a : Nat) : State :=
  let l := lk s n
  let i := l.unacked.findIdx (fun e => e.1 == a)
  if i < l.unacked.length then
    let q := l.syncQ
    drainSync (setLk s n { l with unacked := l.unacked.drop (i + 1), retryAck := none, retryRun := 0, syncQ := [] }) n q
  else s

/-- The receiver discards every flit since the last verified control flit and sends RETRY; eight in a row without progress take
the link down (R488, R540). -/
def sendRetry (s : State) (n : Nat) : State :=
  let l := lk s n
  let s := setLk s n { l with rxWait := true, rxRetries := l.rxRetries + 1, rxData := [] }
  let s := raiseOpen (count1 (emit s n 2 0 0) (lkPage n) 7) (lkPage n) 4
  if 8 ≤ l.rxRetries + 1 then linkDown s n else s

/-- The CRC of a received control flit holds (R478). -/
def crcGood (l : LinkSt) (f : BitVec 256) : Bool := flitCrc l.rxData (leBytes 28 f.toNat) == fB f 28 4

/-- A control flit is verified (R477, R478). -/
def flitGood (l : LinkSt) (f : BitVec 256) : Bool := crcGood l f && !badFlit f

/-- A control flit that fails its CRC counts and makes the receiver send RETRY; so does one that breaks the layout, which raises
PROTOCOL_BAD (R477, R488). A link in training has nothing to resend (DEDUCED, log 55). -/
def badCtl (s : State) (n : Nat) (f : BitVec 256) : State :=
  let s := count1 (if crcGood (lk s n) f then raiseOpen s (lkPage n) 7 else s) (lkPage n) 6
  if lkUp s n then sendRetry s n else setLk s n { lk s n with rxData := [] }

/-- A good control flit has arrived: its CREDIT and ACK are delivered. -/
def goodCtl (s : State) (n : Nat) (f : BitVec 256) : State :=
  let l := lk s n
  let s := setLk s n { l with credits := min 2048 (l.credits + fCredit f), rxData := [] }
  match fAck f with | some a => ackTo s n a | none => s

/-- A control flit arrives. -/
def recvCtl (s : State) (n : Nat) (f : BitVec 256) (act : State → State) : State :=
  let s := count1 s (lkPage n) 1
  if flitGood (lk s n) f then act (goodCtl s n f) else badCtl s n f

/-- Data flits arrive; the next control flit verifies them. -/
def recvData (s : State) (n : Nat) (ds : List (BitVec 256)) : State :=
  countBy (setLk s n { lk s n with rxData := (lk s n).rxData ++ ds }) (lkPage n) 1 ds.length

/-- The next sequenced packet in order has been accepted. -/
def accepted (s : State) (n : Nat) : State :=
  let l := lk s n
  count1 (setLk s n { l with rxNext := (l.rxNext + 1) % 4096, rxAny := true, rxWait := false, rxRetries := 0 }) (lkPage n) 3

/-- A verified sequenced packet is accepted only when its number is next in order (R487); an acknowledgement is due in any case. -/
def accept (s : State) (n : Nat) (f : BitVec 256) (act : State → State) : State :=
  let s := setLk s n { lk s n with ackDue := true }
  if fSeq f ≠ (lk s n).rxNext then s else act (accepted s n)

/-- The receive buffer's flits of a packet are freed. -/
def freeFlits (s : State) (n k : Nat) : State := setLk s n { lk s n with freed := (lk s n).freed + k }

/-- A packet for another device goes on along its route with one hop less, or is discarded (R497). -/
def forward (s : State) (n dest hops : Nat) (p : TxPkt) : State :=
  match hops, routeOf s dest with
  | 0, _ => freeFlits (count1 (raiseOpen s (lkPage n) 5) (lkPage n) 0xA) n (flitsOf p.payload)
  | _, none => freeFlits (count1 (raiseOpen s (lkPage n) 5) (lkPage n) 0xA) n (flitsOf p.payload)
  | _, some m => enqueue (count1 s (lkPage n) 0xB) m p

/-! Lines as a descriptor writes and reads them. -/

/-- A narrow line with the padding that a descriptor's last line of a row has (06 R191); `k`: the line before index
substitution. -/
def paddedLine (d : BitVec 1024) (k : Int) (l : List Byte) : List Byte :=
  match Fmt.ofCode (dFormat d) with
  | none => l
  | some f =>
    if dSize d (dKdim d) % f.perLine = 0 then l
    else match linePositions d (dKdim d) k with
      | [] => l
      | k0 :: _ => padLine f k0 (dSize d (dKdim d)) l

/-- A line written through a descriptor as line `ix`, line `k` before index substitution (R92, R95, R96, R186; 06 R191): a narrow
line's padding is written, its tag takes ROTATED and its check value follows the mode. -/
def stampLine (s : State) (d : BitVec 1024) (desc : Nat) (k ix : Int) (l : List Byte) : List Byte :=
  if !dNarrow d then slice l 0 72
  else
    let l := paddedLine d k l
    let t := lineTag l % 1024
    let t := if dRotated d then t - 64 * bits t 6 6 + 64 else t - 64 * bits t 6 6
    mkLine (slice l 0 64) (slice l 64 4) t (overcast s) desc (toBits 48 ix)

/-- A narrow line's check value is verified in Overcast mode: none unchecked, else whether it holds (R97, R98). -/
def lineChecks (s : State) (d : BitVec 1024) (desc : Nat) (ix : Int) (l : List Byte) : Option Bool :=
  if !dNarrow d || !overcast s then some true
  else if !bit (lineTag l) 9 then none
  else some (leAt l 70 2 == checkValue l desc (toBits 48 ix))

/-- A tile's check of a narrow line it read from memory (R97, R98, R647). -/
def tileLineCheck (s : State) (t : Nat) (d : BitVec 1024) (desc : Nat) (ix : Int) (l : List Byte) : State :=
  match lineChecks s d desc ix l with
  | some true => s
  | some false => traise s t 4 desc
  | none => tcount s t 0x63 1

/-- One element added into another as a one-term step, the result converted once, with the events of both (R485, R209, R122,
R130, R132). -/
def accumElem (f : Fmt) (old new : Nat) : Nat × AEv :=
  let r := cellStep (encodeW40 (f.decode old)) [(f.decode new, .fin false 1)]
  let c := convTo f .rne (decodeW40 r.1)
  (c.code, r.2.or { overflow := c.overflow })

/-- A line accumulated into another, with the events of its elements (R485). -/
def accumLine (f : Fmt) (old new : List Byte) : List Byte × List AEv :=
  let es := (List.range f.perLine).map (fun i => accumElem f (lineElem f old i) (lineElem f new i))
  (es.flatMap (fun e => leBytes (f.width / 8) e.1), es.map (fun e => e.2))

/-! DATA packets (R479 to R485). -/

/-- The lines of a packet of `len` data flits: the L with ⌈9L/4⌉ = len. -/
def packetLines (len : Nat) : Nat := 4 * len / 9

/-- The receiver writes one line of a packet to its target, or accumulates it; the events of a sum arise on the target tile's page,
for a memory target on a tile's that the spec does not name (log 15). -/
def deliverLine (s : State) (b : BitVec 160) (p t : Nat) (d : BitVec 1024) (i : Nat) (l : List Byte) : State :=
  let op := bB b 13 1
  let events := fun (s : State) (t : Nat) (es : List AEv) => es.foldl (fun s e => looseEvent s t e) s
  if bit op 0 then
    let off := bB b 17 6 % 2 ^ 21 + 72 * i
    if bit op 1 then
      let r := accumLine (if Config.accumFp32 t off then .fp32 else .bf16) (tsBytes (getTile s t) off 72) l
      events (updTile s t (fun x => tsWrite x off r.1)) t r.2
    else updTile s t (fun x => tsWrite x off l)
  else
    let ix := signExt 48 (bB b 17 6) + i
    let a := descLineAddr d ix
    if bit op 1 then
      let (old, s) := devRead s a 0 p []
      let r := accumLine ((Fmt.ofCode (dFormat d)).getD .fp32) old l
      let s := devWrite s a (stampLine s d (bB b 14 3) ix ix r.1) (bits op 5 4) p
      if r.2.any AEv.any then let (t, s) := anyTile s p; events s t r.2 else s
    else devWrite s a (stampLine s d (bB b 14 3) ix ix l) (bits op 5 4) p

/-- A packet's target accepts it (R483). -/
def targetOk (s : State) (b : BitVec 160) (p lines : Nat) : Bool :=
  let tgt := bB b 14 3
  decide (p < nParts s) && !warmActive s &&
  (if bit (bB b 13 1) 0 then decide (tgt < tilesPer s ∧ bB b 17 6 % 2 ^ 21 + 72 * lines ≤ tsSize)
   else match getDesc s p tgt with
     | none => false
     | some d =>
       let ix := signExt 48 (bB b 17 6)
       dIsWrite d && decide (dMinLine d ≤ ix ∧ ix + lines ≤ dMaxLine d + 1))

/-- The count a DEADLINE names has passed (R484). -/
def deadlinePassed (s : State) (dl : Nat) : Bool :=
  let diff := (now s + 2 ^ 24 - dl) % 2 ^ 24
  decide (0 < diff ∧ diff ≤ 2 ^ 23)

/-- A packet for this device is written or accumulated, or discarded, and its lateness counted (R483 to R485, R534). -/
def consume (s : State) (n : Nat) (b : BitVec 160) (payload : List Byte) : State :=
  let p := bB b 26 1 % 4
  let op := bB b 13 1
  let tgt := bB b 14 3
  let k := packetLines (bB b 12 1)
  let s := freeFlits s n (bB b 12 1)
  if !targetOk s b p k then raiseOpen s (lkPage n) 6
  else
    let t := firstTile s p + (if bit op 0 then tgt else 0)
    let d := (getDesc s p tgt).getD 0
    let s := (List.range k).foldl (fun s i => deliverLine s b p t d i (slice payload (72 * i) 72)) s
    let key := bB b 10 2 * 2 ^ 24 + p * 2 ^ 22 + (op % 2) * 2 ^ 21 + tgt
    let late := deadlinePassed s (bB b 23 3)
    let s := if late then tcount s t 0x5A k else s
    let l := lk s n
    let was := late || l.late.contains key
    if !bit op 3 then setLk s n { l with late := if was && !l.late.contains key then key :: l.late else l.late }
    else
      let s := setLk s n { l with late := l.late.filter (· ≠ key) }
      let s := if was then tdcAdd s p 2 (t - firstTile s p) 0 else s
      if bit op 2 then tdcAdd s p 5 0x7F 0 else s

/-- DATA_PACKET_SEND (R486, R487, R489): the next queued DATA packet goes out once credits cover it and no SYNC waits. -/
def execDataPacketSend (n : LinkIx) (s : State) : Host.Outcome State Fault Refusal :=
  let l := lk s n.toNat
  match l.dataQ with
  | [] => skip s
  | p :: ps =>
    guarded (lkUp s n.toNat && l.syncQ.isEmpty && decide (flitsOf p.payload ≤ l.credits ∧ l.unacked.length < 2048)) s
      (flushAll (transmit (setLk s n.toNat { l with dataQ := ps }) n.toNat p))

/-- A verified DATA packet is for this device, or goes on along its route (R483, R497). -/
def takePacket (s : State) (n : Nat) (b : BitVec 160) (data : List (BitVec 256)) : State :=
  let payload := slice (bodyBytes data) 0 (72 * packetLines (bB b 12 1))
  if bB b 8 2 = devNum s then consume s n b payload
  else forward s n (bB b 8 2) (bits (bB b 26 1) 7 4)
    { data := true, body := BitVec.ofNat 160 (b.toNat - 16 * 2 ^ (8 * 18)), payload := payload, src := some n }

/-- DATA_PACKET_RECEIVE (R477, R478, R483, R487, R497): a DATA header with its data flits' bodies, and `next`, the control flit
that follows and verifies them; a good one then takes effect by its own command (log 55). -/
def execDataPacketReceive (n : LinkIx) (flit : BitVec 256) (data : List (BitVec 256)) (next : BitVec 256) (s : State) :
    Host.Outcome State Fault Refusal :=
  let n := n.toNat
  guarded (lkUp s n && (!flitGood (lk s n) flit || (fKind flit == 1 && data.length == fB flit 12 1))) s
    (flushAll (recvCtl s n flit (fun s =>
      let s := recvData s n data
      if flitGood (lk s n) next then accept s n flit (fun s => takePacket s n (fBody flit) data)
      else badCtl (count1 s (lkPage n) 1) n next)))

/-- IDLE_FLIT (R476, R478): the flit's first 28 bytes and its CRC. -/
def execIdleFlit (n : LinkIx) (body : BitVec 224) (crc : BitVec 32) (s : State) : Host.Outcome State Fault Refusal :=
  let n := n.toNat
  let flit : BitVec 256 := crc ++ body
  guarded (lkUp s n && (fKind flit == 0 || !flitGood (lk s n) flit)) s (flushAll (recvCtl s n flit id))

/-- RETRYs in a row for one acknowledgement, this one among them. -/
def retryRuns (s : State) (n : Nat) (f : BitVec 256) : Nat :=
  if (lk s n).retryAck = some ((fAck f).getD 4096) then (lk s n).retryRun + 1 else 1

/-- Every unacknowledged packet goes out again, under its number. -/
def resend (s : State) (n : Nat) (f : BitVec 256) : State :=
  let l := lk s n
  let s := setLk s n { l with retryAck := some ((fAck f).getD 4096), retryRun := retryRuns s n f }
  countBy (l.unacked.foldl (fun s e => emitPacket s n e.1 e.2) s) (lkPage n) 8 l.unacked.length

/-- RETRY (R488): every unacknowledged packet from ACK + 1 goes out again, or the link goes down. -/
def execRetry (n : LinkIx) (flit : BitVec 256) (s : State) : Host.Outcome State Fault Refusal :=
  let n := n.toNat
  guarded (lkUp s n && (fKind flit == 2 || !flitGood (lk s n) flit)) s
    (flushAll (recvCtl s n flit (fun s => if 8 ≤ retryRuns s n flit then linkDown s n else resend s n flit)))

/-- What a codeword received with errors does: one corrected counts, and its flits arrive by their own commands; an
uncorrectable one takes the flits since the last verified control flit with it (R474, R488). -/
def codewordAct (s : State) (n : Nat) (lanes : List (BitVec 680)) : State :=
  match flitsOfLanes lanes with
  | some (0, _) => s
  | some _ => count1 s (lkPage n) 4
  | none =>
    let s := count1 s (lkPage n) 5
    if lkUp s n then sendRetry s n else setLk s n { lk s n with rxData := [] }

/-- LINK_CODEWORD_BAD (R474, R475, R488): the symbols that the 8 lanes, after a lane's move to the spare, carried of one
codeword; the receiver keeps codeword alignment through the decoder's lock. -/
def execLinkCodewordBad (n : LinkIx) (lanes : List (BitVec 680)) (s : State) : Host.Outcome State Fault Refusal :=
  let n := n.toNat
  guarded (lkUp s n || (lk s n).locked) s (codewordAct s n lanes)

/-! Training and lanes (R491 to R495). -/

/-- The body of the device's own TRAIN flit (R492, R494). -/
def trainBody (s : State) (n : Nat) : BitVec 160 :=
  let l := lk s n
  let req := match l.rxMove with | some m => (128 + m.1, m.2) | none => (0, 0)
  bodyOf (leBytes 2 (devNum s + 4096 * n) ++ leBytes 8 s.flash.id.toNat
    ++ leBytes 1 (rgF s (lkPage n) 0x48 31 31 + 2 * l.ownMatch.toNat) ++ leBytes 1 req.1 ++ leBytes 4 req.2 ++ leBytes 4 0)

/-- A TRAIN flit goes out (R493). -/
def sendTrain (s : State) (n : Nat) : State := emit s n 5 0 (trainBody s n)

/-- LINK_TRAIN (R493, R535). -/
def execLinkTrain (n : LinkIx) (arg : Arg) (s : State) : Host.Outcome State Fault Refusal :=
  let n := n.toNat
  .next (command s (lkPage n) 0x60 arg true id (fun s =>
    if arg ≠ 0 then postResult s (lkPage n) rUNSUP 0x60
    else if lkUp s n then postResult s (lkPage n) rOK 0x60
    else postRunning (sendTrain (setLkState (setLk s n {}) n 1) n) (lkPage n) 0x60))

/-- LINK_DISABLE (R495, R535). -/
def execLinkDisable (n : LinkIx) (arg : Arg) (s : State) : Host.Outcome State Fault Refusal :=
  let n := n.toNat
  .next (command s (lkPage n) 0x61 arg true id (fun s =>
    if arg ≠ 0 then postResult s (lkPage n) rUNSUP 0x61
    else postResult (if lkState s n = 0 then s else linkDown s n) (lkPage n) rOK 0x61))

/-- The far end's identity of a TRAIN flit matches the declaration (R491, R492). -/
def trainMatches (s : State) (n : Nat) (f : BitVec 256) : Bool :=
  let d := rg s (lkPage n) 0x48
  fld d 31 31 == 1 && fB f 8 2 == fld d 11 0 + 4096 * fld d 19 16 && fB f 10 8 == rg64 s (lkPage n) 0x4C

/-- A running command on a link page ends. -/
def endTrain (s : State) (n code : Nat) : State :=
  if cmdRuns s (lkPage n) 0x60 then postDone s (lkPage n) code 0x60 else s

/-- The identity that a TRAIN flit gives of the far end is shown, and its MATCH noted. -/
def trainSeen (s : State) (n : Nat) (f : BitVec 256) : State :=
  let p := lkPage n
  let s := setLk s n { lk s n with farMatch := bit (fB f 18 1) 1 }
  setRg64 (setRg s p 0x60 (BitVec.ofNat 32 (fB f 8 2 % 4096 + 65536 * (fB f 8 2 / 4096) + 2 ^ 31))) p 0x64 (fB f 10 8)

/-- The far end's request to move a lane onto the spare (R494). -/
def spareAsked (s : State) (n : Nat) (f : BitVec 256) : State :=
  let req := fB f 19 1
  let l := lk s n
  if bit req 7 && rgF s (lkPage n) 0x44 3 3 == 0 && l.txMove.isNone then setLk s n { l with txMove := some (req % 16, fB f 20 4) } else s

/-- What a good TRAIN flit does to a link that is not up (R493): the device compares it with its declaration and answers with its
own; the link comes up when both ends send MATCH. -/
def trainAct (s : State) (n : Nat) (f : BitVec 256) : State :=
  let p := lkPage n
  let st := lkState s n
  let s := trainSeen s n f
  if rgF s p 0x48 31 31 = 0 ∨ st = 3 then sendTrain s n
  else if !trainMatches s n f then sendTrain (raiseOpen (endTrain (setLkState (setLk s n { lk s n with ownMatch := false }) n 3) n rNEIGH) p 2) n
  else
    let s := sendTrain (setLk s n { lk s n with ownMatch := true }) n
    if (lk s n).farMatch then raiseOpen (endTrain (setReady (setLkState s n 2) p true) n rOK) p 0 else s

/-- TRAIN_FLIT (R478, R493, R494): on a link that is up it may ask for the spare, and brings ACK and CREDIT as every control flit
does. The receiver has codeword lock from the first. -/
def execTrainFlit (n : LinkIx) (flit : BitVec 256) (s : State) : Host.Outcome State Fault Refusal :=
  let n := n.toNat
  let s0 := setLk s n { lk s n with locked := true }
  guarded (lkState s n != 0 && aclkOn s && (fKind flit == 5 || !flitGood (lk s n) flit)) s
    (flushAll (recvCtl s0 n flit (fun s => if lkState s n = 2 then spareAsked s n flit else trainAct s n flit)))

/-- LINK_TRAIN_TIMEOUT (R493). -/
def execLinkTrainTimeout (n : LinkIx) (s : State) : Host.Outcome State Fault Refusal :=
  guarded (lkState s n.toNat == 1 && cmdRuns s (lkPage n.toNat) 0x60) s (endTrain s n.toNat rNOTREADY)

/-- LANE_DEGRADED (R494): the receiver asks for the spare from 256 codewords after the count `cw`. -/
def execLaneDegraded (n : LinkIx) (lane : BitVec 3) (cw : Word) (s : State) : Host.Outcome State Fault Refusal :=
  let n := n.toNat
  let l := lk s n
  guarded (lkUp s n && rgF s (lkPage n) 0x44 2 2 == 0 && l.rxMove.isNone) s
    (raiseOpen (count1 (sendTrain (setLk s n { l with rxMove := some (lane.toNat, (cw + 256).toNat) }) n) (lkPage n) 9) (lkPage n) 3)

/-- LANE_SWITCH (R494): at codeword `cw` the moves due there take effect. -/
def execLaneSwitch (n : LinkIx) (cw : Word) (s : State) : Host.Outcome State Fault Refusal :=
  let n := n.toNat
  let l := lk s n
  let due := fun (m : Option (Nat × Nat)) => match m with | some m => m.2 == cw.toNat | none => false
  let s := if due l.rxMove then setRgF (setRgF s (lkPage n) 0x44 2 2 1) (lkPage n) 0x44 7 4 ((l.rxMove.getD (0, 0)).1) else s
  let s := if due l.txMove then setRgF (setRgF s (lkPage n) 0x44 3 3 1) (lkPage n) 0x44 11 8 ((l.txMove.getD (0, 0)).1) else s
  .next (setLk s n { l with rxMove := if due l.rxMove then none else l.rxMove, txMove := if due l.txMove then none else l.txMove })

/-- LINK_SIGNAL_LOST (R495). -/
def execLinkSignalLost (n : LinkIx) (s : State) : Host.Outcome State Fault Refusal :=
  guarded (lkState s n.toNat == 2) s (linkDown s n.toNat)

/-! Time (R501 to R505). -/

/-- The device's time in sixteenths of a tick, its fraction of a tick given. -/
def timeOf (s : State) (frac : BitVec 4) : Nat := 16 * now s + frac.toNat
def aligned (s : State) : Bool := rgF s 0x070 0x04C 0 0 == 1
def parentLink (s : State) : Nat := rgF s 0x070 0x048 3 0
def linkDelay (s : State) (n : Nat) : Option Int :=
  if rgF s (lkPage n) 0x54 31 31 = 1 then some (rgF s (lkPage n) 0x54 23 0) else none

def timeRoot (s : State) : Bool := rgF s 0x070 0x048 4 4 == 1

/-- The link carries TIME flits: it is up or in training (R502). -/
def lkTimes (s : State) (n : Nat) : Bool := (lkState s n == 1 || lkState s n == 2) && aclkOn s

/-- The time since the receipt of the far end's last TIME flit; a free value where the 16-bit field does not hold it, which the
spec leaves open (R502; log 55). -/
def turnOf (s : State) (n tx : Nat) : Nat × State :=
  let d := ((tx : Int) - (lk s n).farAt).toNat
  if d < 2 ^ 16 then (d, s) else choose s (2 ^ 16)

/-- The depth that a device shows, and bit 7 that it is aligned: the root has depth 0 and is the reference (R501, R502; DEDUCED,
log 55). -/
def depthByte (s : State) : Nat :=
  if timeRoot s then 128 else rgF s 0x070 0x04C 3 1 + 128 * (rgF s 0x070 0x04C 0 0)

/-- The body of the device's TIME flit (R502). -/
def timeBody (s : State) (n tx turn : Nat) : BitVec 160 :=
  bodyOf (leBytes 8 tx ++ leBytes 8 (lk s n).farTx ++ leBytes 2 turn ++ leBytes 1 (depthByte s)
    ++ leBytes 1 (if timeRoot s then 0 else rgF s 0x070 0x04C 11 4))

/-- TIME_FLIT_SEND (R502): every 1 ms, and once in training. -/
def execTimeFlitSend (n : LinkIx) (frac : BitVec 4) (s : State) : Host.Outcome State Fault Refusal :=
  let n := n.toNat
  let tx := timeOf s frac
  guarded (lkTimes s n) s
    (let r := turnOf s n tx
     let s := r.2
     emit (setLk s n { lk s n with ownTx := some tx }) n 4 0 (timeBody s n tx r.1))

/-- A drift comparison against the parent's flit (R505). -/
def driftCheck (s : State) (off : Int) : State :=
  let s := setRgF s 0x070 0x04C 31 16 (toBits 16 off)
  let run := if 8 < off.natAbs then s.chorus.drift + 1 else 0
  if 3 ≤ run then raiseOpen { s with chorus := { s.chorus with drift := 0 } } 0x070 1
  else { s with chorus := { s.chorus with drift := run } }

/-- The one-way delay that a TIME flit received at a time gives, and what it says of the far end (R502). -/
def delaySeen (s : State) (n : Nat) (f : BitVec 256) (rx : Nat) : State :=
  let adj := signExt 16 (rgF s (lkPage n) 0x58 15 0)
  let s := if (lk s n).ownTx.isNone then s
    else
      let d := Int.fdiv ((rx : Int) - fB f 16 8 - fB f 24 2) 2 + adj
      setRg s (lkPage n) 0x54 (BitVec.ofNat 32 (toBits 24 d + 2 ^ 31))
  setLk s n { lk s n with farTx := fB f 8 8, farAt := rx, farDepth := fB f 26 1, farResidual := signExt 8 (fB f 27 1) }

/-- The comparison with the parent that a TIME flit allows (R505). -/
def driftSeen (s : State) (n : Nat) (f : BitVec 256) (rx : Nat) : State :=
  if n ≠ parentLink s ∨ timeRoot s then s
  else
    let s := count1 s 0x070 0
    match aligned s, linkDelay s n with
    | true, some d => driftCheck s ((rx : Int) - (fB f 8 8 + d - signExt 8 (fB f 27 1)))
    | _, _ => s

/-- TIME_FLIT (R502, R505): the one-way delay, and from the parent after alignment a drift comparison. -/
def execTimeFlit (n : LinkIx) (flit : BitVec 256) (frac : BitVec 4) (s : State) : Host.Outcome State Fault Refusal :=
  let n := n.toNat
  let rx := timeOf s frac
  guarded (lkTimes s n && (fKind flit == 4 || !flitGood (lk s n) flit)) s
    (flushAll (recvCtl s n flit (fun s => driftSeen (delaySeen s n flit rx) n flit rx)))

/-- The root's count now, in ticks, by the parent's last TIME flit and the link's delay (R503). -/
def rootCount (s : State) (l : LinkSt) (d : Int) : Nat :=
  (Int.fdiv (l.farTx + d - l.farResidual + (16 * now s - l.farAt)) 16).toNat

/-- The times that the links hold move with the counter; what a link sent in the old time gives no delay any more (R502, R503). -/
def shiftTimes (s : State) (by_ : Int) : State :=
  { s with links := (s.links.map (fun e => (e.1, { e.2 with farAt := e.2.farAt + by_, ownTx := none }))).filter (fun e => decide (e.2 ≠ {})) }

/-- The counter takes a count, at a depth of the timing tree (R503, R504). -/
def alignTo (s : State) (count depth : Nat) : State :=
  let s := shiftTimes s (16 * ((count : Int) - now s))
  let (k, s) := choose { s with gcnt := BitVec.ofNat 64 count } 3
  let s := setRgF (setRgF (setRgF s 0x070 0x04C 0 0 1) 0x070 0x04C 3 1 depth) 0x070 0x04C 11 4 (toBits 8 ((k : Int) - 1))
  raiseOpen { s with chorus := { s.chorus with drift := 0 } } 0x070 0

/-- TIME_ALIGN (R501, R503, R504): the counter takes the root's count; the phase step leaves an offset of at most 1/16 tick
in RESIDUAL, which the spec leaves open. The root has no parent, and so gets NOT_READY (DEDUCED, log 55). -/
def execTimeAlign (arg : Arg) (s : State) : Host.Outcome State Fault Refusal :=
  let n := parentLink s
  .next (command0 s 0x070 0x68 arg id (fun s =>
    let l := lk s n
    if anyImage s then postResult s 0x070 rBUSY 0x68
    else if timeRoot s then postResult s 0x070 rNOTREADY 0x68
    else match linkDelay s n with
      | none => postResult s 0x070 rNOTREADY 0x68
      | some d =>
        if !lkUp s n || !bit l.farDepth 7 then postResult s 0x070 rNOTREADY 0x68
        else if 7 ≤ l.farDepth % 16 then postResult (raiseOpen s 0x070 2) 0x070 rNOTREADY 0x68
        else
          postResult (alignTo s (rootCount s l d) (l.farDepth % 16 + 1)) 0x070 rOK 0x68))

end Sys2Proof.Machine
end

