-- ==== Sys2Proof/Machine/Sync.lean ====
section
/-! DEFINITION. Sync objects, their operations and messages (15 R523 to R532, R538), the notification bindings that watch
them (16 R562), and the write of a launch count (12 R393). -/

namespace Sys2Proof.Machine

/-! Group geometry (R496, R526, R537, R538). -/

def half (w : Word) (n : Nat) : Nat := if n % 2 = 0 then fld w 11 0 else fld w 27 16
def slotDev (s : State) (k : Nat) : Nat := half (rg s 0x071 (0x60 + 4 * (k / 2))) k
def inRoster (s : State) (k : Nat) : Bool := (rg s 0x071 (if k < 32 then 0x44 else 0x48)).getLsbD (k % 32)
def roster (s : State) : List Nat := (List.range 64).filter (inRoster s)
def ownSlot (s : State) : Nat := if role s = 2 then 0 else rgF s 0x071 0x040 13 8
def sysEn (s : State) : Bool := rgF s 0x071 0x05C 31 31 == 1
def sysMgr (s : State) : Nat := rgF s 0x071 0x05C 11 0
def isSysMgr (s : State) : Bool := sysEn s && role s == 2 && sysMgr s == devNum s
def groupMgr (s : State) (g : Nat) : Nat := half (rg s 0x073 (0x40 + 4 * (g / 2))) g
def groups (s : State) : List Nat := (List.range 64).filter (fun g => (rg s 0x073 (if g < 32 then 0xC0 else 0xC4)).getLsbD (g % 32))

/-! Objects (R524). -/

def syncObj (s : State) (n : Nat) : SyncObj := smGet (fun _ => {}) s.sync n
def setSync (s : State) (n : Nat) (o : SyncObj) : State := { s with sync := smSet (fun _ => {}) s.sync n o }
def oType (o : SyncObj) : Nat := fld o.ctl 2 0
def oScope (o : SyncObj) : Nat := fld o.ctl 4 3
def oPart (o : SyncObj) : Nat := fld o.ctl 6 5

/-- This device is the object's home, and the home's number (R526). -/
def isHome (s : State) (o : SyncObj) : Bool :=
  match oScope o with
  | 1 => role s == 2 || rgF s 0x071 0x050 11 0 == devNum s
  | 2 => sysMgr s == devNum s
  | _ => true
def homeDev (s : State) (o : SyncObj) : Nat := if oScope o = 2 then sysMgr s else rgF s 0x071 0x050 11 0

/-- The operation is one of the type's (R527). Types: 1 COUNTER, 2 SEMAPHORE, 3 FLAG, 4 LAUNCH. -/
def opAllowed (type op : Nat) : Bool :=
  match op with
  | 1 => type == 1 || type == 2
  | 2 => type == 3
  | 3 => type == 3
  | 4 => type == 1 || type == 2
  | 5 => type == 3
  | 6 => type == 3
  | 8 => type == 1
  | 9 => type == 2
  | 0xA => 1 ≤ type && type ≤ 4
  | 0xB => 1 ≤ type && type ≤ 4
  | _ => false

/-- A wait is satisfied (R527). -/
def satisfied (op : Nat) (v arg : DWord) : Bool :=
  match op with
  | 4 => decide (arg.toNat ≤ v.toNat)
  | 5 => v == 1
  | 6 => v == 0
  | _ => false

/-- The value after an operation, and its result (R527). -/
def opEffect (o : SyncObj) (op : Nat) (arg : DWord) : DWord × DWord :=
  let v := o.value
  match op with
  | 1 => (if oType o = 2 then BitVec.ofNat 64 (min (v.toNat + arg.toNat) o.limit.toNat) else v + arg, 0)
  | 2 => (1, 0)
  | 3 => (0, 0)
  | 8 => (v + arg, v)
  | 9 => if v = 0 then (0, 0) else (v - 1, 1)
  | 0xA => (arg, 0)
  | 0xB => (v, v)
  | _ => (v, if satisfied op v arg then 1 else 0)

/-! Notification bindings (16 R562, R565). -/

def setArmed (s : State) (n : Nat) (b : Bool) : State :=
  setRg s 0x022 (0x80 + 4 * (n / 32)) (putBit (rg s 0x022 (0x80 + 4 * (n / 32))) (n % 32) b)

/-- A binding fires: its vector, and it is disarmed. -/
def fireBinding (s : State) (n : Nat) : State :=
  sendMsix (setArmed { s with hif := { s.hif with binds := s.hif.binds.filter (fun e => e.1 ≠ n) } } n false) (64 + n)

/-- Every armed binding of the object that its value satisfies fires, in ascending order. -/
def notify (s : State) (obj : Nat) : State :=
  (s.hif.binds.filter (fun e => e.2.obj == obj && satisfied e.2.op (syncObj s obj).value e.2.arg)).foldl
    (fun s e => fireBinding s e.1) s

/-! Messages (R523, R529, R531). -/

/-- A SYNC message to another device; its hops start at 15. -/
def sendMsg (s : State) (msg code dest obj value aux : Nat) : State :=
  originate s dest { data := false, body := syncBody msg 15 code dest (devNum s) obj value aux }

/-- A message to every roster member but this device, in ascending slot order. -/
def toRoster (s : State) (msg code obj value aux : Nat) : State :=
  ((roster s).filter (· ≠ ownSlot s)).foldl (fun s k =>
    let s := if msg = 1 then count1 s 0x072 2 else s
    sendMsg s msg code (slotDev s k) obj value aux) s

/-- A message to every group manager; this device, if it is one, passes it to its own roster. -/
def toGroups (s : State) (msg code obj value aux : Nat) : State :=
  (groups s).foldl (fun s g =>
    if groupMgr s g = devNum s then toRoster s msg code obj value aux
    else sendMsg (if msg = 1 then count1 s 0x072 2 else s) msg code (groupMgr s g) obj value aux) s

/-- After a change the home sends UPDATE (R529). -/
def sendUpdates (s : State) (n : Nat) : State :=
  let o := syncObj s n
  match oScope o with
  | 1 => toRoster s 1 0 n o.value.toNat 0
  | 2 => toGroups s 1 0 n o.value.toNat 0
  | _ => s

/-- An operation applied at the home, and its result (R527, R529). -/
def applyOp (s : State) (n op : Nat) (arg : DWord) : DWord × State :=
  let o := syncObj s n
  let (v, r) := opEffect o op arg
  let s := count1 s 0x072 0
  (r, if v = o.value then s else sendUpdates (notify (setSync s n { o with value := v }) n) n)

/-! The launch count (12 R393). -/

def setLast (s : State) (p v : Nat) : State := setRgF s 0x07C (0x48 + 16 * p) 6 4 v

/-- A completed write of `LAUNCH_AT` of a partition. -/
def launchWrite (s : State) (p g : Nat) : State :=
  let s := setRg64 s 0x07C (0x40 + 16 * p) g
  if g = 2 ^ 64 - 1 then syncLaunchState (setLast (dropAhead (updPart s p (fun x => { x with armed := none })) p) p 6) p
  else if !hasImage s p then setLast s p 4
  else if g < now s + 1024 then setLast s p 3
  else syncLaunchState (updPart s p (fun x => { x with armed := some g, armedAt := now s })) p

/-- A LAUNCH object's write at its home or at a receiver of LAUNCH (R531). -/
def launchObject (s : State) (n g part : Nat) (atHome : Bool) : State :=
  let o := syncObj s n
  let s := launchWrite s part g
  match oScope o with
  | 1 => if atHome then toRoster s 4 0 n g part else s
  | 2 => if atHome then toGroups s 4 0 n g part else if role s = 2 then toRoster s 4 0 n g part else s
  | _ => s

/-! The window and host operations (R525, R530, R538). -/

/-- A definition of an object is accepted (R525): no image in its partition, old or new, and a scope that the device's role
and `SYS_EN` allow, which for a STANDALONE device is LOCAL alone (01 R33). -/
def defineOk (s : State) (o o' : SyncObj) : Bool :=
  (match oScope o' with
   | 0 => true
   | 1 => role s == 1 || role s == 2
   | 2 => sysEn s && role s != 0
   | _ => false) && decide (oType o' ≤ 4) && !hasImage s (oPart o') && !hasImage s (oPart o)

/-- A word of an object written; `up` is the upper word that the lower word of `VALUE` takes effect with (02 R57). -/
def defineWord (o : SyncObj) (field : Nat) (v : Word) (up : Option Word) : SyncObj :=
  match field with
  | 0 => { o with ctl := v &&& 0x7F }
  | 1 => { o with limit := v }
  | 2 => { o with value := BitVec.ofNat 64 (v.toNat + 2 ^ 32 * (up.getD (BitVec.ofNat 32 (o.value.toNat / 2 ^ 32))).toNat) }
  | _ => o

/-- SYNC_OBJECT_DEFINE (R525; 02 R52, R57, R58): a write to word `field` of the object, or of 64 bits to words `field` and
`field` + 1. The upper word of `VALUE` is held until its lower word is written. -/
def execSyncObjectDefine (n : BitVec 16) (field : BitVec 2) (v : RegData) (s : State) : Host.Outcome State Fault Refusal :=
  let o := syncObj s n.toNat
  let f := field.toNat
  let p := 0x200 + n.toNat / 256
  let off := 16 * (n.toNat % 256) + 4 * f
  let o' := match v with
    | .wide lo hi => if f = 0 then defineWord (defineWord o 0 lo none) 1 hi none else defineWord o 2 lo (some hi)
    | .word w => defineWord o f w (heldUpper s p off)
  guarded (fwRunning s && hostServed s && (!v.isWide || f % 2 == 0)) s
    (let s := noteWrite s p
     if !defineOk s o o' then raiseOpen s 0x072 0
     else match v with
       | .word w => if f = 3 then setPage s p { getPage s p with held := some (off, w) } else setSync s n.toNat o'
       | .wide _ _ => setSync s n.toNat o')

/-- A host operation through `SYNC_EXEC` (R530, R538); `up` is the rest of the argument. -/
def hostSync (op : Nat) (up : BitVec 20) (s : State) : Host.Outcome State Fault Refusal :=
  .next (command s 0x072 0x72 (BitVec.ofNat 24 (op + 16 * up.toNat)) false id (fun s =>
    let n := rgF s 0x072 0x040 15 0
    let o := syncObj s n
    let arg := BitVec.ofNat 64 (rg64 s 0x072 0x044)
    let bad := fun s => postResult (raiseOpen s 0x072 0) 0x072 rUNSUP 0x72
    if up ≠ 0 then postResult s 0x072 rUNSUP 0x72
    else if oType o = 0 then bad s
    else if !isHome s o then postResult s 0x072 rUNSUP 0x72
    else if !opAllowed (oType o) op then bad s
    else if op = 0xA ∧ oType o = 4 then postResult (launchObject (count1 s 0x072 0) n arg.toNat (oPart o) true) 0x072 rOK 0x72
    else
      let (r, s) := applyOp s n op arg
      postResult (if op ≥ 4 ∧ op ≠ 0xA then setRg64 s 0x072 0x04C r.toNat else s) 0x072 rOK 0x72))

def execHostSyncAdd (up : BitVec 20) (s : State) : Host.Outcome State Fault Refusal := hostSync 1 up s
def execHostSyncSet (up : BitVec 20) (s : State) : Host.Outcome State Fault Refusal := hostSync 2 up s
def execHostSyncClear (up : BitVec 20) (s : State) : Host.Outcome State Fault Refusal := hostSync 3 up s
def execHostSyncWaitGe (up : BitVec 20) (s : State) : Host.Outcome State Fault Refusal := hostSync 4 up s
def execHostSyncWaitSet (up : BitVec 20) (s : State) : Host.Outcome State Fault Refusal := hostSync 5 up s
def execHostSyncWaitClear (up : BitVec 20) (s : State) : Host.Outcome State Fault Refusal := hostSync 6 up s
def execFetchAdd (up : BitVec 20) (s : State) : Host.Outcome State Fault Refusal := hostSync 8 up s
def execAcquire (up : BitVec 20) (s : State) : Host.Outcome State Fault Refusal := hostSync 9 up s
def execHostSyncWrite (up : BitVec 20) (s : State) : Host.Outcome State Fault Refusal := hostSync 0xA up s
def execHostSyncRead (up : BitVec 20) (s : State) : Host.Outcome State Fault Refusal := hostSync 0xB up s

/-! Operations from a tile (R528, R676). -/

/-- Object and operation of a `SYNC_OP` word, and its argument. -/
def wObj (w : Nat) : Nat := bits w 23 8
def wOp (w : Nat) : Nat := bits w 27 24
def wSyncArg (s : State) (t w : Nat) : DWord := BitVec.ofNat 64 (leNat (recAt s t (8 * bits w 63 32) 8))

/-- `CHECK_WAIT_Pp` shows a wait that begins now (20 R676). -/
def beginWait (s : State) (p kind number : Nat) : State :=
  let o := 0x50 + 4 * p
  let v := BitVec.ofNat 32 (number % 65536 + 2 ^ 30 * kind + 2 ^ 31)
  if (rg s 0x002 o &&& 0xC000FFFF) = v then s else updPart (setRg s 0x002 o v) p (fun x => { x with waitSince := now s })

/-- The wait ends, and its time stays. -/
def endWait (s : State) (p : Nat) : State :=
  let w := rg s 0x002 (0x50 + 4 * p)
  if fld w 31 31 = 0 then s
  else setRg s 0x002 (0x50 + 4 * p)
    (putFld (putFld w 29 16 (min 0x3FFF ((now s - (getPart s p).waitSince) / 65536))) 31 31 0)

/-- A tile's operation at the object's home, or a message to it. -/
def tileOp (s : State) (n op : Nat) (arg : DWord) : State :=
  let o := syncObj s n
  if isHome s o then (applyOp s n op arg).2
  else sendMsg (count1 s 0x072 1) 0 op (homeDev s o) n arg.toNat 0

/-- `SYNC_OP` with an operation that changes the object. -/
def tileSync (op : Nat) (t : TileIx) (acy : Nat) (s : State) : Host.Outcome State Fault Refusal :=
  issueFree s t.toNat 4 (absAcy s t.toNat acy) (fun e => eOpcode e == 9 && wOp (eWord e) == op)
    (fun e s => tileOp s (wObj (eWord e)) op (wSyncArg s t.toNat (eWord e)))

/-- A tile's wait on a GROUP or SYSTEM object is not satisfied yet: the partition shows it, and the tile's lag is exempt. -/
def waitOn (s : State) (t : Nat) (e : BitVec 128) : State :=
  updTile (beginWait s (partOf s t) 1 (wObj (eWord e))) t (fun x =>
    let y := getStrm x 4
    setStrm x 4 { y with waitFrom := some (y.waitFrom.getD (now s)) })

/-- A wait has issued: its exempt time is added up, and the wait that the partition shows for its object ends. -/
def waitOver (s : State) (t p : Nat) (e : BitVec 128) : State :=
  let s := updTile s t (fun x =>
    let y := getStrm x 4
    setStrm x 4 { y with waitFrom := none, exempt := y.exempt + (match y.waitFrom with | some w => now s - w | none => 0) })
  let o := 0x50 + 4 * p
  if rgF s 0x002 o 31 30 = 3 ∧ rgF s 0x002 o 15 0 = wObj (eWord e) then endWait s p else s

/-- The wait of a `SYNC_OP` word is satisfied now. -/
def waitOk (s : State) (t op : Nat) (e : BitVec 128) : Bool :=
  satisfied op (syncObj s (wObj (eWord e))).value (wSyncArg s t (eWord e))

/-- `SYNC_OP` with a wait: it issues in an acycle in which the value satisfies it; until then the partition shows a wait
on a GROUP or SYSTEM object. -/
def tileWait (op : Nat) (t : TileIx) (acy : Nat) (s : State) : Host.Outcome State Fault Refusal :=
  let t := t.toNat
  match front s t 4 with
  | none => skip s
  | some e =>
    let far := oScope (syncObj s (wObj (eWord e))) ≠ 0
    let acy := absAcy s t acy
    if !eMark e && eOpcode e == 9 && wOp (eWord e) == op && canIssue s t 4 acy e true none && !waitOk s t op e && far then
      .next (waitOn s t e)
    else
      issueStep s t 4 acy (fun e => eOpcode e == 9 && wOp (eWord e) == op) (waitOk s t op) (fun _ => none)
        (fun e u => waitOver u t (partOf s t) e)

def execTileSyncAdd (t : TileIx) (acy : Nat) (s : State) : Host.Outcome State Fault Refusal := tileSync 1 t acy s
def execTileSyncSet (t : TileIx) (acy : Nat) (s : State) : Host.Outcome State Fault Refusal := tileSync 2 t acy s
def execTileSyncClear (t : TileIx) (acy : Nat) (s : State) : Host.Outcome State Fault Refusal := tileSync 3 t acy s
def execTileSyncWaitGe (t : TileIx) (acy : Nat) (s : State) : Host.Outcome State Fault Refusal := tileWait 4 t acy s
def execTileSyncWaitSet (t : TileIx) (acy : Nat) (s : State) : Host.Outcome State Fault Refusal := tileWait 5 t acy s
def execTileSyncWaitClear (t : TileIx) (acy : Nat) (s : State) : Host.Outcome State Fault Refusal := tileWait 6 t acy s

/-! Messages received (R526, R529, R531). -/

/-- A SYNC flit of one message arrives: it is consumed here or goes on along its route (R477, R487, R497). -/
def syncRecv (n : LinkIx) (flit : BitVec 256) (msg : Nat) (act : BitVec 160 → State → State) (s : State) :
    Host.Outcome State Fault Refusal :=
  let n := n.toNat
  let b := fBody flit
  guarded (lkUp s n && ((fKind flit == 3 && bB b 8 1 % 16 == msg) || !flitGood (lk s n) flit)) s
    (flushAll (recvCtl s n flit (fun s => accept s n flit (fun s =>
      if bB b 10 2 = devNum s then act b s
      else forward s n (bB b 10 2) (bB b 8 1 / 16) { data := false, body := BitVec.ofNat 160 (b.toNat - 16), src := none }))))

/-- OP (R529). -/
def execSyncOp (n : LinkIx) (flit : BitVec 256) (s : State) : Host.Outcome State Fault Refusal :=
  syncRecv n flit 0 (fun b s =>
    let o := syncObj s (bB b 14 2)
    if isHome s o && opAllowed (oType o) (bB b 9 1) then (applyOp s (bB b 14 2) (bB b 9 1) (BitVec.ofNat 64 (bB b 16 8))).2 else s) s

/-- UPDATE (R526, R529). -/
def execSyncUpdate (n : LinkIx) (flit : BitVec 256) (s : State) : Host.Outcome State Fault Refusal :=
  syncRecv n flit 1 (fun b s =>
    let k := bB b 14 2
    let o := syncObj s k
    if oType o = 0 then s
    else
      let s := notify (setSync s k { o with value := BitVec.ofNat 64 (bB b 16 8) }) k
      if oScope o = 2 && role s == 2 && !isHome s o then toRoster s 1 0 k (bB b 16 8) 0 else s) s

/-- LAUNCH (R531). -/
def execSyncLaunch (n : LinkIx) (flit : BitVec 256) (s : State) : Host.Outcome State Fault Refusal :=
  syncRecv n flit 4 (fun b s => launchObject s (bB b 14 2) (bB b 16 8) (bB b 24 4 % 4) false) s

end Sys2Proof.Machine
end

