-- ==== Sys2Proof/Machine/Moves.lean ====
section
/-! DEFINITION. The move stream (11 R341 to R343, R351 to R358, R362 to R365; 06 R207 to R209; 15 R481): moves in and out
through plain, gathering and scattering descriptors, link sends, arrivals, and the small move-stream instructions. -/

namespace Sys2Proof.Machine

/-! Runs of lines (R193, R207, R343, R365). -/

/-- Lines that a run of accesses has read, by address. -/
abbrev LineMap := List (Nat × List Byte)

/-- The bytes read at a line address. -/
def LineMap.at_ (m : LineMap) (a : Nat) : List Byte := ((m.find? (fun e => e.1 == a)).map (fun e => e.2)).getD []

/-- Lines read once each, in order, under a hint. -/
def readLines (s : State) (p hint : Nat) (as : List Nat) : LineMap × State :=
  as.eraseDups.foldl (fun (r : LineMap × State) a =>
    let q := devRead r.2 a hint p []
    (r.1 ++ [(a, q.1)], q.2)) ([], s)

/-- The INT32 at a position of an index tensor, in the lines that have been read of it (R193). -/
def indexValue (s : State) (p : Nat) (d : BitVec 1024) (m : LineMap) (i : Nat) : Int :=
  let e := entryAt s p d i
  signExt 32 (leAt (m.at_ e.1) e.2 4)

/-- How one line of a run is accessed: the binding says it is an empty slot, or it lies at a line after substitution, or
its index is out of range. `entry`: its index entry. -/
structure RunLine where
  line : Int
  entry : Nat
  empty : Bool
  oor : Bool
  target : Int
  deriving DecidableEq, Repr

/-- Line i of a run is an empty slot (R365). -/
def lineEmpty (x : Tile) (desc : Nat) (d : BitVec 1024) (l : Int) : Bool :=
  match x.binds.find? (fun (b : Nat × Nat × Nat) => b.1 == desc) with
  | none => false
  | some b =>
    let o := smGet (fun _ => 0) x.occ b.2.2
    let ps := if dIdxEn d && dIdxDim d == b.2.1 then [lineEntry d l] else linePositions d b.2.1 l
    !ps.isEmpty && ps.all (fun j => decide (o ≤ j))

/-- The access of a line of a run, the lines of the index tensor read. -/
def runLine (s : State) (t desc : Nat) (d : BitVec 1024) (m : LineMap) (l : Int) : RunLine :=
  let entry := if dIdxEn d then lineEntry d l else 0
  let empty := lineEmpty (getTile s t) desc d l
  if !dIdxEn d || empty then { line := l, entry := entry, empty := empty, oor := false, target := l }
  else
    let v := indexValue s (partOf s t) d m entry
    let e : Int := perLine (dFormat d)
    { line := l, entry := entry, empty := false, oor := decide (v < 0 ∨ (dLimit d : Int) ≤ v),
      target := l + Int.fdiv ((v - entry) * dStride d (dIdxDim d)) e }

/-- The lines of a run, the entries of an index tensor read for those that are no empty slots (R193, R365, R443). -/
def runLines (s : State) (t desc : Nat) (d : BitVec 1024) (first : Int) (count hint : Nat) : List RunLine × State :=
  let ls := (List.range count).map (fun (i : Nat) => first + i)
  let read := if dIdxEn d then ls.filter (fun l => !lineEmpty (getTile s t) desc d l) else []
  let r := readLines s (partOf s t) hint (read.map (fun l => (entryAt s (partOf s t) d (lineEntry d l)).1))
  (ls.map (runLine s t desc d r.1), r.2)

/-- Empty slots of a bound run: the positions along the bound dimension, at or beyond the register's value, that its
lines hold (R365). -/
def runEmpty (s : State) (t desc : Nat) (d : BitVec 1024) (ls : List RunLine) : Nat :=
  match (getTile s t).binds.find? (fun (b : Nat × Nat × Nat) => b.1 == desc) with
  | none => 0
  | some b =>
    let o := smGet (fun _ => 0) (getTile s t).occ b.2.2
    ((ls.flatMap (fun l => (linePositions d b.2.1 l.line).filter (fun j => decide (o ≤ j)))).eraseDups).length

/-- Out-of-range entries counted once each, and the event (R207). -/
def countOor (s : State) (t op cnt : Nat) (ls : List RunLine) : State :=
  let n := (((ls.filter RunLine.oor).map RunLine.entry).eraseDups).length
  if n = 0 then s else traise (tcount s t cnt n) t 8 op

/-- A line of zeros: code 0, block exponents 00h, or +0 (R207, R365). The rules give it no `ROTATED` bit; it is 0 (DESIGN CHOICE,
log 53). -/
def zeroLine (d : BitVec 1024) : List Byte :=
  if dNarrow d then slice [] 0 68 ++ leBytes 2 (mkTag (dFormat d) (dSparse d) false false false false) ++ [0, 0] else slice [] 0 72

/-! Segment time. -/

/-- The count at which acycle a begins, the dividers in force given with the counts from which they hold (R614, R618). -/
def countAt : List (Nat × Nat) → Nat → Nat
  | [], _ => 0
  | [(c, d)], a => c + a * d / 8
  | (c, d) :: (c', d') :: r, a =>
    if a < 8 * (c' - c) / d then c + a * d / 8 else countAt ((c', d') :: r) (a - 8 * (c' - c) / d)

/-- The acycles from the first of the dividers' counts to a count. -/
def acyclesTo : List (Nat × Nat) → Nat → Nat
  | [], _ => 0
  | [(c, d)], n => 8 * (n - c) / d
  | (c, d) :: (c', d') :: r, n => if n ≤ c' then 8 * (n - c) / d else 8 * (c' - c) / d + acyclesTo ((c', d') :: r) n

/-- The count at which an acycle of the running segment begins. -/
def acyCount (s : State) (t acy : Nat) : Nat :=
  match (getPart s (partOf s t)).run with
  | some r => countAt r.divs acy
  | none => now s

/-! MOVE_IN and arrivals. -/

/-- The segment that runs on a tile. -/
def segOf (s : State) (t : Nat) : Nat := match (getPart s (partOf s t)).run with | some r => r.seg | none => 0

/-- What an issued MOVE_IN starts: its lines are requested, each is written by its own arrival, and a feed finds them where they
are going to lie (R343, R344). -/
def moveInAct (t acy : Nat) (e : BitVec 128) (s : State) : State :=
  let m := mrecAt s t (wRec (eWord e))
  let d := tdesc s t m.desc
  let hint := wHint (eWord e)
  let (ls, s) := runLines s t m.desc d m.first m.count hint
  let x := getTile s t
  let (tag, x) := freshTag x
  let mv : MoveSt := { tag := tag, op := eOp e, desc := m.desc, first := m.first, count := m.count, ts := m.ts, hint := hint,
                       issue := acy, src := ls.map (fun l => if l.empty || l.oor then none else some l.target),
                       key := planKey (segOf s t) (eOffset e) 0 }
  let s := setTile s t { placeAll x (entryPlaces s t 4 e) with
    moves := x.moves ++ [mv], pend := x.pend ++ hold (entryWrites s t 4 e) acy none tag (offAt x e) }
  countOor (tcount s t 0x5B (runEmpty s t m.desc d ls)) t (eOp e) 0x30 ls

/-- MOVE_IN (R343). -/
def execMoveIn (t : TileIx) (acy : Nat) (s : State) : Host.Outcome State Fault Refusal :=
  let a := absAcy s t.toNat acy
  issueFree s t.toNat 4 a (fun e => eOpcode e == 1) (moveInAct t.toNat a)

/-- The arrival bound of a line in acycles of a mode (R353): the cache's for a read planned as a hit (R357), else its
tier's. -/
def arrivalBound (mode : Nat) (a : Nat) (hit : Bool) : Nat :=
  let ticks := if hit then 189 else if isS a then 1680 else 945
  if mode = 2 then 2 * ticks else if mode = 1 then ceilDiv (8 * ticks) 5 else ceilDiv (4 * ticks) 3

/-- The device address of line i of a move; none for a line that is not read. -/
def moveLine (s : State) (t : Nat) (m : MoveSt) (i : Nat) : Option Nat := ((m.src[i]?).join).map (descLineAddr (tdesc s t m.desc))

/-- A line of a move is requested and has not arrived (R343, R351). -/
def arrivalDue (m : MoveSt) (i acy : Nat) : Bool := decide (i < m.count ∧ m.issue + (i / 2 : Nat) < acy) && !m.arrived.contains i

/-- One line of a move is accessed with its index stream. -/
def accessLine (s : State) (t : Nat) (m : MoveSt) (i : Nat) (err : List (BitVec 7 × Byte)) : State × MoveSt :=
  let d := tdesc s t m.desc
  let p := partOf s t
  match (m.src[i]?).join with
  | none => (s, m)
  | some k =>
    let (l, s) := devRead s (descLineAddr d k) m.hint p err
    let (ix, s) := devSpan s (idxAddr d k) (idxBytes d) (idxHint d m.hint (m.src[i + 1]?).join) p []
    (s, { m with got := (i, l, ix) :: m.got })

/-- The lines of a move up to one that have not been accessed are, in the order of their requests, but for those that the host
holds, which wait for its response (R343; 16 R555); `before`: the patterns in the codewords of the lines before it that are so
read, `err`: in its own. -/
def accessLines (s : State) (t : Nat) (m : MoveSt) (i : Nat) (before : List (List (BitVec 7 × Byte))) (err : List (BitVec 7 × Byte)) :
    State × MoveSt :=
  let todo := (List.range (i + 1)).filter (fun j => !m.got.any (fun g => g.1 == j)
    && (moveLine s t m j).any (fun a => !s.hif.held.contains a && !s.hif.snoops.contains a))
  todo.zipIdx.foldl (fun (r : State × MoveSt) j => accessLine r.1 t r.2 j.1 (if j.1 = i then err else before.getD j.2 [])) (s, m)

/-- The lines that the moves of the tile's running image request. -/
def partAccs (s : State) (t : Nat) : List MAcc :=
  let p := partOf s t
  planAccs s p (schedMode s p) false (tilesPer s)

/-- The line is planned against the stack-cache bound (R357). -/
def plannedHit (s : State) (t : Nat) (m : MoveSt) (i : Nat) : Bool :=
  !dIdxEn (tdesc s t m.desc) && (moveLine s t m i).any (fun a => cachePlanned (partAccs s t) a (m.key + i / 2))

/-- The store pages that a move's lines still to arrive, or their index streams, touch. -/
def pagesToCome (m : MoveSt) (b : Nat) : List Nat :=
  ((List.range m.count).filter (fun i => !m.arrived.contains i)).flatMap (fun i =>
    pagesOf (m.ts + 72 * i) 72 ++ pagesOf (m.ts + 72 * m.count + b * i) b)

/-- A line that arrives, accessed before, is written at its place in the tile store with its index stream; a page is free in the
acycle after its last line, and the move is over with the run's last. -/
def arriveStore (x : Tile) (acy : Nat) (m : MoveSt) (i b : Nat) (l ix : List Byte) (late : Bool) : Tile :=
  let x := tsWrite (tsWrite x (m.ts + 72 * i) l) (m.ts + 72 * m.count + b * i) ix
  let m := { m with arrived := i :: m.arrived, late := m.late || late, got := m.got.filter (fun g => g.1 != i) }
  let left := pagesToCome m b
  { x with
    moves := if m.arrived.length < m.count then x.moves.map (fun y => if y.tag = m.tag then m else y)
      else x.moves.filter (fun y => y.tag ≠ m.tag)
    pend := endHolds x.pend m.tag acy (fun u => !left.contains u) }

/-- A line of a move arrives: checked, written, and its bound checked; nothing follows when an event of it resets the partition
(R98, R343, R344, R353, R354, R357, R358, R637, R638). -/
def arriveAct (s : State) (t acy : Nat) (m : MoveSt) (i : Nat) (before : List (List (BitVec 7 × Byte))) (parity : Bool)
    (err : List (BitVec 7 × Byte)) : State :=
  let hit := plannedHit s t m i
  let d := tdesc s t m.desc
  let src := (m.src[i]?).join
  let (s, m) := accessLines s t m i before err
  let (l, ix) := match m.got.find? (fun g => g.1 == i) with
    | some g => g.2
    | none => (zeroLine d, slice [] 0 (idxBytes d))
  let s := if src.isSome then tileLineCheck s t d m.desc (src.getD 0) l else s
  let s := if src.isSome && tagBad d l then traise s t 3 m.op else s
  let (inj, s) := if src.isSome then fiTake s 2 (tpage s t) else (false, s)
  let parity := parity || inj
  let s := if parity then traise (tcount (chargeTile s t) t 0x62 1) t 6 (m.ts + 72 * i) else s
  let late := src.isSome &&
    decide (m.issue + (i / 2 : Nat) + arrivalBound (schedMode s (partOf s t)) (descLineAddr d (src.getD 0)) hit < acy)
  let s := if late then tcount s t 0x5A 1 else s
  if !(getTile s t).moves.any (fun y => y.tag == m.tag) then s
  else
    let s := updTile s t (fun x => arriveStore x acy m i (idxBytes d) (if parity then ffLine else l) ix late)
    if m.arrived.length + 1 = m.count ∧ (m.late || late) then tdcTile s t 2 m.op else s

/-- LINE_ARRIVAL: line `i` of the tile's move `tag` is written at acycle `acy`. `parity`: a byte arrives with bad parity;
`before` and `err`: the patterns in the codewords of the lines accessed ahead of it and in its own (R98, R354, R358, R637, R638).
A line the host holds is snooped first and arrives after the response (16 R555). -/
def execLineArrival (t : TileIx) (tag i acy : Nat) (before : List (List (BitVec 7 × Byte))) (parity : Bool)
    (err : List (BitVec 7 × Byte)) (s : State) : Host.Outcome State Fault Refusal :=
  let t := t.toNat
  if !aclkOn s then skip s else
  let acy := absAcy s t acy
  match (getTile s t).moves.find? (fun m => m.tag == tag) with
  | none => skip s
  | some m =>
    let here := moveLine s t m i
    if arrivalDue m i acy && here.any s.hif.held.contains then .next (snoop s (here.getD 0))
    else guarded (arrivalDue m i acy && !here.any s.hif.snoops.contains) s (arriveAct s t acy m i before parity err)

/-! MOVE_OUT. -/

/-- The bytes of a run's line and its index stream in the tile store. -/
def storeLine (s : State) (t ts i : Nat) : List Byte := tsBytes (getTile s t) (ts + 72 * i) 72

/-- A line of the run goes to memory through the descriptor, its index stream beside it. -/
def putRunLine (s : State) (t desc hint : Nat) (d : BitVec 1024) (ts count : Nat) (q : Nat × RunLine) : State :=
  let p := partOf s t
  let (i, l) := q
  let raw := storeLine s t ts i
  let s := tsCheck s t (ts + 72 * i) 72
  let s := outLine s (siteOf s t / 34) (descLineAddr d l.target) (stampLine s d desc l.line l.target raw) hint p
  if idxBytes d = 0 then s
  else devPut s (idxAddr d l.target) (tsBytes (getTile s t) (ts + 72 * count + idxBytes d * i) (idxBytes d)) hint p

/-- One element of a scatter that adds: the destination's value and its entries' values in order, each a step of R122, and
one conversion. -/
def scatterElem (f : Fmt) (old : Nat) (vs : List Nat) : Conv × AEv :=
  let r := vs.foldl (fun (a : BitVec 40 × AEv) v =>
    let x := cellStep a.1 [(f.decode v, .fin false 1)]
    (x.1, a.2.or x.2)) (encodeW40 (f.decode old), {})
  (convTo f .rne (decodeW40 r.1), r.2)

/-! Scatters. What duplicates leave behind depends neither on how the image divides a scatter among moves nor on their order
(R208 to R210): the moves of one operation number through one descriptor in one launch are one scatter, and a move works each
destination line out anew from its value before the scatter and all its entries so far (DEDUCED, log 54). -/

/-- A destination line as the scatter finds it: its value before the scatter and the entries so far, fresh where memory no longer
holds what the scatter wrote last or an entry comes again. -/
def scatterStart (s : State) (p op desc : Nat) (line : Int) (now_ : List Byte) (new : List (Nat × List Byte)) : Scatter :=
  let fresh : Scatter := { op := op, desc := desc, line := line, orig := now_, parts := [], last := now_ }
  match (getPart s p).scat.find? (fun c => c.op == op && c.desc == desc && c.line == line) with
  | none => fresh
  | some c => if c.last != now_ || c.parts.any (fun y => new.any (fun z => z.1 == y.1)) then fresh else c

/-- A destination line with the entries of a scatter: the highest entry's line, or the sums in ascending entry order with their
events (R208, R209). -/
def scatterBytes (d : BitVec 1024) (c : Scatter) : List Byte × List (Conv × AEv) :=
  let ps := c.parts.mergeSort (fun a b => decide (a.1 ≤ b.1))
  if dScatterAdd d then
    let f := (Fmt.ofCode (dFormat d)).getD .fp32
    let es := (List.range f.perLine).map (fun j => scatterElem f (lineElem f c.orig j) (ps.map (fun l => lineElem f l.2 j)))
    (es.flatMap (fun e => leBytes (f.width / 8) e.1.code), es)
  else ((ps.getLast?.map (fun e => e.2)).getD c.orig, [])

/-- One destination line of a scatter: `qs` are the run's lines that go there (R208 to R210). -/
def scatterLine (s : State) (t desc hint op acy order : Nat) (d : BitVec 1024) (ts : Nat) (k : Int) (qs : List (Nat × RunLine)) : State :=
  let p := partOf s t
  let a := descLineAddr d k
  let s := qs.foldl (fun s q => tsCheck s t (ts + 72 * q.1) 72) s
  let new := qs.map (fun q => (q.2.entry, storeLine s t ts q.1))
  let (old, s) := if dScatterAdd d then devRead s a hint p [] else (peekBytes s a 72, s)
  let c := scatterStart s p op desc k old new
  let c := { c with parts := c.parts ++ new }
  let (out, es) := scatterBytes d c
  let s := es.foldl (fun s e => scatterEvent (scatterEvent s t op acy order 0 e.2) t op acy order 2 { overflow := e.1.overflow }) s
  let s := outLine s (siteOf s t / 34) a (stampLine s d desc ((qs.head?.map (fun q => q.2.line)).getD k) k out) hint p
  updPart s p (fun x => { x with scat :=
    { c with last := peekBytes s a 72 } :: x.scat.filter (fun y => !(y.op == op && y.desc == desc && y.line == k)) })

/-- A scatter: each destination line once (R208, R209). -/
def scatterAll (s : State) (t desc hint op acy order : Nat) (d : BitVec 1024) (ts : Nat) (qs : List (Nat × RunLine)) : State :=
  ((qs.map (fun q => q.2.target)).eraseDups).foldl (fun s k =>
    scatterLine s t desc hint op acy order d ts k (qs.filter (fun q => q.2.target == k))) s

/-- The lines of a run that are written, with their places in the tile store: none out of range, none an empty slot of an
indexed run, and a scatter's in ascending entry order (R207, R208, R365). -/
def runWritten (d : BitVec 1024) (ls : List RunLine) (count : Nat) : List (Nat × RunLine) :=
  let qs := ((List.range count).zip ls).filter (fun q => !q.2.oor && !(q.2.empty && dIdxEn d))
  if dIdxEn d then qs.mergeSort (fun a b => decide (a.2.entry ≤ b.2.entry)) else qs

/-- What an issued MOVE_OUT does: every line is written through the descriptor, an indexed run's as a scatter (R208 to R210,
R343, R345). -/
def moveOutAct (t acy : Nat) (e : BitVec 128) (s : State) : State :=
  let m := mrecAt s t (wRec (eWord e))
  let d := tdesc s t m.desc
  let hint := wHint (eWord e)
  let (ls, s) := runLines s t m.desc d m.first m.count hint
  let qs := runWritten d ls m.count
  let s := updTile s t (fun x => { x with readers := x.readers ++ runReaders m.ts 72 m.count acy (offAt x e)
    ++ (if idxBytes d = 0 then [] else runReaders (m.ts + 72 * m.count) (idxBytes d) m.count acy (offAt x e)) })
  let s := countOor (tcount s t 0x5B (runEmpty s t m.desc d ls)) t (eOp e) 0x31 ls
  if dIdxEn d then scatterAll s t m.desc hint (eOp e) acy (offAt (getTile s t) e) d m.ts qs
  else qs.foldl (fun s q => putRunLine s t m.desc hint d m.ts m.count q) s

/-- MOVE_OUT (R343). -/
def execMoveOut (t : TileIx) (acy : Nat) (s : State) : Host.Outcome State Fault Refusal :=
  let a := absAcy s t.toNat acy
  issueFree s t.toNat 4 a (fun e => eOpcode e == 2) (moveOutAct t.toNat a)

/-! LINK_SEND. -/

/-- The lines of a LINK_SEND, read from the tile store or from memory (R481, R424). -/
def sendLines (s : State) (t : Nat) (m : Mrec) (hint : Nat) (run : List RunLine) : List (List Byte) × State :=
  if m.srcTs then
    (List.range m.count).foldl (fun (acc : List (List Byte) × State) i =>
      let (l, s) := outLink (tsCheck acc.2 t (m.ts + 72 * i) 72) (siteOf s t / 34) (storeLine acc.2 t m.ts i)
      (acc.1 ++ [l], s)) ([], s)
  else
    let d := tdesc s t m.desc
    run.foldl (fun (acc : List (List Byte) × State) l =>
      if l.empty || l.oor then (acc.1 ++ [zeroLine d], acc.2)
      else
        let (b, s) := devRead acc.2 (descLineAddr d l.target) hint (partOf s t) []
        (acc.1 ++ [b], tileLineCheck s t d m.desc l.target b)) ([], s)

/-- The packets of a transfer: 16 lines each, the last with what remains and LAST set (R479 to R481). -/
def packets (s : State) (t acy : Nat) (w : Nat) (m : Mrec) (ls : List (List Byte)) : List TxPkt :=
  let n := ceilDiv ls.length 16
  let deadline := acyCount s t (acy - (getTile s t).base + (ls.length - 1) / 2) + 504 * m.hops
  (List.range n).map (fun k =>
    let part := (ls.drop (16 * k)).take 16
    let bytes := part.flatMap id
    let op := m.target.toNat + 2 * (bit w 10).toNat + 4 * (bit w 11).toNat + 8 * (decide (k + 1 = n)).toNat + 16 * wHint w
    let loc := if m.target then m.loc + 72 * (16 * k) else m.loc + 16 * k
    let payload := slice bytes 0 (32 * ceilDiv bytes.length 32)
    { data := true, payload := payload,
      body := dataBody m.destDev (devNum s) (flitsOf payload) op m.tgt loc deadline (m.destPart + 16 * 15) })

/-- What an issued LINK_SEND does: its lines are read, counted and sent as packets (R343, R481). -/
def linkSendAct (t acy : Nat) (e : BitVec 128) (s : State) : State :=
  let w := eWord e
  let m := mrecAt s t (wRec w)
  let d := tdesc s t m.desc
  let (run, s) := if m.srcTs then ([], s) else runLines s t m.desc d m.first m.count (wHint w)
  let s := if m.srcTs then updTile s t (fun x => { x with readers := x.readers ++ runReaders m.ts 72 m.count acy (offAt x e) })
    else countOor (tcount s t 0x5B (runEmpty s t m.desc d run)) t (eOp e) 0x30 run
  let (ls, s) := sendLines s t m (wHint w) run
  (packets s t acy w m ls).foldl (fun s p => originate s m.destDev p) s

/-- LINK_SEND (R343, R481). -/
def execLinkSend (t : TileIx) (acy : Nat) (s : State) : Host.Outcome State Fault Refusal :=
  let a := absAcy s t.toNat acy
  issueFree s t.toNat 4 a (fun e => eOpcode e == 3) (linkSendAct t.toNat a)

/-! Small instructions. -/

/-- TABLE_LOAD (07 R226). -/
def execTableLoad (t : TileIx) (acy : Nat) (s : State) : Host.Outcome State Fault Refusal :=
  let t := t.toNat
  let acy := absAcy s t acy
  issueFree s t 4 acy (fun e => eOpcode e == 4) (fun e s =>
    let w := eWord e
    let base := (bit w 8).toNat * 512 + (bit w 9).toNat * 256
    let s := tsCheck s t (wTs w) 256
    updTile s t (fun x => { launchResult x (acy + 8) (.bank base (tsBytes x (wTs w) 256)) with
      readers := x.readers ++ hold (entryReads s t 4 e) acy (some (acy + 8)) 0 (offAt x e) }))

/-- SCALE_SET (08 R249). -/
def execScaleSet (t : TileIx) (acy : Nat) (s : State) : Host.Outcome State Fault Refusal :=
  let t := t.toNat
  let acy := absAcy s t acy
  issueFree s t 4 acy (fun e => eOpcode e == 5) (fun e s =>
    let w := eWord e
    let s := tsCheck s t (wTs w) 1
    updTile s t (fun x => { launchResult x (acy + 2) (.slot (bits w 11 8) (tsGet x (wTs w))) with
      readers := x.readers ++ hold (entryReads s t 4 e) acy (some (acy + 2)) 0 (offAt x e) }))

/-- OCC_LOAD (R362): a negative value is taken as 0. -/
def execOccLoad (t : TileIx) (acy : Nat) (s : State) : Host.Outcome State Fault Refusal :=
  let t := t.toNat
  let acy := absAcy s t acy
  issueFree s t 4 acy (fun e => eOpcode e == 6) (fun e s =>
    let w := eWord e
    let s := tsCheck s t (wTs w) 4
    updTile s t (fun x => { x with
      occ := smSet (fun _ => 0) x.occ (bits w 15 8) (signExt 32 (tsNat x (wTs w) 4)).toNat
      pendOcc := x.pendOcc ++ hold [bits w 15 8] acy (some (acy + 2)) 0 (offAt x e)
      readers := x.readers ++ hold (entryReads s t 4 e) acy (some (acy + 2)) 0 (offAt x e) }))

/-- SLOT_BIND (R365). A tile holds 16 bindings; which one gives way to a seventeenth the spec leaves open. -/
def execSlotBind (t : TileIx) (acy : Nat) (s : State) : Host.Outcome State Fault Refusal :=
  let t := t.toNat
  let acy := absAcy s t acy
  issueFree s t 4 acy (fun e => eOpcode e == 7) (fun e s =>
    let w := eWord e
    let b : Nat × Nat × Nat := (bits w 27 8, bits w 30 28, bits w 39 32)
    let rest := (getTile s t).binds.filter (fun (c : Nat × Nat × Nat) => c.1 ≠ b.1)
    if rest.length < 16 then updTile s t (fun x => { x with binds := rest ++ [b] })
    else
      let (k, s) := choose s 17
      updTile s t (fun x => { x with binds := (rest ++ [b]).eraseIdx k }))

/-- What SLOT_DISPATCH builds (R364): slots as (entry, token), counts by expert, dropped positions, positions over. -/
structure Dispatch where
  slots : List (Nat × Nat) := []
  count : List (Nat × Nat) := []
  excess : List Nat := []
  dropped : List Nat := []
  deriving DecidableEq, Repr

def Dispatch.cnt (q : Dispatch) (e : Nat) : Nat := smGet (fun _ => 0) q.count e
def Dispatch.put (q : Dispatch) (cap e tok : Nat) : Dispatch :=
  { q with slots := q.slots ++ [(e * cap + q.cnt e, tok)], count := smSet (fun _ => 0) q.count e (q.cnt e + 1) }

/-- The first pass at a position. -/
def dispatchFirst (r : Drec) (a : Nat → Int) (q : Dispatch) (p : Nat) : Dispatch :=
  let e := a p
  if e < 0 ∨ (r.e : Int) ≤ e then q
  else if q.cnt e.toNat < r.cap then q.put r.cap e.toNat (p / r.k)
  else { q with excess := q.excess ++ [p] }

/-- The second pass at a position that found its expert full. -/
def dispatchOver (r : Drec) (q : Dispatch) (p : Nat) : Dispatch :=
  let tok := p / r.k
  let v := r.overflow
  let has := q.slots.any (fun s => decide (v * r.cap ≤ s.1 ∧ s.1 < (v + 1) * r.cap) && s.2 == tok)
  if r.policy = 1 ∧ q.cnt v < r.cap ∧ !has then q.put r.cap v tok
  else { q with dropped := q.dropped ++ [p] }

def dispatch (r : Drec) (a : Nat → Int) : Dispatch :=
  let q := (List.range (r.n * r.k)).foldl (dispatchFirst r a) {}
  q.excess.foldl (dispatchOver r) q

/-- The drop mask's bytes and the slot table's. -/
def dropBytes (r : Drec) (q : Dispatch) : List Byte :=
  (List.range (ceilDiv (r.n * r.k) 8)).map (fun i =>
    BitVec.ofNat 8 (natOfBits ((List.range 8).map (fun j => q.dropped.contains (8 * i + j)))))
def slotBytes (r : Drec) (q : Dispatch) : List Byte :=
  (List.range (r.e * r.cap)).flatMap (fun i => leBytes 4 (match q.slots.find? (fun s => s.1 == i) with
    | some s => s.2
    | none => 0xFFFFFFFF))

/-- What an issued SLOT_DISPATCH does (R364). -/
def dispatchAct (t acy : Nat) (e : BitVec 128) (s : State) : State :=
  let r := drecAt s t (wRec (eWord e))
  let s := tsCheck s t r.assign (4 * r.n * r.k)
  let x := getTile s t
  let q := dispatch r (fun p => signExt 32 (tsNat x (r.assign + 4 * p) 4))
  let done := acy + ceilDiv (r.n * r.k) 16 + ceilDiv (r.e * r.cap) 64 + 20
  let y := tsWrite (tsWrite x r.index (slotBytes r q)) r.drop (dropBytes r q)
  let s := setTile s t { y with
    occ := (List.range r.e).foldl (fun m i => smSet (fun _ => 0) m (r.occBase + i) (q.cnt i)) y.occ
    pend := y.pend ++ hold (entryWrites s t 4 e) acy (some done) 0 (offAt x e)
    pendOcc := y.pendOcc ++ hold ((List.range r.e).map (r.occBase + ·)) acy (some done) 0 (offAt x e)
    readers := y.readers ++ hold (entryReads s t 4 e) acy (some done) 0 (offAt x e) }
  let s := tcount (tcount s t 0x5C q.excess.length) t 0x5D q.dropped.length
  if q.excess.isEmpty then s else traise s t 13 (eOp e)

/-- SLOT_DISPATCH (R364). -/
def execSlotDispatch (t : TileIx) (acy : Nat) (s : State) : Host.Outcome State Fault Refusal :=
  let a := absAcy s t.toNat acy
  issueFree s t.toNat 4 a (fun e => eOpcode e == 8) (dispatchAct t.toNat a)

end Sys2Proof.Machine
end

