-- ==== Sys2Proof/Machine/Launch.lean ====
section
/-! DEFINITION. Launches, segments, checks and what follows an announcement (08 R268 to R276; 11 R331 to R333, R349;
12 R391 to R396; 13 R412 to R421; 15 R511, R518, R519; 19 R650 to R654; 20 R673 to R676). -/

namespace Sys2Proof.Machine

def updRun (s : State) (p : Nat) (f : Run → Run) : State := updPart s p (fun x => { x with run := x.run.map f })
def imgPage (p : Nat) : Nat := 0x2C + p
/-- ACLK divider in force (18 R629). -/
def divider (s : State) : Nat := rgF s 0x001 0x044 7 4
/-- Alignment step of a divider (R333, R615). -/
def divAlign (d : Nat) : Nat := if d = 5 then 5 else if d = 6 then 3 else if d = 7 then 7 else 1
def stretch (s : State) : Nat := rgF s 0x001 0x044 10 8

/-! The schedule's checks. -/

/-- The schedule of the mode has a check j; it is the commit check; its expected count less COMMIT (R383, R412). -/
def isCommit (s : State) (p j : Nat) : Bool := bit (checkT s p (schedMode s p) j) 63
def hasCommit (s : State) (p : Nat) : Bool := (List.range (checksOf s p (schedMode s p))).any (isCommit s p)
def expectedAt (s : State) (p : Nat) (r : Run) : Nat := r.g + checkT s p r.mode r.seg % 2 ^ 63 + r.shift
def lambda (s : State) (p : Nat) : Nat := lambdaOf s p (schedMode s p)

/-! Launch. -/

/-- A tile that holds nothing of a schedule under way: its store, tables and outlier state stay, and so do what it has fetched for
the next launch and the lines that no passed verdict covers (R171, R395, R416). -/
def tileAtLaunch (x : Tile) : Tile :=
  { store := x.store, badPar := x.badPar, dscale := x.dscale, outTab := x.outTab, lastCap := x.lastCap, banks := x.banks,
    occ := x.occ, moveTag := x.moveTag, ahead := x.ahead, unver := unverKept x.unver, winFrom := 17 }

/-- The five streams of a tile as what was fetched ahead leaves them. -/
def streamsOf (l : List (List (BitVec 128))) : List Strm :=
  (List.range 5).map (fun i => { q := l.getD i [], fetched := (l.getD i []).length })

def forTiles (s : State) (p : Nat) (f : State → Nat → State) : State := (partTiles s p).foldl f s

/-- LAUNCH_START (R332, R394, R395, R421; 18 R616; 19 R642). What was fetched ahead is used when it is of the launch's mode; a tile
whose block takes no new work issues nothing of the launch (02 R42, log 51). -/
def execLaunchStart (p : PartIx) (s : State) : Host.Outcome State Fault Refusal :=
  let p := p.toNat
  let x := getPart s p
  match x.armed with
  | none => skip s
  | some g =>
    let mode := powerMode s
    let missed := x.run.isSome || (match x.lastEnd with | some e => decide (g < e + 64) | none => false)
      || !(rgF s (imgPage p) 0x44 1 0 == 2)
    let noSched := match x.img with | some i => i.sched.getD mode 0 == 0 | none => true
    let s1 := updPart s p (fun y => { y with armed := none })
    guarded (decide (g ≤ now s) && !s.oos && !warmActive s) s
      (if missed || noSched then
        let s := syncLaunchState (setLast (dropAhead s1 p) p (if noSched then 5 else 2)) p
        sendMsix (raiseOpen (count1 s (imgPage p) 1) (imgPage p) 1) (24 + p)
      else
        let n := rgF s 0x003 (0x50 + 4 * p) 12 0
        let run : Run := { g := g, mode := mode, segStart := g, replayMax := rgF s 0x07D 0x040 3 0, dupN := n,
                           dupPhi := if n = 0 then 0 else g % n, committed := !hasCommit s p }
        let s := forTiles s1 p (fun s t => updTile s t (fun y =>
          { tileAtLaunch y with
            streams := if x.fetchMode = some mode then streamsOf y.ahead else streamsOf []
            ahead := [], fetchFrom := x.armedAt, barred := refusesWork s (tpage s t) }))
        let s := updPart s p (fun y => { y with run := some run, fetchMode := none, scat := [] })
        let s := setImgState (syncLaunchState (setLast s p 1) p) p 3
        let s := setRg s 0x07D 0x044 0
        let s := count1 s (imgPage p) 0
        let s := if role s = 2 then { s with chorus := { s.chorus with openChk := some 0, counted := [], missing := [], lowRounds := 0, ann := none, copies := 0 } } else s
        (List.range (stretch s)).foldl (fun s _ => tdcAdd s p 4 0x7F 0) s)

/-- The tile counters a replay restores (R416). -/
def snapCounters : List Nat := [0x30, 0x31, 0x38, 0x39, 0x3A, 0x3B, 0x3C, 0x3D, 0x3E, 0x3F, 0x40, 0x41, 0x42, 0x43, 0x5B, 0x5C, 0x5D]

def snapTile (s : State) (t : Nat) : TileSnap :=
  let x := getTile s t
  { tile := t, outTab := x.outTab, lastCap := x.lastCap, dscale := x.dscale,
    cnts := snapCounters.map (fun i => (i, getCnt s (tpage s t) i)) }

/-- The sync objects a replay restores: the partition's LOCAL ones, and a manager's GROUP ones. -/
def snapObjects (s : State) (p : Nat) : List (Nat × SyncObj) :=
  s.sync.filter (fun e => (oScope e.2 == 0 && oPart e.2 == p) || (oScope e.2 == 1 && role s == 2))

/-- What precedes acycle 0 of a replayed segment 0 (R416): a GROUP object whose value changes sends its UPDATE (15 R529). -/
def restoreSnap (s : State) (p : Nat) (r : Run) : State :=
  let s := r.snapTiles.foldl (fun s n =>
    let s := updTile s n.tile (fun x => { x with outTab := n.outTab, lastCap := n.lastCap, dscale := n.dscale })
    n.cnts.foldl (fun s c => setCnt s (tpage s n.tile) c.1 c.2) s) s
  let old := s.sync
  let gone := (snapObjects s p).foldl (fun m e => smDel m e.1) s.sync
  let s := { s with sync := r.snapSync.foldl (fun m e => smSet (fun _ => {}) m e.1 e.2) gone }
  (r.snapSync.filter (fun e => (smGet (fun _ => {}) old e.1).value != e.2.value)).foldl (fun s e => sendUpdates s e.1) s

/-- A tile at acycle 0 of a segment, which is an acycle of the launch: lateness 0, bindings ended, report places fresh; what an
acycle before it ended is forgotten (R333, R346, R365). -/
def tileAtSegment (base : Nat) (x : Tile) : Tile :=
  let live := fun (h : Hold) => match h.upto with | none => true | some u => decide (base < u)
  { x with base := base
           streams := x.streams.map (fun y => { y with late := 0, fresh := 0, counted := false, marked := false, waitFrom := none, exempt := 0 })
           binds := [], epoch := none, atEpoch := false
           winFrom := max x.winFrom (base + 17)
           pend := x.pend.filter live, pendOcc := x.pendOcc.filter live, readers := x.readers.filter live
           stalls := x.stalls.filter (fun k => decide (base ≤ k.2)), twin := twinOf x }

/-- The acycle of the launch at which the running segment's acycle 0 comes, when it begins at a count (R333). -/
def segBase (x : Tile) (r : Run) (c0 : Nat) : Nat := if r.seg = 0 then 0 else x.base + acyclesTo r.divs c0

/-- SEGMENT_START (R332, R333, R395, R416; 19 R650, R654). At a replayed segment 0 the state is restored first; the moves due then
follow, and their tiles issue nothing before. -/
def execSegmentStart (p : PartIx) (s : State) : Host.Outcome State Fault Refusal :=
  let p := p.toNat
  if !aclkOn s then skip s else
  match (getPart s p).run with
  | none => skip s
  | some r =>
    let c0 := alignUp r.segStart (divAlign (divider s))
    guarded (!r.begun && decide (c0 ≤ now s) && !warmActive s) s
      (let s := if r.seg = 0 then
          let s := if r.replayAnn then restoreSnap (forTiles s p (fun s t => updTile s t (fun x =>
              { tileAtLaunch (landAll x) with streams := x.streams, fetchFrom := x.fetchFrom, barred := x.barred }))) p r
            else s
          updPart s p (fun x => { x with poison := false, scat := [] })
        else s
       let s := forTiles s p (fun s t =>
         let s := updTile s t (fun x => tileAtSegment (segBase x r c0) x)
         setRg (setRg s (tpage s t) 0x260 (BitVec.ofNat 32 (r.seg % 65536 + 2 ^ 31))) (tpage s t) 0x264 0)
       let first := decide (r.seg = 0) && !r.replayAnn
       updRun s p (fun r => { r with
         begun := true
         divs := [(c0, divider s)]
         replayAnn := false
         moving := if r.replayAnn then (partTiles s p).filter s.fc.due.contains else []
         snapTiles := if first then (partTiles s p).map (snapTile s) else r.snapTiles
         snapSync := if first then snapObjects s p else r.snapSync }))

/-- The next group of a stream in a mode's schedule section, from its entry n: its address, its entries, and the segment of the
first (R391). -/
structure Group where
  addr : Nat
  entries : Nat
  seg : Nat
  first : BitVec 128

/-- The group of at most 36 entries that begins at an entry of a tile's stream, if the stream has that entry (R383, R391). -/
def nextGroup (s : State) (t mode st n : Nat) : Option Group :=
  let p := partOf s t
  let lt := t - firstTile s p
  let d := streamDir s p mode lt st
  match (getPart s p).img with
  | none => none
  | some g =>
    if d.2 ≤ n then none
    else some { addr := g.base + d.1 + 16 * n, entries := min 36 (d.2 - n),
                seg := countP eIsEpoch ((List.range n).map (streamEntry s p mode lt st)),
                first := streamEntry s p mode lt st n }

/-- The group's entries as a read of its lines gives them. The read carries no hint of its own: DEFAULT (DESIGN CHOICE, log 52). -/
def readGroup (s : State) (p : Nat) (g : Group) (errs : List (List (BitVec 7 × Byte))) : List (BitVec 128) × State :=
  let r := devSpan s g.addr (16 * g.entries) (fun _ => 0) p errs
  ((List.range g.entries).map (fun i => BitVec.ofNat 128 (leNat (slice r.1 (16 * i) 16))), r.2)

/-- A group that arrives later than its tier's bound counts as a late transfer of its lines (R353, R358, R391). -/
def lateGroup (s : State) (t : Nat) (g : Group) (late : Bool) : State :=
  if late then tdcTile (tcount s t 0x5A (ceilDiv (16 * g.entries) 72)) t 2 0 else s

/-- The ticks of the read bound of an address's tier (R353). -/
def tierTicks (a : Nat) : Nat := if isS a then 1680 else 945

/-- The group is one that the running launch has requested by an acycle of its segment: early groups from the segment's fetch
start, the others 4,096 acycles before their first entry (R391, R417). -/
def groupDue (x : Tile) (r : Run) (g : Group) (acy : Nat) : Bool :=
  if r.replayAnn then g.seg == 0 && decide (eOffset g.first < 4096)
  else (g.seg == r.seg && decide (eOffset g.first < 4096 ∨ (r.begun ∧ eOffset g.first ≤ acy + 4096)))
    || (g.seg == r.seg + 1 && x.atEpoch && decide (eOffset g.first < 4096))

/-- A group for the running launch arrives. -/
def fetchRun (s : State) (t st acy : Nat) (r : Run) (g : Group) (errs : List (List (BitVec 7 × Byte))) : State :=
  let late := if eOffset g.first < 4096 then decide ((getTile s t).fetchFrom + tierTicks g.addr < now s)
    else decide (eOffset g.first - 4096 + arrivalBound r.mode g.addr false < acy)
  let got := readGroup s (partOf s t) g errs
  let s := updTile got.2 t (fun x =>
    let y := getStrm x st
    let live := r.begun && !r.replayAnn && g.seg == r.seg
    setStrm x st { y with q := y.q ++ got.1, fetched := y.fetched + g.entries,
                          fresh := if live && y.q.isEmpty then absAcy s t acy else y.fresh })
  lateGroup s t g late

/-- The partition's tiles fetch ahead for the mode in effect: what was fetched for another is dropped. -/
def aheadFor (s : State) (p mode : Nat) : State :=
  if (getPart s p).fetchMode = some mode then s else updPart (dropAhead s p) p (fun z => { z with fetchMode := some mode })

/-- A group for segment 0 of the armed launch arrives (R391, R393). -/
def fetchAhead (s : State) (t st : Nat) (g : Group) (errs : List (List (BitVec 7 × Byte))) : State :=
  let p := partOf s t
  let s := aheadFor s p (powerMode s)
  let got := readGroup s p g errs
  let s := updTile got.2 t (fun x =>
    let l := (List.range 5).map (x.ahead.getD · [])
    { x with ahead := l.set st (l.getD st [] ++ got.1) })
  lateGroup s t g (decide ((getPart s p).armedAt + tierTicks g.addr < now s))

/-- The group that the armed launch requests next for a stream. -/
def aheadGroup (s : State) (t st : Nat) : Option Group :=
  let p := partOf s t
  let z := getPart s p
  let n := if z.fetchMode = some (powerMode s) then ((getTile s t).ahead.getD st []).length else 0
  (nextGroup s t (powerMode s) st n).filter (fun g => z.armed.isSome && g.seg == 0 && decide (eOffset g.first < 4096))

/-- SCHEDULE_FETCH (R391, R393, R417): a stream's next group of 36 entries, requested when it was due, arrives; `errs`: the
patterns in its lines' codewords. -/
def execScheduleFetch (t : TileIx) (stream : BitVec 3) (acy : Nat) (errs : List (List (BitVec 7 × Byte))) (s : State) :
    Host.Outcome State Fault Refusal :=
  let t := t.toNat
  let st := stream.toNat
  let p := partOf s t
  let x := getTile s t
  if !aclkOn s || warmActive s || s.oos || !decide (st < 5) then skip s else
  let own := match (getPart s p).run with
    | none => none
    | some r => ((nextGroup s t r.mode st (getStrm x st).fetched).filter (fun g => groupDue x r g acy)).map (fun g => (r, g))
  match own, aheadGroup s t st with
  | some (r, g), _ => .next (fetchRun s t st acy r g errs)
  | none, some g => .next (fetchAhead s t st g errs)
  | none, none => skip s

/-! Announcements taken (R416 to R418, R518, R519; 08 R273 to R276). -/

/-- How far a check's resume moves the checks after it (R275). -/
def checkShift (lam : Nat) (r : Run) (expected res : Nat) : Nat := max (r.epochs * lam) (res - expected - 2048)

/-- Cause 3 counts at most once per check (R276, R361, R519). -/
def lateCheck (s : State) (p : Nat) : State :=
  match (getPart s p).run with
  | some r => if r.cause3 then s else updRun (tdcAdd s p 3 0x7F 0) p (fun r => { r with cause3 := true })
  | none => s

def setOutcome (s : State) (v : Nat) : State := sendMsix (setRgF s 0x07D 0x044 2 0 v) 28

/-- The commit page's outcome changes, with its vector when the value does (16 R561). -/
def outcome (s : State) (v : Nat) : State := if rgF s 0x07D 0x044 2 0 = v then s else setOutcome s v

/-- CONTINUE at the check the partition waits at. -/
def takeContinue (s : State) (p res : Nat) : State :=
  match (getPart s p).run with
  | none => s
  | some r =>
    let c := isCommit s p r.seg
    let s := updRun s p (fun r => { r with resume := some res, committed := r.committed || c })
    if c then count1 (outcome s 1) 0x07D 0 else s

/-- EPOCH (R274): the tiles with queued repeats run them in the Λ ticks before R, here as acycles of the launch. -/
def takeEpoch (s : State) (p res : Nat) : State :=
  match (getPart s p).run with
  | none => s
  | some r =>
    let at_ := acyclesTo r.divs
    let s := forTiles s p (fun s t => if (getTile s t).replay.isEmpty then s
      else tcount (updTile s t (fun x => { x with epoch := some (x.base + at_ (res - lambda s p), x.base + at_ res) })) t 0x42 1)
    updRun s p (fun r => { r with resume := some res, epochAnn := true, inEpoch := true, epochs := r.epochs + 1 })

/-- REPLAY: segment 0 begins again at R, and its fetch starts now (R391, R416, R417, R421). -/
def takeReplay (s : State) (p res : Nat) : State :=
  let s := updRun s p (fun r => { r with resume := some res, replayAnn := true })
  let s := forTiles s p (fun s t => updTile s t (fun x => { x with streams := streamsOf [], fetchFrom := now s }))
  let s := tdcAdd s p 7 0x7F 0
  let s := setRgF s 0x07D 0x044 7 4 (min 15 (rgF s 0x07D 0x044 7 4 + 1))
  raiseOpen (count1 (outcome s 2) 0x07D 1) 0x07D 0

/-- ABANDON: the launch ends at R (R418). -/
def takeAbandon (s : State) (p res : Nat) : State :=
  updRun s p (fun r => { r with resume := some res, abandonAnn := some res })

/-- The schedule of a partition ends (R396; 10 R324; 14 R445). -/
def endRun (s : State) (p : Nat) : State :=
  let x := getPart s p
  let s := forTiles s p (fun s t =>
    let s := updTile s t (fun x => { tileAtLaunch (landAll x) with moves := x.moves })
    setRgF s (tpage s t) 0x260 31 31 0)
  let s := { s with cache := unprotect p s.cache }
  let s := updPart s p (fun y => { y with run := none, lastEnd := some (now s), seed := x.heldSeed.getD y.seed, heldSeed := none, scat := [] })
  let s := setImgState (syncLaunchState (endWait s p) p) p 2
  sendMsix s (24 + p)

/-- An output block that never gets its last pass is given up: its feeds, the entries of its steps, and what cells accumulated of
it (R396, R690). -/
def giveUp (x : Tile) (b : OBlock) : Tile :=
  let keep := fun (l : List LinkEntry) => l.filter (fun e => e.blk != b.id)
  { x with
    blocks := x.blocks.filter (fun y => y.id != b.id)
    feeds := x.feeds.filter (fun f => f.blk != some b.id)
    rowLinks := (x.rowLinks.map (fun e => (e.1, keep e.2))).filter (fun e => !e.2.isEmpty)
    colLinks := (x.colLinks.map (fun e => (e.1, keep e.2))).filter (fun e => !e.2.isEmpty)
    cells := x.cells.map (fun e => (e.1, if (passAt b (e.2.next - 1)).isSome then { e.2 with act := 0, res := 0, outDue := false } else e.2)) }

/-- Every stream of a tile taken as having issued its end mark at an acycle: work that needs an entry to come is given up, and what
has issued goes on (R396, R418, R690). -/
def endStreams (acy : Nat) (x : Tile) : Tile :=
  let x := (x.blocks.filter (fun b => !b.complete)).foldl giveUp x
  { x with streams := x.streams.map (fun y => { y with q := [], marked := true, ended := true })
           feeds := x.feeds.filter (fun f => f.blk.isSome), epoch := none, winFrom := max x.winFrom acy }

/-- The launch is abandoned at R: nothing more issues, and the schedule ends once what has issued and the queued repeats are done
(R396, R418, R690). -/
def abandonRun (s : State) (p res : Nat) : State :=
  match (getPart s p).run with
  | none => s
  | some r =>
    let s := forTiles s p (fun s t => updTile s t (fun x => endStreams (x.base + acyclesTo r.divs res) x))
    let s := endWait (updRun s p (fun r => { r with resume := none, waiting := none, answer := 0, inEpoch := false, epochAnn := false })) p
    raiseOpen (count1 (outcome s 3) 0x07D 2) 0x07D 1

/-! Checks reached (08 R270 to R273, R414, R415; 19 R651). -/

/-- Every repeat begun has its verdict (R360). -/
def repeatsDone (x : Tile) : Bool := x.running.isNone && x.blocks.all (fun b => b.verd || b.kind = 0)

/-- Every tile of the partition has reached the epoch point, and what R360 and R651 hold the answer for is over. -/
def checkQuiet (s : State) (p : Nat) : Bool :=
  (partTiles s p).all (fun t => (getTile s t).atEpoch && repeatsDone (getTile s t))
  && (match (getPart s p).run with
      | some r => !isCommit s p r.seg || !(s.fc.shadows.any (fun h => (partTiles s p).contains h.tile))
      | none => false)

def needsEpoch (s : State) (p : Nat) : Bool := (partTiles s p).any (fun t => !(getTile s t).replay.isEmpty)

/-- The partition's answer code at its check: 2 ARRIVED, 3 EPOCH_WANTED, 4 CLEAN, 5 POISON (R414, R511). -/
def answerCode (s : State) (p : Nat) (r : Run) : Nat :=
  if isCommit s p r.seg then (if (getPart s p).poison then 5 else if needsEpoch s p then 3 else 4)
  else if needsEpoch s p then 3 else 2

/-- A partition that decides alone (R272, R361, R415): A is the count at which every tile reached the epoch point, at every exchange
of the check; each epoch it has run has moved the resume by Λ. -/
def decideAlone (s : State) (p code : Nat) (r : Run) : State :=
  let t := expectedAt s p r
  let a := r.firstA.getD (now s)
  let s := if r.epochs = 0 ∧ t < a then lateCheck s p else s
  let base := max t a + r.epochs * lambda s p
  match code with
  | 5 => if rgF s 0x07D 0x044 7 4 < r.replayMax then takeReplay s p (max t a + 2048) else takeAbandon s p (max t a + 2048)
  | 3 => takeEpoch s p (base + lambda s p)
  | _ => takeContinue s p base

/-- The partition answers at its check once everything that holds the answer is over. -/
def answerCheck (s : State) (p : Nat) : State :=
  match (getPart s p).run with
  | none => s
  | some r =>
    if r.waiting.isNone || r.answer ≠ 0 || !checkQuiet s p then s
    else
      let code := answerCode s p r
      let s := if code = 5 then count1 s 0x07D 3 else s
      let s := updRun s p (fun r => { r with answer := code, atCommit := isCommit s p r.seg })
      if role s = 0 then decideAlone s p code r else s

/-- A tile's mark of a stream issues: with its last mark a tile reaches the epoch point, which is the next segment's fetch start
(R391); the end marks open the window of the repeats left (R396). -/
def issueMark (s : State) (t stream acy : Nat) (e : BitVec 128) : State :=
  let s := issueEntry s t stream acy e
  let s := updTile s t (fun x =>
    let y := getStrm x stream
    let x := setStrm x stream { y with marked := y.marked || eIsEpoch e, ended := y.ended || eIsEnd e }
    let all := x.streams.all (fun y => y.marked)
    { x with atEpoch := all, fetchFrom := if all then now s else x.fetchFrom,
             winFrom := if eIsEnd e then max x.winFrom acy else x.winFrom })
  let p := partOf s t
  if (partTiles s p).all (fun t => (getTile s t).atEpoch) then
    match (getPart s p).run with
    | some r =>
      if r.waiting.isSome then s
      else
        beginWait (updRun s p (fun r => { r with waiting := some r.seg, answer := 0, firstA := some (now s), cause3 := false, epochs := 0 }))
          p 0 r.seg
    | none => s
  else s

/-- EPOCH_POINT_MARK (R270, R331, R346, R350; 20 R676): the stream's next entry is a mark and issues; and when every tile
has reached the epoch point and nothing holds the answer, the partition answers or decides. -/
def execEpochPointMark (t : TileIx) (stream : BitVec 3) (acy : Nat) (s : State) : Host.Outcome State Fault Refusal :=
  let t := t.toNat
  if !aclkOn s then skip s else
  let p := partOf s t
  match front s t stream.toNat with
  | some e =>
    if eMark e && canIssue s t stream.toNat (absAcy s t acy) e true (some 0) then
      .next (answerCheck (issueMark s t stream.toNat (absAcy s t acy) e) p)
    else .next (answerCheck s p)
  | none => .next (answerCheck s p)

/-- SCHEDULE_END (R396). -/
def execScheduleEnd (p : PartIx) (s : State) : Host.Outcome State Fault Refusal :=
  let p := p.toNat
  if !aclkOn s then skip s else
  match (getPart s p).run with
  | none => skip s
  | some r =>
    guarded ((r.begun || r.abandonAnn.isSome) && (partTiles s p).all (fun t =>
        let x := getTile s t
        x.streams.all (fun y => y.ended && y.q.isEmpty) && x.moves.isEmpty && x.replay.isEmpty && x.conv.isEmpty
          && x.running.isNone && x.feeds.isEmpty && x.blocks.all (fun b => b.verd))) s
      (endRun s p)

/-- A manager whose members go on after an epoch opens the check they reach next (20 R687; log 51). -/
def openNext (s : State) (p : Nat) (r : Run) : State :=
  if p = 0 ∧ role s = 2 ∧ r.inEpoch ∧ s.chorus.openChk = some r.seg then
    { s with chorus := { s.chorus with openChk := if r.seg + 1 < checksOf s 0 r.mode then some (r.seg + 1) else none, counted := [] } }
  else s

/-- RESUME (R273, R274, R332, R360, R416, R418): the count reaches R, and every repeat begun has its verdict. -/
def execResumeStep (p : PartIx) (s : State) : Host.Outcome State Fault Refusal :=
  let p := p.toNat
  if !aclkOn s then skip s else
  match (getPart s p).run with
  | none => skip s
  | some r =>
    match r.resume with
    | none => skip s
    | some res =>
      guarded (decide (res ≤ now s) && (r.abandonAnn.isSome || r.replayAnn || (partTiles s p).all (fun t => repeatsDone (getTile s t)))) s
        (if r.abandonAnn.isSome then abandonRun s p res
         else if r.replayAnn then
          endWait (updRun s p (fun r => { r with
            g := res, seg := 0, segStart := res, begun := false, shift := 0, waiting := none, answer := 0, firstA := none,
            resume := none, epochAnn := false, inEpoch := false, committed := false, cause3 := false, epochs := 0,
            dupPhi := if r.dupN = 0 then 0 else res % r.dupN })) p
         else if r.inEpoch && (needsEpoch s p || isCommit s p r.seg) then
          let s := forTiles s p (fun s t => updTile s t (fun x => { x with epoch := none }))
          answerCheck (updRun s p (fun r => { r with resume := none, answer := 0, inEpoch := false, epochAnn := false })) p
         else
          let sh := checkShift (lambda s p) r (expectedAt s p r) res
          endWait (updRun (openNext s p r) p (fun r => { r with
            seg := r.seg + 1, segStart := res, begun := false, shift := r.shift + sh, waiting := none, answer := 0,
            firstA := none, resume := none, epochAnn := false, inEpoch := false })) p)

/-! Group members take announcements from round words (R518, R519, R690). -/

/-- R as the unique count nearest the device's own whose bits [35:0] are the word's (R509). -/
def resumeCount (s : State) (low : Nat) : Nat :=
  let base := now s / 2 ^ 36 * 2 ^ 36 + low
  if base + 2 ^ 35 < now s then base + 2 ^ 36 else if now s + 2 ^ 35 < base ∧ 2 ^ 36 ≤ base then base - 2 ^ 36 else base

/-- The partition waits, with its answer given and nothing announced, at a check whose bits [7:0] are `check`. -/
def waitsAt (s : State) (check : Nat) : Option Run :=
  match (getPart s 0).run with
  | some r => if r.waiting.isSome && r.answer ≠ 0 && r.resume.isNone && r.seg % 256 == check then some r else none
  | none => none

/-- The late side of an announcement (R276, R519): the first exchange completed after the expected count, or the first
copy comes at or after R. -/
def announceLate (s : State) (r : Run) (res lead : Nat) : State :=
  let s := if r.epochs = 0 ∧ expectedAt s 0 r + lead < res then lateCheck s 0 else s
  if res ≤ now s then lateCheck (raiseOpen (count1 s 0x071 4) 0x071 7) 0 else s

/-- A valid copy for the check the member waits at is taken, once; one for another check raises `CHORUS_Q_BAD` (R518). A
member that waits at no check ignores it. -/
def takeCopy (s : State) (check low : Nat) (lead : Run → Nat) (act : State → Nat → State) : State :=
  match waitsAt s check with
  | some r =>
    let res := resumeCount s low
    let s := count1 s 0x071 2
    act (announceLate s r res (lead r + (if sysEn s then rgF s 0x071 0x058 23 0 else 0))) res
  | none =>
    match (getPart s 0).run with
    | some r => if r.waiting.isSome && r.seg % 256 != check then raiseOpen s 0x071 2 else s
    | none => s

/-- The member can take round words: a locked worker, or a manager that runs the bus (R32, R510). -/
def onBus (s : State) : Bool :=
  !warmActive s && !s.oos && ((role s == 1 && rgF s 0x071 0x04C 1 1 == 1) || (role s == 2 && rgF s 0x071 0x04C 0 0 == 1))

def execAnnContinue (check : BitVec 8) (low : BitVec 36) (s : State) : Host.Outcome State Fault Refusal :=
  guarded (onBus s) s (setRgF (takeCopy s check.toNat low.toNat (fun _ => 2048) (fun s r => takeContinue s 0 r)) 0x071 0x04C 11 8 1)
def execAnnEpoch (check : BitVec 8) (low : BitVec 36) (s : State) : Host.Outcome State Fault Refusal :=
  guarded (onBus s) s
    (setRgF (takeCopy s check.toNat low.toNat (fun _ => 2048 + lambda s 0) (fun s r => takeEpoch s 0 r)) 0x071 0x04C 11 8 2)
def execAnnReplay (check : BitVec 8) (low : BitVec 36) (s : State) : Host.Outcome State Fault Refusal :=
  guarded (onBus s) s (setRgF (takeCopy s check.toNat low.toNat (fun _ => 2048) (fun s r => takeReplay s 0 r)) 0x071 0x04C 11 8 3)

/-- ABANDON also ends the launch of a member that has not reached check j: it stops issuing at R (R690). -/
def execAnnAbandon (check : BitVec 8) (low : BitVec 36) (s : State) : Host.Outcome State Fault Refusal :=
  guarded (onBus s) s
    (let s := setRgF s 0x071 0x04C 11 8 4
     match (getPart s 0).run with
     | none => s
     | some r =>
       if r.waiting.isNone && r.seg % 256 == check.toNat && r.abandonAnn.isNone then
         takeAbandon (count1 s 0x071 2) 0 (resumeCount s low.toNat)
       else takeCopy s check.toNat low.toNat (fun _ => 2048) (fun s r => takeAbandon s 0 r))

/-! Violations and hangs. -/

/-- The unit an entry needs accepts it in an acycle (R345): its group has arrived, a feeder's links have room, a pass's feeds are
there, a wait is satisfied. -/
def unitAccepts (s : State) (t stream acy : Nat) (e : BitVec 128) : Bool :=
  let x := getTile s t
  let room := fun side => feederRoom x side (wShape (eWord e)) && decide (feederFrom x side (wShape (eWord e)) ≤ acy)
  let mate := fun side => x.feeds.any (fun f => passMate x side e f && decide (f.issue ≤ acy))
  decide ((getStrm x stream).fresh ≤ acy) && (eMark e || match stream with
    | 0 => room 0
    | 1 => room 1
    | 2 => mate 0 && mate 1
    | 4 => if eOpcode e = 9 ∧ 4 ≤ wOp (eWord e) then satisfied (wOp (eWord e)) (syncObj s (wObj (eWord e))).value (wSyncArg s t (eWord e))
        else true
    | _ => true)

/-- CONTRACT_VIOLATION (R349, R375, R376, R391). -/
def execContractViolation (t : TileIx) (stream : BitVec 3) (acy : Nat) (s : State) : Host.Outcome State Fault Refusal :=
  let t := t.toNat
  let st := stream.toNat
  let a := absAcy s t acy
  let due := match front s t st with
    | some e => some e
    | none => (unfetched s t st).head?
  match due with
  | none => skip s
  | some e =>
    let why := match front s t st with
      | none => some (3, 0)
      | some e => match (issueObstacles s t st e).find? (fun b => b.at_ a) with
        | some b => some (b.cause, b.detail)
        | none => if unitAccepts s t st a e then none else some (3, 0)
    match why with
    | none => skip s
    | some (c, dt) =>
      guarded (issuing s t && strict s t && !(getStrm (getTile s t) st).marked && eOffset e == acy) s
        (let p := tpage s t
         let s := if rgF s p 0x268 31 31 = 1 then s
           else setRg (setRg s p 0x268 (BitVec.ofNat 32 (eOp e + 2 ^ 24 * st + 2 ^ 27 * c + 2 ^ 31))) p 0x26C (BitVec.ofNat 32 dt)
         traise (updTile s t (fun x => { x with stopped := true })) t 12 (eOp e))

/-- A stream's lag in ticks (20 R673, R674); 0 in an exempt wait. -/
def streamLag (s : State) (t stream : Nat) : Nat :=
  let x := getTile s t
  let y := getStrm x stream
  let next := match y.q.head? with | some e => some e | none => (unfetched s t stream).head?
  match next with
  | none => 0
  | some e =>
    let atMarks := (List.range 5).all (fun i => (getStrm x i).marked || match (getStrm x i).q.head? with
      | some e => eMark e
      | none => (getStrm x i).ended)
    let far := stream == 4 && !eMark e && eOpcode e == 9 && decide (4 ≤ wOp (eWord e)) && oScope (syncObj s (wObj (eWord e))) != 0
    let replays := match (getPart s (partOf s t)).run with | some r => r.replayAnn | none => false
    if atMarks || far || replays || x.stopped || y.marked || y.ended then 0
    else now s - acyCount s t (eOffset e) - y.exempt

/-- The partition's schedule runs. -/
def hangRuns (s : State) (t : Nat) : Bool := match (getPart s (partOf s t)).run with | some r => r.begun | none => false

/-- No stream crossed the tolerance before this one, and none of a lower partition, tile or number in the same tick (R675). -/
def hangFirst (s : State) (t stream : Nat) : Bool :=
  let lag := streamLag s t stream
  ((List.range 128).filter (hangRuns s)).all (fun u => (List.range 5).all (fun i =>
    let m := streamLag s u i
    Nat.blt m lag || (m == lag && (Nat.blt t u || (t == u && Nat.ble stream i)))))

/-- HANG_DETECTED (20 R675). -/
def execHangDetected (t : TileIx) (stream : BitVec 3) (s : State) : Host.Outcome State Fault Refusal :=
  let t := t.toNat
  let p := partOf s t
  let info := BitVec.ofNat 32 (p + 256 * (t - firstTile s p) + 65536 * stream.toNat + 2 ^ 31)
  guarded (hangRuns s t && !warmActive s && Nat.blt (rgF s 0x002 0x040 19 0) (streamLag s t stream.toNat)
      && hangFirst s t stream.toNat) s
    (let s := if rgF s 0x002 0x044 31 31 = 1 then s else setRg s 0x002 0x044 info
     raise (count1 s 0x002 3) 0x002 0 info.toNat)

/-! Site moves (01 R18, R19; 19 R654, R656). -/

/-- A rotating self-test on a site is abandoned (17 R596). -/
def abandonRot (s : State) (site : Nat) : State :=
  if s.fc.rot.any (fun (r : Nat × Nat) => r.2 == site) then
    let s := { s with fc := { s.fc with rot := s.fc.rot.filter (fun (r : Nat × Nat) => r.2 ≠ site) } }
    count1 (setRgF s 0x000 0x054 (8 * (site / 34) + 7) (8 * (site / 34)) 0xFF) 0x000 2
  else s

/-- A logical tile moves to a site, its old site retired (R18, R20). -/
def moveTile (s : State) (t site : Nat) : State :=
  let old := siteOf s t
  let s := abandonRot s site
  let s := { s with
    map := { s.map with site := smSet siteDefault s.map.site t site }
    fc := { s.fc with shadows := s.fc.shadows.filter (fun h => h.site ≠ site), due := s.fc.due.filter (· ≠ t),
                      det := smSet (fun _ => []) s.fc.det t [] } }
  let s := retireSite s old
  let s := setRg s 0x004 0xD8 (BitVec.ofNat 32 (t + 256 * old + 65536 * site + 2 ^ 31))
  let s := updRun s (partOf s t) (fun r => { r with moving := r.moving.filter (· ≠ t) })
  raiseOpen (reloadMap s) 0x004 0

/-- A due move is served, or ends the device's service (R19, R656). -/
def serveMove (s : State) (t : Nat) : State :=
  let q := siteOf s t / 34
  match freeSites s q with
  | x :: _ => moveTile s t x
  | [] => raise (goOos s) 0x003 2 q

/-- The due moves that a step boundary of the partition lets be made: all with no schedule running, else those due when a replayed
segment 0 began (R18, R654). -/
def movable (s : State) (p : Nat) : List Nat :=
  s.fc.due.filter (fun t => match (getPart s p).run with | none => true | some r => r.moving.contains t)

/-- SITE_MOVE (R18, R19; 19 R654): at the step boundary, lowest logical tile of the quadrant first. -/
def execSiteMove (t : TileIx) (s : State) : Host.Outcome State Fault Refusal :=
  let t := t.toNat
  let l := movable s (partOf s t)
  guarded (l.contains t && l.all (fun u => u / 32 != t / 32 || Nat.ble t u)) s (serveMove s t)

end Sys2Proof.Machine
end

