-- ==== Sys2Proof/Machine/Lanes.lean ====
section
/-! DEFINITION. The Skink lanes' shared operations (09): vector elements, masks, types and the one step every lane
instruction takes. -/

namespace Sys2Proof.Machine

/-- Element width of a type code (R283). -/
def kWidth : Nat → Nat
  | 0 => 32 | 1 => 16 | 2 => 32 | 3 => 16 | _ => 8

/-- The floating-point format of a type code. -/
def kFmt (ty : Nat) : FFmt := if ty = 1 then fBF16 else fFP32
def kIsFp (ty : Nat) : Bool := ty == 0 || ty == 1
/-- Elements of a vector. -/
def kElems (ty : Nat) : Nat := 2048 / kWidth ty

/-- Element i of width w (R284). -/
def vElem (v : BitVec 2048) (w i : Nat) : Nat := v.toNat / 2 ^ (w * i) % 2 ^ w
/-- The vector of a list of w-bit elements, element 0 first. -/
def vOfElems (w : Nat) : List Nat → Nat
  | [] => 0
  | e :: es => e % 2 ^ w + 2 ^ w * vOfElems w es
def vReg (x : Tile) (i : Nat) : BitVec 2048 := smGet (fun _ => (0 : BitVec 2048)) x.vreg i
def mReg (x : Tile) (i : Nat) : BitVec 256 := smGet (fun _ => (0 : BitVec 256)) x.mreg i

/-- Element i of the destination is written (R289). -/
def kEnabled (x : Tile) (w i : Nat) : Bool := !kMaskEn w || (mReg x (kMask w)).getLsbD i

/-- The bytes of a vector, and a vector of bytes. -/
def vBytes (v : BitVec 2048) (n : Nat) : List Byte := leBytes n v.toNat
def vOfBytes (l : List Byte) : BitVec 2048 := BitVec.ofNat 2048 (leNat (l.take 256))

/-- The integer a code stands for. -/
def kInt (w : Nat) (uns : Bool) (c : Nat) : Int := if uns then (c % 2 ^ w : Nat) else signExt w c
def kMin (w : Nat) (uns : Bool) : Int := if uns then 0 else -((2 ^ (w - 1) : Nat) : Int)
def kMax (w : Nat) (uns : Bool) : Int := if uns then ((2 ^ w : Nat) : Int) - 1 else ((2 ^ (w - 1) : Nat) : Int) - 1

/-- An exact integer result wrapped or clamped, and whether it was clamped (R295). -/
def kFit (w : Nat) (uns sat : Bool) (v : Int) : Nat × KEv :=
  if sat && decide (v < kMin w uns ∨ kMax w uns < v) then
    (toBits w (if v < kMin w uns then kMin w uns else kMax w uns), { sat := true })
  else (toBits w v, {})

/-- Values in order, −0 below +0 (R292). -/
def xvLt (a b : XV) : Bool :=
  match a, b with
  | .nan, _ => false
  | _, .nan => false
  | .inf s, .inf t => s && !t
  | .inf s, _ => s
  | _, .inf t => !t
  | .fin s m, .fin t n => if m = 0 ∧ n = 0 then s && !t else decide ((if s then -m else m) < (if t then -n else n))

/-- Values equal, −0 equal to +0 (R293). -/
def xvEq (a b : XV) : Bool :=
  match a, b with
  | .inf s, .inf t => s == t
  | .fin s m, .fin t n => decide ((if s then -m else m) = (if t then -n else n))
  | _, _ => false

/-- The instructions that end a Skink shadow unit: STORE, STORE_LINE, OUTLIER_SELECT (19 R641). -/
def endsUnit (opcode : Nat) : Bool := opcode == 0x39 || opcode == 0x3B || opcode == 0x48

/-- What an issued lane or reduction instruction does at its acycle: on the tile, and on the site that shadows it (R313; 19 R644). -/
def skinkAct (t acy opcode : Nat) (act : State → State) (u : State) : State :=
  let u := tcount u t (if 0x40 ≤ opcode && opcode ≤ 0x45 then 0x49 else 0x48) 1
  twinStep u (act u) t acy (endsUnit opcode) act

/-- A lane or reduction instruction issues on the Skink stream: its entry, its counter, and what it does at its acycle of the
launch (R286, R313). -/
def skinkIssue (t acy : Nat) (opcode : Nat) (act : Nat → BitVec 128 → State → State) (s : State) : Host.Outcome State Fault Refusal :=
  issueFree s t 3 (absAcy s t acy) (fun e => eOpcode e == opcode)
    (fun e => skinkAct t (absAcy s t acy) opcode (act (absAcy s t acy) e))

/-- Every bit of the elements a list names. -/
def elemSel (ew : Nat) (l : List Bool) : Nat := vOfElems ew (l.map (fun b => if b then 2 ^ ew - 1 else 0))

/-- What a lane instruction writes into VD: the enabled elements' results (R289). -/
def laneResult (x : Tile) (w ew : Nat) (rs : List (Nat × KEv)) : Result :=
  .vreg (kVD w) (elemSel ew ((rs.zipIdx).map (fun r => kEnabled x w r.2))) (vOfElems ew (rs.map (fun r => r.1)))

/-- A whole vector written into VD. -/
def wholeV (w v : Nat) : Result := .vreg (kVD w) (2 ^ 2048 - 1) v

/-- A vector written into VD, the elements of the instruction's `TYPE` that the mask enables (R289). -/
def maskedV (x : Tile) (w v : Nat) : Result :=
  .vreg (kVD w) (elemSel (kWidth (kType w)) ((List.range (kElems (kType w))).map (kEnabled x w))) v

/-- The exceptions of the enabled elements, in element order; a masked-off element has none (R289, R294). -/
def laneEvents (x : Tile) (w : Nat) (rs : List (Nat × KEv)) : List KEv :=
  (rs.zipIdx).map (fun r => if kEnabled x w r.2 then r.1.2 else {})

/-- An element-wise instruction: `f` gives each element's code and exceptions from the word, the mask bit of `MASK` and
the elements of VA, VB and VC. -/
def laneStep (t : TileIx) (acy opcode lat : Nat) (f : Nat → Bool → Nat → Nat → Nat → Nat × KEv) (s : State) :
    Host.Outcome State Fault Refusal :=
  let t := t.toNat
  skinkIssue t acy opcode (fun acy e s =>
    let w := eWord e
    let x := getTile s t
    let ew := kWidth (kType w)
    let a := vReg x (kVA w)
    let b := vReg x (kVB w)
    let c := vReg x (kVC w)
    let m := mReg x (kMask w)
    let rs := (List.range (kElems (kType w))).map (fun i => f w (m.getLsbD i) (vElem a ew i) (vElem b ew i) (vElem c ew i))
    skinkEvents (setTile s t (launchResult x (acy + lat) (laneResult x w ew rs))) t (eOp e) opcode (acy + lat) (laneEvents x w rs)) s

/-- A compare: `f` gives each element's mask bit and exceptions (R289, R293). -/
def maskStep (t : TileIx) (acy opcode : Nat) (f : Nat → Nat → Nat → Bool × KEv) (s : State) :
    Host.Outcome State Fault Refusal :=
  let t := t.toNat
  skinkIssue t acy opcode (fun acy e s =>
    let w := eWord e
    let x := getTile s t
    let ew := kWidth (kType w)
    let n := kElems (kType w)
    let a := vReg x (kVA w)
    let b := vReg x (kVB w)
    let rs := (List.range n).map (fun i => f w (vElem a ew i) (vElem b ew i))
    let sel := natOfBits ((List.range 256).map (fun i => decide (n ≤ i) || kEnabled x w i))
    let evs := (rs.zipIdx).map (fun r => if kEnabled x w r.2 then r.1.2 else ({} : KEv))
    skinkEvents (setTile s t (launchResult x (acy + 2) (.mreg (kVD w % 8) sel (natOfBits (rs.map (fun r => r.1)))))) t
      (eOp e) opcode (acy + 2) evs) s

/-- An exact floating-point result rounded once into the type, with OVERFLOW when a finite result becomes infinite. -/
def kRoundTo (ty : Nat) (v : XV) : Nat × KEv :=
  let (c, o) := encodeWide (kFmt ty) .rne v
  (c, { overflow := o })

/-- FADD, FSUB, FMUL and FMA on exact values: `p` is the exact result, NaN when opposite infinities or 0 × ∞ arise; `zi`: a
product 0 × ∞ arose, whatever the other operand is (R291, R294). -/
def kArith (ty : Nat) (ops : List XV) (p : XV) (zi : Bool) : Nat × KEv :=
  if ops.any XV.isNan then (nanCode (kFmt ty), { nanIn := true, invalid := zi })
  else if p.isNan then (nanCode (kFmt ty), { invalid := true })
  else if p.isInf then ((encodeWide (kFmt ty) .rne p).1, {})
  else kRoundTo ty p

/-- The product of two values that are no NaN is 0 × ∞. -/
def zeroTimesInf (a b : XV) : Bool := (a.isZero && b.isInf) || (a.isInf && b.isZero)

def kDec (w c : Nat) : XV := decodeF (kFmt (kType w)) c

end Sys2Proof.Machine
end

