-- ==== Sys2Proof/Machine/Skink.lean ====
section
/-! DEFINITION. The Skink unit's element-wise, integer, logic, memory and random instructions, and `OUTLIER_SELECT`
(08 R255, 09 R286 to R296, 10 R321). -/

namespace Sys2Proof.Machine

/-! Floating point and compares. -/

def elFadd (w : Nat) (_ : Bool) (a b _ : Nat) : Nat × KEv :=
  kArith (kType w) [kDec w a, kDec w b] (xadd (kDec w a) (kDec w b)) false
def elFsub (w : Nat) (_ : Bool) (a b _ : Nat) : Nat × KEv :=
  kArith (kType w) [kDec w a, kDec w b] (xadd (kDec w a) (kDec w b).negate) false
def elFmul (w : Nat) (_ : Bool) (a b _ : Nat) : Nat × KEv :=
  kArith (kType w) [kDec w a, kDec w b] (xmul (kDec w a) (kDec w b)) (zeroTimesInf (kDec w a) (kDec w b))
def elFma (w : Nat) (_ : Bool) (a b c : Nat) : Nat × KEv :=
  kArith (kType w) [kDec w a, kDec w b, kDec w c] (xadd (xmul (kDec w a) (kDec w b)) (kDec w c))
    (zeroTimesInf (kDec w a) (kDec w b))

/-- The first of two codes, chosen by the type's order (R292). -/
def elPick (big : Bool) (w : Nat) (a b : Nat) : Nat × KEv :=
  let ty := kType w
  if kIsFp ty then
    if (kDec w a).isNan || (kDec w b).isNan then (nanCode (kFmt ty), { nanIn := true })
    else (if xvLt (kDec w a) (kDec w b) = big then b else a, {})
  else
    let i := kInt (kWidth ty) (kUns w) a
    let j := kInt (kWidth ty) (kUns w) b
    (if decide (i < j) = big then b else a, {})

def elMin (w : Nat) (_ : Bool) (a b _ : Nat) : Nat × KEv := elPick false w a b
def elMax (w : Nat) (_ : Bool) (a b _ : Nat) : Nat × KEv := elPick true w a b

/-- A compare of two codes from "less" and "equal"; `nan` is its answer for a NaN operand (R293). -/
def elCompare (f : Bool → Bool → Bool) (nan : Bool) (w : Nat) (a b : Nat) : Bool × KEv :=
  let ty := kType w
  if kIsFp ty then
    if (kDec w a).isNan || (kDec w b).isNan then (nan, { nanIn := true })
    else (f (xvLt (kDec w a) (kDec w b) && !xvEq (kDec w a) (kDec w b)) (xvEq (kDec w a) (kDec w b)), {})
  else
    let i := kInt (kWidth ty) (kUns w) a
    let j := kInt (kWidth ty) (kUns w) b
    (f (decide (i < j)) (decide (i = j)), {})

def execFadd (t : TileIx) (acy : Nat) (s : State) : Host.Outcome State Fault Refusal := laneStep t acy 0x01 4 elFadd s
def execFsub (t : TileIx) (acy : Nat) (s : State) : Host.Outcome State Fault Refusal := laneStep t acy 0x02 4 elFsub s
def execFmul (t : TileIx) (acy : Nat) (s : State) : Host.Outcome State Fault Refusal := laneStep t acy 0x03 4 elFmul s
def execFma (t : TileIx) (acy : Nat) (s : State) : Host.Outcome State Fault Refusal := laneStep t acy 0x04 4 elFma s
def execVmin (t : TileIx) (acy : Nat) (s : State) : Host.Outcome State Fault Refusal := laneStep t acy 0x05 2 elMin s
def execVmax (t : TileIx) (acy : Nat) (s : State) : Host.Outcome State Fault Refusal := laneStep t acy 0x06 2 elMax s
def execCmpEq (t : TileIx) (acy : Nat) (s : State) : Host.Outcome State Fault Refusal :=
  maskStep t acy 0x08 (elCompare (fun _ eq => eq) false) s
def execCmpLt (t : TileIx) (acy : Nat) (s : State) : Host.Outcome State Fault Refusal :=
  maskStep t acy 0x09 (elCompare (fun lt _ => lt) false) s
def execCmpLe (t : TileIx) (acy : Nat) (s : State) : Host.Outcome State Fault Refusal :=
  maskStep t acy 0x0A (elCompare (fun lt eq => lt || eq) false) s
def execCmpNe (t : TileIx) (acy : Nat) (s : State) : Host.Outcome State Fault Refusal :=
  maskStep t acy 0x0B (elCompare (fun _ eq => !eq) true) s

/-- SEL (R286). -/
def elSel (_ : Nat) (m : Bool) (a b _ : Nat) : Nat × KEv := (if m then a else b, {})
def execSel (t : TileIx) (acy : Nat) (s : State) : Host.Outcome State Fault Refusal := laneStep t acy 0x0C 2 elSel s

/-! Integer, shift and logic operations (R295, R296). -/

/-- An integer operation on the operands' values. -/
def elInt (f : Int → Int → Int) (w : Nat) (_ : Bool) (a b _ : Nat) : Nat × KEv :=
  let ew := kWidth (kType w)
  kFit ew (kUns w) (kSat w) (f (kInt ew (kUns w) a) (kInt ew (kUns w) b))

def execIadd (t : TileIx) (acy : Nat) (s : State) : Host.Outcome State Fault Refusal :=
  laneStep t acy 0x10 2 (elInt (· + ·)) s
def execIsub (t : TileIx) (acy : Nat) (s : State) : Host.Outcome State Fault Refusal :=
  laneStep t acy 0x11 2 (elInt (· - ·)) s
def execImul (t : TileIx) (acy : Nat) (s : State) : Host.Outcome State Fault Refusal :=
  laneStep t acy 0x12 3 (elInt (· * ·)) s

/-- A shift or rotate by the count of b modulo the width. -/
def elShift (f : Nat → Nat → Nat → Nat) (w : Nat) (_ : Bool) (a b _ : Nat) : Nat × KEv :=
  let ew := kWidth (kType w)
  (f ew a (b % ew) % 2 ^ ew, {})

def shiftLeft (_ a n : Nat) : Nat := a * 2 ^ n
def shiftRight (_ a n : Nat) : Nat := a / 2 ^ n
def shiftArith (w a n : Nat) : Nat := toBits w (Int.fdiv (signExt w a) ((2 ^ n : Nat) : Int))
def rotateLeft (w a n : Nat) : Nat := a * 2 ^ n + a / 2 ^ (w - n)

def execShl (t : TileIx) (acy : Nat) (s : State) : Host.Outcome State Fault Refusal :=
  laneStep t acy 0x18 2 (elShift shiftLeft) s
def execShrl (t : TileIx) (acy : Nat) (s : State) : Host.Outcome State Fault Refusal :=
  laneStep t acy 0x19 2 (elShift shiftRight) s
def execShra (t : TileIx) (acy : Nat) (s : State) : Host.Outcome State Fault Refusal :=
  laneStep t acy 0x1A 2 (elShift shiftArith) s
def execRotl (t : TileIx) (acy : Nat) (s : State) : Host.Outcome State Fault Refusal :=
  laneStep t acy 0x1B 2 (elShift rotateLeft) s

/-- A bitwise operation. -/
def elLogic (f : Nat → Nat → Nat) (w : Nat) (_ : Bool) (a b _ : Nat) : Nat × KEv := (f a b % 2 ^ kWidth (kType w), {})
/-- The ones' complement of a code of at most 32 bits. -/
def notCode (a : Nat) : Nat := 2 ^ 32 - 1 - a

def execVand (t : TileIx) (acy : Nat) (s : State) : Host.Outcome State Fault Refusal :=
  laneStep t acy 0x20 2 (elLogic (fun a b => a &&& b)) s
def execVor (t : TileIx) (acy : Nat) (s : State) : Host.Outcome State Fault Refusal :=
  laneStep t acy 0x21 2 (elLogic (fun a b => a ||| b)) s
def execVxor (t : TileIx) (acy : Nat) (s : State) : Host.Outcome State Fault Refusal :=
  laneStep t acy 0x22 2 (elLogic (fun a b => a ^^^ b)) s
def execVnot (t : TileIx) (acy : Nat) (s : State) : Host.Outcome State Fault Refusal :=
  laneStep t acy 0x23 2 (elLogic (fun a _ => notCode a)) s
def execVandn (t : TileIx) (acy : Nat) (s : State) : Host.Outcome State Fault Refusal :=
  laneStep t acy 0x24 2 (elLogic (fun a b => a &&& notCode b)) s

/-! Loads, stores, random words and outlier selection. -/

/-- LOAD (R286, R289). -/
def execVload (t : TileIx) (acy : Nat) (s : State) : Host.Outcome State Fault Refusal :=
  let t := t.toNat
  skinkIssue t acy 0x38 (fun acy e s =>
    let w := eWord e
    let off := 256 * (kImm w % 2 ^ 13)
    let x := getTile s t
    let v := vOfBytes (tsBytes x off 256)
    let ew := kWidth (kType w)
    let rs := (List.range (kElems (kType w))).map (fun i => (vElem v ew i, ({} : KEv)))
    tsCheck (setTile s t (launchResult x (acy + 4) (laneResult x w ew rs))) t off 256) s

/-- Bytes of VA stored at a tile-store offset; the pages stay pending until the bytes are seen, and a shadow unit ends
(R286, R344, R641). -/
def storeAct (t acy off n : Nat) (e : BitVec 128) (s : State) : State :=
  let x := getTile s t
  let stored := fun (x : Tile) => vBytes (vReg x (kVA (eWord e))) n
  let y := tsWrite x off (stored x)
  shadowUnit (setTile s t { y with pend := y.pend ++ hold (pagesOf off n) acy (some (acy + 3)) 0 (offAt x e) }) t 1 (eOp e)
    (stored x != stored (onTwin acy x))

/-- STORE. -/
def execVstore (t : TileIx) (acy : Nat) (s : State) : Host.Outcome State Fault Refusal :=
  skinkIssue t.toNat acy 0x39 (fun acy e s => storeAct t.toNat acy (256 * (kImm (eWord e) % 2 ^ 13)) 256 e s) s

/-- STORE_LINE. -/
def execVstoreLine (t : TileIx) (acy : Nat) (s : State) : Host.Outcome State Fault Refusal :=
  skinkIssue t.toNat acy 0x3B (fun acy e s => storeAct t.toNat acy (72 * (kImm (eWord e) % 2 ^ 15)) 72 e s) s

/-- The 64 words of RAND (R321). -/
def randWords (seed : DWord) (u stream purpose d : Nat) : List Nat :=
  let step := if purpose = 0 then 8 else if purpose = 1 then 2 else 1
  (List.range 64).map (fun l => (rngWord seed stream (u + step * l) d).toNat)

/-- RAND (R321, R328). -/
def execRand (t : TileIx) (acy : Nat) (s : State) : Host.Outcome State Fault Refusal :=
  let t := t.toNat
  skinkIssue t acy 0x3C (fun acy e s =>
    let w := eWord e
    let x := getTile s t
    let u := (vReg x (kVA w)).toNat % 2 ^ 128
    let ws := randWords (tseed s t) u (vElem (vReg x (kVB w)) 32 0) (kImm w % 4) (kImm w / 4 % 2 ^ 24)
    tcount (setTile s t (launchResult x (acy + 2) (wholeV w (vOfElems 32 ws)))) t 0x50 1) s

/-- The rank of a statistic: NaN and +∞ above every finite value (R255). -/
structure StatRank where
  top : Bool
  bot : Bool
  value : Rat
  deriving DecidableEq

def statRank (code : Nat) : StatRank :=
  match decodeF fFP32 code with
  | .nan => ⟨true, false, 0⟩
  | .inf n => ⟨!n, n, 0⟩
  | .fin s m => ⟨false, false, if s then -m else m⟩

/-- One rank is strictly above another. -/
def rankAbove (a b : StatRank) : Bool :=
  if a.top then !b.top else if b.top then false else if a.bot then false else if b.bot then true else decide (b.value < a.value)

/-- A candidate put into a list kept by descending rank; an equal one goes after (ties to the lower channel). -/
def rankInsert (k : Nat × StatRank) : List (Nat × StatRank) → List (Nat × StatRank)
  | [] => [k]
  | h :: l => if rankAbove k.2 h.2 then k :: h :: l else h :: rankInsert k l

/-- Channels put in ascending order. -/
def natInsert (k : Nat) : List Nat → List Nat
  | [] => [k]
  | h :: l => if k < h then k :: h :: l else h :: natInsert k l

/-- The candidates of a select record (R255). -/
def outlierCands (x : Tile) (r : Srec) : List (Nat × StatRank) :=
  let th := statRank r.theta
  ((List.range r.n).map (fun i => (r.b + i, statRank (tsNat x (r.statBase + 4 * (r.b + i)) 4)))).filter
    (fun k => rankAbove k.2 th)

/-- The candidates by descending rank. -/
def outlierSorted (x : Tile) (r : Srec) : List (Nat × StatRank) := (outlierCands x r).foldl (fun l k => rankInsert k l) []

/-- The table of a selection: the channels of the highest CAP candidates, in ascending order (R255). -/
def outlierTab (x : Tile) (r : Srec) : List Nat := ((outlierSorted x r).take r.cap).foldl (fun l k => natInsert k.1 l) []

/-- What an issued OUTLIER_SELECT does (R254, R255, R281). -/
def selectAct (t acy : Nat) (e : BitVec 128) (s : State) : State :=
  let x := getTile s t
  let r := srecAt s t (kImm (eWord e))
  let off := r.statBase + 4 * r.b
  let n := (outlierCands x r).length
  let y := launchResult x (acy + ceilDiv r.n 64 + 16) (.outliers (outlierTab x r) r.cap)
  let s := setTile s t { y with readers := x.readers ++ hold (pagesOf off (4 * r.n)) acy (some (acy + ceilDiv r.n 64)) 0 (offAt x e) }
  let s := tsCheck s t off (4 * r.n)
  let s := if n ≤ r.cap then s else tcount (traise s t 9 (eOp e)) t 0x40 (n - r.cap)
  shadowUnit s t 1 (eOp e) (outlierTab x r != outlierTab (onTwin acy x) r)

/-- OUTLIER_SELECT (R254, R255, R281, R731). -/
def execOutlierSelect (t : TileIx) (acy : Nat) (s : State) : Host.Outcome State Fault Refusal :=
  skinkIssue t.toNat acy 0x48 (selectAct t.toNat) s

end Sys2Proof.Machine
end

