-- ==== Sys2Proof/Machine/WordCheck.lean ====
section
/-! DEFINITION. What the device refuses of a single instruction word, record or Skink stream when it loads an image
(07 R234; 08 R246, R252; 09 R287, R288, R306, R321; 11 R336 to R343, R363, R731). -/

namespace Sys2Proof.Machine

/-! Skink words (R285 to R287). -/

/-- What a Skink operation uses: its types, latency, destination (0 none, 1 vector, 2 mask, 3 a
vector register that this word leaves alone), sources among VA, VB, VC,
the element mask, `ROUND`, `SAT`, `UNSIGNED`, and the immediate bits. -/
structure SkUse where
  types : List Nat
  lat : Nat
  dest : Nat := 1
  va : Bool := true
  vb : Bool := false
  vc : Bool := false
  masked : Bool := true
  round : Bool := false
  sat : Bool := false
  uns : Bool := false
  imm : Nat := 0

def kFloat (ty : Nat) : Bool := ty < 2
def allTypes : List Nat := [0, 1, 2, 3, 4]
def intTypes : List Nat := [2, 3, 4]

/-- The operation of a word (R286), its conditional fields as the word has them. -/
def skUse (w : Nat) : Option SkUse :=
  let ty := kType w
  let imm := kImm w
  match eOpcodeOf w with
  | 0x01 => some { types := [0, 1], lat := 4, vb := true }
  | 0x02 => some { types := [0, 1], lat := 4, vb := true }
  | 0x03 => some { types := [0, 1], lat := 4, vb := true }
  | 0x04 => some { types := [0, 1], lat := 4, vb := true, vc := true }
  | 0x05 => some { types := allTypes, lat := 2, vb := true, uns := !kFloat ty }
  | 0x06 => some { types := allTypes, lat := 2, vb := true, uns := !kFloat ty }
  | 0x08 => some { types := allTypes, lat := 2, dest := 2, vb := true, uns := !kFloat ty }
  | 0x09 => some { types := allTypes, lat := 2, dest := 2, vb := true, uns := !kFloat ty }
  | 0x0A => some { types := allTypes, lat := 2, dest := 2, vb := true, uns := !kFloat ty }
  | 0x0B => some { types := allTypes, lat := 2, dest := 2, vb := true, uns := !kFloat ty }
  | 0x0C => some { types := allTypes, lat := 2, vb := true, masked := false }
  | 0x10 => some { types := intTypes, lat := 2, vb := true, sat := true, uns := true }
  | 0x11 => some { types := intTypes, lat := 2, vb := true, sat := true, uns := true }
  | 0x12 => some { types := intTypes, lat := 3, vb := true, sat := true, uns := true }
  | 0x18 => some { types := intTypes, lat := 2, vb := true }
  | 0x19 => some { types := intTypes, lat := 2, vb := true }
  | 0x1A => some { types := intTypes, lat := 2, vb := true }
  | 0x1B => some { types := intTypes, lat := 2, vb := true }
  | 0x20 => some { types := allTypes, lat := 2, vb := true }
  | 0x21 => some { types := allTypes, lat := 2, vb := true }
  | 0x22 => some { types := allTypes, lat := 2, vb := true }
  | 0x23 => some { types := allTypes, lat := 2 }
  | 0x24 => some { types := allTypes, lat := 2, vb := true }
  | 0x28 =>
    let d := bits imm 2 0
    some { types := allTypes, lat := 3, vb := kRound w, round := ty == 0 && d == 1, sat := !kFloat ty && !kFloat d,
           uns := !kFloat ty || !kFloat d, imm := 0x1F }
  | 0x29 =>
    some { types := [0], lat := 6, vb := kRound w, vc := bit imm 17, round := true, imm := 0x3FF07 }
  | 0x2A => some { types := [0], lat := 4, imm := 0xF }
  | 0x30 => some { types := [0, 1], lat := 8 }
  | 0x31 => some { types := [0, 1], lat := 8 }
  | 0x32 => some { types := [0, 1], lat := 8 }
  | 0x33 => some { types := [0, 1], lat := 8 }
  | 0x38 => some { types := allTypes, lat := 4, va := false, imm := 0x1FFF }
  | 0x39 => some { types := allTypes, lat := 3, dest := 0, masked := false, imm := 0x1FFF }
  | 0x3B => some { types := [0], lat := 3, dest := 0, masked := false, imm := 0x7FFF }
  | 0x3C => some { types := [0], lat := 2, vb := true, masked := false, imm := 0x3FFFFFF }
  | 0x48 => some { types := [0], lat := 0, dest := 0, va := false, masked := false, imm := 0x3FFFFFF }
  | c =>
    if 0x40 ≤ c ∧ c ≤ 0x45 then
      some { types := [0, 2], lat := 8, dest := if bit imm 1 then 1 else 3, masked := false, uns := !kFloat ty,
             imm := if bit imm 7 then 0xFF else 0x8F }
    else none
where eOpcodeOf (w : Nat) : Nat := bits w 7 0

/-- A scale byte breaks R246. -/
def scaleBad (b : Nat) : Bool := (bit b 0 && bits b 3 1 != 0) || (!bit b 0 && bits b 7 4 != 0)

/-- The fields of a conversion or line operation beyond their widths (R297, R300, R301, R246, R321, R287). -/
def skImmBad (w : Nat) : Bool :=
  let imm := kImm w
  match bits w 7 0 with
  | 0x28 =>
    let d := bits imm 2 0
    let p := bits imm 4 3
    let a := kWidth (kType w)
    let b := kWidth d
    decide (4 < d) || (if a = b then p != 0 else if b < a then decide (a / b ≤ p) else decide (b / a ≤ p))
  | 0x29 =>
    let f := bits imm 2 0
    decide (4 < f) || (perLine f == 128 && kVA w % 2 == 1) || scaleBad (bits imm 15 8)
  | 0x2A => decide (4 < bits imm 2 0) || (bit imm 3 && perLine (bits imm 2 0) != 128)
  | 0x3B => decide (29126 < bits imm 14 0)
  | 0x3C => bits imm 1 0 == 3
  | _ => false

/-- A Skink word is refused (R287). -/
def skWordBad (w : Nat) : Bool :=
  match skUse w with
  | none => true
  | some u =>
    !(u.types.contains (kType w))
    || (u.dest == 0 && kVD w != 0) || (u.dest == 2 && 8 ≤ kVD w)
    || (!u.va && kVA w != 0) || (!u.vb && kVB w != 0) || (!u.vc && kVC w != 0)
    || (!u.masked && kMaskEn w) || (bits w 7 0 != 0x0C && !kMaskEn w && kMask w != 0)
    || (!u.round && kRound w) || (!u.sat && kSat w) || (!u.uns && kUns w)
    || (Nat.land (kImm w) u.imm != kImm w) || skImmBad w

/-! A stream's registers and chains (R288, R306). -/

/-- Registers a word reads and writes: V0 to V31 as 0 to 31, M0 to M7 as 32 to 39. -/
def skReads (w : Nat) : List Nat :=
  match skUse w with
  | none => []
  | some u =>
    let c := bits w 7 0
    (if u.va then [kVA w] else []) ++ (if u.vb then [kVB w] else []) ++ (if u.vc then [kVC w] else [])
    ++ (if kMaskEn w || c == 0x0C then [32 + kMask w] else [])
    ++ (if c == 0x29 && perLine (bits (kImm w) 2 0) == 128 then [kVA w + 1] else [])
    ++ (if 0x40 ≤ c && c ≤ 0x45 && bit (kImm w) 7 then [32 + bits (kImm w) 6 4] else [])

def skWrites (w : Nat) : List Nat :=
  match skUse w with
  | none => []
  | some u => if u.dest = 1 then [kVD w] else if u.dest = 2 then [32 + kVD w % 8] else []

def isRed (w : Nat) : Bool := 0x40 ≤ bits w 7 0 && bits w 7 0 ≤ 0x45

/-- A word leaves part of its destination as it was (R289, R297). -/
def skPartial (w : Nat) : Bool := kMaskEn w || (bits w 7 0 == 0x28 && decide (kElems (kType w) < kElems (bits (kImm w) 2 0)))

/-- The acycle by which the producers of a register's value have written it: the newest, and older ones as far as the newer
write a part only. -/
def producersDue (r : Nat) : List (Nat × Nat × Bool) → Nat
  | [] => 0
  | (q, d, part) :: l => if q = r then (if part then max d (producersDue r l) else d) else producersDue r l

/-- What a Skink stream's check carries from entry to entry: results due as (register, acycle, partial), the acycle at which an
`OUTLIER_SELECT` ends, the acycles of the last lane and reduction instructions, and the open chains as
(chain, opcode, type, vectors). -/
structure SkScan where
  due : List (Nat × Nat × Bool) := []
  selEnd : Nat := 0
  lane : Option Nat := none
  red : Option Nat := none
  chains : List (Nat × Nat × Nat × Nat) := []

/-- One Skink entry at a planned acycle: none when it is refused. `lat`: its latency. -/
def skScan (st : SkScan) (at_ w lat : Nat) : Option SkScan :=
  let red := isRed w
  let early := (skReads w).any (fun r => decide (at_ < producersDue r st.due))
  let clash := (skWrites w).any (fun r => st.due.any (fun d => d.1 == r && d.2.1 == at_ + lat))
  let busy := if red then st.red == some at_ else st.lane == some at_ || decide (at_ < st.selEnd)
  let ch := bits (kImm w) 3 2
  let open_ := st.chains.find? (fun c => c.1 == ch)
  let vecs := if bit (kImm w) 0 then some 1
    else match open_ with
      | some (_, c, ty, n) => if c = bits w 7 0 ∧ ty = kType w then some (n + 1) else none
      | none => none
  let chainBad := red && (match vecs with | some n => decide (33554432 < n) | none => true)
  if early || clash || busy || chainBad then none
  else
    let st := { st with due := (skWrites w).map (fun r => (r, at_ + lat, skPartial w)) ++ st.due }
    if red then
      let rest := st.chains.filter (fun c => !(c.1 == ch))
      some { st with red := some at_, chains := if bit (kImm w) 1 then rest else (ch, bits w 7 0, kType w, vecs.getD 1) :: rest }
    else some { st with lane := some at_, selEnd := if bits w 7 0 = 0x48 then at_ + lat else st.selEnd }

/-! Records. -/

/-- The product of a descriptor's sizes (R322). -/
def dVolume (d : BitVec 1024) : Nat := ((List.range (dRank d)).map (dSize d)).foldl (· * ·) 1

/-- A feed is refused by itself (R155, R219, R234, R246, R322): a feed with `PATH` 00b rounds nothing, whatever its `ROUND`. -/
def feedBad (side : Nat) (live : Bool) (d : BitVec 1024) (f : Fcb) : Bool :=
  let fmt := dFormat d
  let n := rotN f.rot
  let k0 := f.start.getD f.kDim 0
  !f.resZero || !live || dAccess d == 1 || (Fmt.ofCode fmt).isNone
  || f.path == 3 || f.stats == 3 || 4 < f.rot || !([0, 3, 4].contains f.qformat)
  || f.kDim == f.laneDim || dRank d ≤ f.kDim || dRank d ≤ f.laneDim
  || (List.range (dRank d)).any (fun i => i != f.laneDim && dSize d i ≤ f.start.getD i 0)
  || (dNarrow d && (f.kDim != dKdim d || f.path != 0))
  || (fmt == 9 && f.path == 0) || (fmt == 8 && f.path == 1)
  || (n != 0 && ((!dNarrow d && f.path != 2) || dSparse d || k0 % n != 0 || f.klen % n != 0
        || (dNarrow d && dSize d (dKdim d) % n != 0)))
  || (f.expand == 1 && fmt != 2) || (2 ≤ f.expand && fmt != 1 && fmt != 2)
  || (f.stats != 0 && 65536 < k0 + f.klen)
  || scaleBad f.scale || (f.sr && f.path != 0 && 2 ^ 104 ≤ dVolume d)
  || (side == 1 && dSparse d)

/-- An array record is refused with a shape (R340, R246, R322): a drain to FP32 rounds nothing stochastically (R132). -/
def arecBad (live : Bool) (d : BitVec 1024) (a : Arec) (shape : Nat) : Bool :=
  let e := perLine (dFormat d)
  let p0 := a.start.getD a.colDim 0 % e
  let rows := feedLanes 0 shape
  let wide := blockWidth shape
  let need := 72 * ceilDiv (p0 + wide) e
  !a.resZero || !live || a.rowDim == a.colDim || dRank d ≤ a.rowDim || dRank d ≤ a.colDim
  || (dNarrow d && (a.colDim != dKdim d || p0 % 32 != 0)) || (Fmt.ofCode (dFormat d)).isNone
  || a.tsOff % 72 != 0 || a.pitch % 72 != 0 || a.pitch < need
  || tsSize < a.tsOff + (rows - 1) * a.pitch + need
  || (a.saEn && tsSize < a.saOff + 4 * rows) || (a.sbEn && tsSize < a.sbOff + 4 * wide)
  || (a.orsEn && tsSize < a.orsOff + 4 * rows)
  || scaleBad a.scale || (a.sr && dFormat d != 9 && 2 ^ 104 ≤ dVolume d)

/-- A select record is refused (R731). -/
def srecBad (r : Srec) : Bool :=
  !r.resZero || 32 < r.cap || r.n == 0 || 65536 < r.n || 65536 < r.b + r.n || r.statBase % 4 != 0
  || tsSize < r.statBase + 4 * (r.b + r.n)

/-- A dispatch record is refused (R363). -/
def drecBad (r : Drec) : Bool :=
  !r.resZero || 262144 < r.e * r.cap || 256 < r.occBase + r.e || (r.policy == 1 && r.e ≤ r.overflow)
  || r.n == 0 || 65536 < r.n || r.k == 0 || 8 < r.k || r.e == 0 || 256 < r.e || r.cap == 0 || 65536 < r.cap
  || tsSize < r.assign + 4 * r.n * r.k || tsSize < r.index + 4 * r.e * r.cap
  || tsSize < r.drop + ceilDiv (r.n * r.k) 8

/-- A move's run is refused against its descriptor (R343, R446). -/
def runBad (d : BitVec 1024) (m : Mrec) (hint : Nat) : Bool :=
  let e : Int := perLine (dFormat d)
  decide (m.first < dMinLine d) || decide (dMaxLine d < m.first + m.count - 1)
  || (dIdxEn d && (hint == 3 || dStride d (dIdxDim d) % e != 0
        || (List.range m.count).any (fun i => 1 < (linePositions d (dIdxDim d) (m.first + i)).length)))

/-- A move word's bits that its code does not name are zero, and its code exists (R341, R528). -/
def moveWordOk (w : Nat) : Bool :=
  match bits w 7 0 with
  | 1 => bits w 11 10 == 0 && bits w 63 36 == 0
  | 2 => bits w 11 10 == 0 && bits w 63 36 == 0
  | 3 => bits w 63 36 == 0
  | 4 => bits w 31 10 == 0 && bits w 63 53 == 0
  | 5 => bits w 31 12 == 0 && bits w 63 53 == 0
  | 6 => bits w 31 16 == 0 && bits w 63 53 == 0
  | 7 => bits w 31 31 == 0 && bits w 63 40 == 0
  | 8 => bits w 11 8 == 0 && bits w 63 36 == 0
  | 9 => bits w 31 28 == 0
  | _ => false

end Sys2Proof.Machine
end

