-- ==== Sys2Proof/Machine/ImageCheck.lean ====
section
/-! DEFINITION. Stage 6 of an image load (12 R387): every refusal that 04 to 15 and 19 state for a loaded image, and the
dry run of its schedules under the latency table and the arrival bounds (11 R347, R356, R357). Everything here reads a state
in which the image and its descriptors already stand as if loaded. -/

namespace Sys2Proof.Machine

/-- Root cycles per acycle of a mode (R333), the tier F bound (R353), and the acycles of R651. -/
def modeDiv (m : Nat) : Nat := if m = 2 then 4 else if m = 1 then 5 else 6
def boundF (m : Nat) : Nat := arrivalBound m 0 false
def dupAcycles (m : Nat) : Nat := if m = 2 then 8400 else if m = 1 then 6720 else 5600

/-- The five streams of a tile. -/
def planTile (s : State) (p m : Nat) (member : Bool) (lt : Nat) : List (List PEnt) :=
  (List.range 5).map (planStream s p m member lt)

/-! Marks and offsets (R331, R332, R335, R391). -/

/-- The `OFFSET`s of a stream's epoch points. -/
def epochOffs (l : List PEnt) : List Nat := (l.filter (fun n => eIsEpoch n.e)).map (fun n => n.off)

/-- Consecutive entries rise, but for a lane and a reduction instruction at one `OFFSET` (R288, R335). -/
def risingBad : List PEnt → Bool
  | a :: b :: l =>
    (a.seg == b.seg && (decide (b.off < a.off) || (b.off == a.off &&
      !(a.isOf 3 && b.isOf 3 && isRed a.w != isRed b.w)))) || risingBad (b :: l)
  | _ => false

def streamBad (m checks : Nat) (eps : List Nat) (l : List PEnt) : Bool :=
  (match l.getLast? with | none => true | some n => !eIsEnd n.e)
  || l.dropLast.any (fun n => eMark n.e && !eIsEpoch n.e) || l.any (fun n => eMark n.e && eWord n.e != 0)
  || epochOffs l != eps || eps.length != checks || risingBad l
  || l.any (fun n => n.seg != 0 && n.off < boundF m)

/-! Expected counts (R271, R360, R412, R651). -/

/-- Root cycles from a segment's latest acycle 0 to its check's expected count. -/
def checkRoom (s : State) (p m : Nat) (member : Bool) (j : Nat) : Int :=
  8 * ((planT s p m j : Int) - planStart s p m member j - alignStep m + 1)

/-- A check comes too soon after its epoch point (R360, R651). -/
def timingBad (s : State) (p m : Nat) (member : Bool) (eps : List Nat) : Bool :=
  (List.range eps.length).any (fun j =>
    let e := eps.getD j 0
    decide (checkRoom s p m member j < (e + 169) * modeDiv m)
    || (bit (checkT s p m j) 63 && decide (checkRoom s p m member j < (e + dupAcycles m) * modeDiv m)))

/-- The commit checks of a mode (R412). -/
def commitsOf (s : State) (p m : Nat) : List Nat := (List.range (checksOf s p m)).filter (fun j => bit (checkT s p m j) 63)

/-- The commit checks of the image's modes disagree, or one mode has more than one (R412). -/
def commitBad (s : State) (p : Nat) (modes : List Nat) : Bool :=
  let cs := modes.map (commitsOf s p)
  cs.any (fun c => 1 < c.length) || cs.any (fun c => c != cs.headD [])

/-! K passes, planned. -/

/-- An array entry with its two feeds: its array steps and outlier step at the rung of its first attempt. -/
structure PPass where
  k : PEnt
  fr : PEnt
  fc : PEnt
  steps : Nat
  o : Nat

/-- The feeds of an entry as the tile would start them. -/
def PEnt.feed (n : PEnt) (rung : Nat) : FeedSt := { feedOfEntry n.st n.e with rung := rung }

/-- The array steps of a pair of feeds at a rung; none where the rate class has no sparse form (R115). -/
def pairSteps (s : State) (t : Nat) (fr fc : PEnt) (rung : Nat) : Option Nat :=
  let a := mkFeedCtx s t (fr.feed rung) [] []
  let b := mkFeedCtx s t (fc.feed rung) [] []
  if dSparse a.d && (a.kind == 5 || b.kind == 5) then none
  else some (ceilDiv a.f.klen (stepLenOf a.kind b.kind (dSparse a.d)))

/-- Array entries with the m-th feeds of their operation number (R338). -/
def planPasses (s : State) (t : Nat) (ss : List (List PEnt)) : List PPass :=
  let ks := (ss.getD 2 []).filter (fun n => n.isOf 2)
  (ks.zipIdx).filterMap (fun (k, i) =>
    let x := eOp k.e
    let m := countP (fun (n : PEnt) => eOp n.e == x) (ks.take i)
    let nth := fun st => (((ss.getD st []).filter (fun n => n.isOf st && eOp n.e == x))[m]?)
    match nth 0, nth 1 with
    | some fr, some fc =>
      some { k := k, fr := fr, fc := fc, steps := (pairSteps s t fr fc 0).getD 0,
             o := if (precAt s t (wPrec k.w)).cap = 0 then 0 else 1 }
    | _, _ => none)

/-- Output blocks: runs of passes that end with `LAST` (R732). -/
def planBlocks : List PPass → List PPass → List (List PPass)
  | acc, [] => if acc.isEmpty then [] else [acc.reverse]
  | acc, q :: l => if wLast q.k.w then (q :: acc).reverse :: planBlocks [] l else planBlocks (q :: acc) l

/-- A pass's swap if it is its block's last, and the acycle its last step is presented. -/
def PPass.swap (q : PPass) : Nat := q.k.at_ + arrayFill (wShape q.k.w) + q.steps + q.o
def PPass.presented (q : PPass) : Nat := q.k.at_ + q.steps - 1
/-- The output descriptor, drain completion and verdict of a block's last pass (R351). -/
def PPass.out (s : State) (t : Nat) (q : PPass) : BitVec 1024 := tdesc s t (arecAt s t (wFcb q.k.w)).outDesc
def PPass.drained (s : State) (t : Nat) (q : PPass) : Nat := q.swap + 64 + (if dNarrow (q.out s t) then 9 else 6)
def PPass.bf16 (s : State) (t : Nat) (q : PPass) : Bool := pairBf16 s t (q.fr.feed 0) (q.fc.feed 0)

/-- Consecutive passes leave each other the array, and consecutive swaps are 65 acycles apart (R150, R345, R352). -/
def spacingBad : List PPass → Bool
  | a :: b :: l =>
    decide (b.k.at_ < a.k.at_ + a.steps + a.o + (if wLast a.k.w then 1 else 0)) || spacingBad (b :: l)
  | _ => false

def swapsBad : List PPass → Bool
  | a :: b :: l => decide (b.swap < a.swap + 65) || swapsBad (b :: l)
  | _ => false

/-- The live descriptor of a feed control block or record. -/
def liveDesc (s : State) (t n : Nat) : Bool := (getDesc s (partOf s t) n).isSome

/-- One K pass is refused (R115, R234, R259, R322, R336 to R340). -/
def passBad (s : State) (t recSize : Nat) (q : PPass) : Bool :=
  let w := q.k.w
  let shape := wShape w
  let inRec := fun off n => off + n ≤ recSize
  let fOk := fun (n : PEnt) => n.code == 1 && bits n.w 11 10 == 0 && bits n.w 63 36 == 0 && wShape n.w == shape
    && inRec (64 * wFcb n.w) 64
  let f0 := fcbAt s t (wFcb q.fr.w)
  let f1 := fcbAt s t (wFcb q.fc.w)
  let d0 := tdesc s t f0.desc
  let d1 := tdesc s t f1.desc
  let c := (precAt s t (wPrec w)).cap
  let a := arecAt s t (wFcb w)
  !(q.k.code == 0x10 && bits w 11 11 == 0 && bits w 63 60 == 0 && shape != 3 && fOk q.fr && fOk q.fc)
  || !inRec (64 * wFcb w) 64 || (match wPrec w with | some o => !inRec (32 * o) 32 | none => false)
  || feedBad 0 (liveDesc s t f0.desc) d0 f0 || feedBad 1 (liveDesc s t f1.desc) d1 f1
  || f0.rot != f1.rot || f0.klen != f1.klen || (f0.sr && f1.sr && f0.stream == f1.stream)
  || q.fr.seg != q.k.seg || q.fc.seg != q.k.seg
  || q.fr.off + feedLatency d0 f0 != q.k.off || q.fc.off + feedLatency d1 f1 != q.k.off
  || (pairSteps s t q.fr q.fc 0).isNone
  || (c != 0 && (f0.rot != 0 || dSparse d0 || (f0.path != 2 && f1.path != 2) || (f0.stats == 0 && f1.stats == 0)
        || q.steps < 64))
  || (wLast w && arecBad (liveDesc s t a.outDesc) (tdesc s t a.outDesc) a shape)

/-- One output block is refused (R252, R271, R339, R732). -/
def blockBad (s : State) (t p m : Nat) (b : List PPass) : Bool :=
  match b.getLast? with
  | none => false
  | some q =>
    let r := precAt s t (wPrec q.k.w)
    let costAt := fun rung =>
      let ss := b.map (fun y => pairSteps s t y.fr y.fc rung)
      if ss.any Option.isNone then none
      else some (max ((ss.map (fun x => x.getD 0)).foldl (· + ·) 0 + (if r.cap = 0 then 0 else b.length) + 1) 65)
    let costBad := fun rung cost => decide (rung ≤ r.top) &&
      (costAt rung != some cost || decide (8 * lambdaOf s p m < cost * modeDiv m))
    !wLast q.k.w || b.any (fun y => y.k.seg != q.k.seg)
    || b.any (fun y => recAt s t (64 * wFcb y.k.w) 64 != recAt s t (64 * wFcb q.k.w) 64 || wPrec y.k.w != wPrec q.k.w)
    || !r.resZero || 32 < r.cap || r.top == 3 || costBad 1 r.costFp8 || costBad 2 r.costBf16

/-- The three streams hold the same entries for every operation number (R338). -/
def pairingBad (ss : List (List PEnt)) : Bool :=
  let ops := fun st => ((ss.getD st []).filter (fun n => n.isOf st)).map (fun n => eOp n.e)
  let all := ops 0 ++ ops 1 ++ ops 2
  all.any (fun x => (ops 0).count x != (ops 2).count x || (ops 1).count x != (ops 2).count x)

/-! Moves. -/

/-- One move-stream entry is refused by itself (R341 to R343, R363, R419, R446, R482, R528). -/
def moveBad (s : State) (t recSize : Nat) (relaxed : Bool) (commit : Option Nat) (n : PEnt) : Bool :=
  let w := n.w
  let inRec := fun off k => off + k ≤ recSize
  let hint := wHint w
  let m := mrecAt s t (wRec w)
  let d := tdesc s t m.desc
  let live := liveDesc s t m.desc
  let area := (72 + idxBytes d) * m.count
  let common := !inRec (64 * wRec w) 64 || !m.resZero || m.count == 0 || 29127 < m.count || m.ts % 72 != 0
  !moveWordOk w ||
  match n.code with
  | 1 => common || !m.resZeroMove || !live || !dIsRead d || runBad d m hint || tsSize < m.ts + area
  | 2 => common || !m.resZeroMove || !live || !dIsWrite d || runBad d m hint || tsSize < m.ts + area
      || (match commit with | some c => decide (n.seg ≤ c) && (dAccess d == 2 || dScatterAdd d) | none => false)
  | 3 => common
      || (if m.srcTs then m.desc != 0 || tsSize < m.ts + 72 * m.count
          else !live || !dIsRead d || runBad d m hint || (bit w 10 && dFormat d != 8 && dFormat d != 9))
      || (routeOf s m.destDev).isNone || m.destDev == devNum s || m.hops == 0
      || (bit w 11 && (!bit w 10 || !relaxed)) || 2 ^ (if m.target then 7 else 20) ≤ m.tgt
  | 4 => decide (tsSize < wTs w + 256)
  | 5 => false
  | 6 => decide (tsSize < wTs w + 4)
  | 7 => !liveDesc s t (bits w 27 8)
  | 8 => !inRec (32 * wRec w) 32 || drecBad (drecAt s t (wRec w))
  | _ =>
    let o := syncObj s (wObj w)
    !inRec (8 * bits w 63 32) 8 || oType o == 0 || oType o == 4 || oPart o != partOf s t
    || !(1 ≤ wOp w && wOp w ≤ 6) || !opAllowed (oType o) (wOp w)

/-! Memory accesses of the partition (R356, R357, R446). -/

/-- A line read after a DROP_AFTER_USE read of it with no write between: the tile of the later read (R446). Lines of indexed moves,
which the image does not fix, take no part. -/
def dropBad (accs : List MAcc) : Option Nat :=
  let l := accs.filter (fun a => a.known)
  (l.filter (fun d => !d.write && d.hint == 3)).findSome? (fun d =>
    (l.find? (fun r => !r.write && r.addr == d.addr && (decide (d.key < r.key) || (r.key == d.key && r.tile != d.tile)) &&
      !(l.any (fun w => w.write && w.addr == d.addr && decide (d.key < w.key) && decide (w.key < r.key))))).map (fun r => r.tile))

/-- The lines a tile's schedule fetches read, with the ticks at which they are requested (R391); a segment's early groups
at the preceding epoch point, segment 0's at the arming, which is taken as a window of its own. -/
def fetchAccs (s : State) (p t m lt : Nat) (member : Bool) (eps : List Nat) : List MAcc :=
  (List.range 5).flatMap (fun st =>
    let l := planStream s p m member lt st
    let base := match (getPart s p).img with | some g => g.base + (streamDir s p m lt st).1 | none => 0
    (List.range (ceilDiv l.length 36)).flatMap (fun g =>
      match l[36 * g]? with
      | none => []
      | some n =>
        let tick := if n.off < 4096 then
            (if n.seg = 0 then 0 else 4096 + planStart s p m member (n.seg - 1) + ticksOf m (eps.getD (n.seg - 1) 0))
          else 4096 + planStart s p m member n.seg + ticksOf m (n.off - 4096)
        (List.range 8).map (fun i =>
          { key := 0, tick := tick, tile := t, write := false, hint := 0, addr := lineAddr (base + 576 * g) + 72 * i })))

/-- More accesses than a limit in some window of 1,024 fcycles whose resource a function names, over the windows that begin with
one of them: accesses are (fcycle, resource) (R355). -/
def windowOver (limit : Nat) (l : List (Nat × Nat)) : Bool :=
  l.any (fun a => limit < countP (fun (b : Nat × Nat) => b.2 == a.2 && Nat.ble a.1 b.1 && Nat.blt b.1 (a.1 + 1024)) l)

/-- The traffic of an image exceeds a planning limit (R355, R356, R430): a read planned as a hit is traffic of its slice, any other
access of its stack's channel. -/
def trafficBad (moves fetches : List MAcc) (sends : List (Nat × Nat)) : Bool :=
  let moves := moves.map (fun a => { a with tick := a.tick + 4096 })
  let hit := fun (a : MAcc) => a.known && !a.write && cachePlanned moves a.addr a.key
  let chan := fun (a : MAcc) => (fcyclesOf a.tick, 1000 * (stackOf a.addr + (if isS a.addr then 8 else 0)) + channelOf a.addr)
  let stack := moves.filter (fun a => !hit a) ++ fetches
  windowOver 921 ((stack.filter (fun a => !isS a.addr)).map chan)
  || windowOver 819 ((stack.filter (fun a => isS a.addr)).map chan)
  || windowOver 32768 ((moves.filter hit).map (fun a => (fcyclesOf a.tick, sliceOf a.addr)))
  || windowOver 1280 (sends.map (fun e => (fcyclesOf e.1, e.2)))

/-- The link lines a tile's LINK_SENDs put on the first link of their routes, as (tick, link). -/
def sendAccs (s : State) (p t m : Nat) (member : Bool) (l : List PEnt) : List (Nat × Nat) :=
  (l.filter (fun n => n.isMove 3)).flatMap (fun n =>
    let r := mrecAt s t (wRec n.w)
    match routeOf s r.destDev with
    | none => []
    | some k => (List.range r.count).map (fun i => (planStart s p m member n.seg + ticksOf m (n.off + i / 2), k)))

/-! The dry run (R345, R347, R171). -/

/-- What an entry holds when it runs exactly as planned: the store pages it reads, each until an acycle, those it writes, each pending
until an acycle, the occupancy registers it writes, pending until an acycle. -/
structure Held where
  n : PEnt
  reads : List (Nat × Nat)
  writes : List (Nat × Nat)
  occs : List Nat
  occEnd : Nat := 0

/-- Two byte ranges meet. -/
def spansMeet (a b : Nat × Nat) : Bool := decide (a.1 < b.1 + b.2 ∧ b.1 < a.1 + a.2)
/-- The pages of ranges, held until an acycle. -/
def pagesUntil (l : List (Nat × Nat)) (upto : Nat) : List (Nat × Nat) := l.flatMap (fun r => (pagesOf r.1 r.2).map (fun q => (q, upto)))
/-- A page of a list is held in an acycle by another list. -/
def heldAt (held : List (Nat × Nat)) (acy : Nat) (pages : List (Nat × Nat)) : Bool :=
  held.any (fun h => decide (acy < h.2) && pages.any (fun q => q.1 == h.1))

/-- The state with the directory a tile has when an entry issues as planned; lines not yet placed lie where a later entry puts them
(log 7). -/
def planDirectory (s : State) (t : Nat) (all : List PEnt) (n : PEnt) : State :=
  let before := fun (y : PEnt) => decide (y.at_ < n.at_ ∨ (y.at_ = n.at_ ∧ y.st < n.st))
  setTile s t { dir := ((all.filter (fun y => !before y) ++ all.filter before).flatMap (fun y => entryPlaces s t y.st y.e)).reverse }

/-- The pass of an array or feed entry. -/
def passOf (qs : List PPass) (n : PEnt) : Option PPass :=
  qs.find? (fun q =>
    let y := if n.st = 0 then q.fr else if n.st = 1 then q.fc else q.k
    y.at_ == n.at_ && eOp y.e == eOp n.e)

/-- Latency of a dispatch (R351). -/
def drecLatency (r : Drec) : Nat := ceilDiv (r.n * r.k) 16 + ceilDiv (r.e * r.cap) 64 + 20

/-- The store pages a planned feed reads, each until the acycle after the read of the last step that needs it (R221, R345), and its
statistics vector until the statistics are written (R235). -/
def feedReads (s : State) (t : Nat) (all : List PEnt) (q : PPass) (n : PEnt) : List (Nat × Nat) :=
  let s' := planDirectory s t all n
  let a := mkFeedCtx s t (q.fr.feed 0) [] []
  let b := mkFeedCtx s t (q.fc.feed 0) [] []
  let f := fcbAt s t (wFcb n.w)
  (feedSourceOf s' t (n.feed 0) (stepLenOf a.kind b.kind (dSparse a.d))).2.map (fun p => (p.1, n.at_ + p.2 + 1))
  ++ (if f.stats = 1 then pagesUntil [(f.statOff + 4 * statBase (tdesc s t f.desc) f, 4 * f.klen)] (q.presented + 3) else [])

/-- The store pages of a planned drain's rows, each until the acycle after the write of its last row (R149, R344). -/
def drainPages (s : State) (t : Nat) (q : PPass) : List (Nat × Nat) :=
  let b : OBlock := { id := 0, op := 0, num := 0, rung := 0, level := 0, kind := 0, shape := wShape q.k.w, arec := wFcb q.k.w, prec := none,
                      slack := 0, schedSwap := 0, bf16 := false, passes := [], complete := true }
  match drainOf s t 0 b 0 with
  | none => []
  | some dr => (List.range 64).flatMap (fun r => pagesUntil [dr.span r] (q.swap + r + 1 + convLatency dr.fmt + 1))

/-- What a planned array entry reads and writes (R340, R344, R345): the lines that rows fill only in part are read with their rows. -/
def drainHeld (s : State) (t : Nat) (q : PPass) (n : PEnt) : List (Nat × Nat) × List (Nat × Nat) :=
  if !wLast n.w then ([], [])
  else
    let a := arecAt s t (wFcb n.w)
    let r := precAt s t (wPrec n.w)
    let done := q.drained s t + 1
    let rows := drainPages s t q
    let parts := (drainParts s t n.w).flatMap (fun x => pagesOf x.1 x.2)
    (rows.filter (fun p => parts.contains p.1)
      ++ pagesUntil ((if a.saEn then [(a.saOff, 4 * feedLanes 0 (wShape n.w))] else [])
        ++ (if a.sbEn then [(a.sbOff, 4 * blockWidth (wShape n.w))] else [])
        ++ (if a.orsEn then [(a.orsOff, 4 * feedLanes 0 (wShape n.w))] else [])) done,
     rows ++ pagesUntil (if r.report = 0xFFFFFFFF then [] else [(r.report, 32)]) done)

/-- The pages a planned MOVE_IN writes, each until the acycle after its last line's arrival at its bound (R344, R347, R353). -/
def moveInPages (s : State) (t m : Nat) (accs : List MAcc) (n : PEnt) : List (Nat × Nat) :=
  let r := mrecAt s t (wRec n.w)
  let d := tdesc s t r.desc
  (List.range r.count).flatMap (fun (i : Nat) =>
    let a := if dIdxEn d then dBase d else descLineAddr d (r.first + i)
    let hit := !dIdxEn d && cachePlanned accs a (planKey n.seg n.off i)
    pagesUntil [(r.ts + 72 * i, 72), (r.ts + 72 * r.count + idxBytes d * i, idxBytes d)] (n.at_ + i / 2 + arrivalBound m a hit + 1))

/-- The pages a planned run of lines out of the tile reads (R343, R351). -/
def runHeld (off w n acy : Nat) : List (Nat × Nat) := (runPages off w n).map (fun q => (q.1, acy + q.2 / 2 + 1))

/-- An entry's holds, arrivals at their bounds (R345, R347). -/
def heldBy (s : State) (t m : Nat) (all : List PEnt) (qs : List PPass) (accs : List MAcc) (n : PEnt) : Held :=
  let reads := entryReadRanges s t n.st n.e
  let writes := entryWriteRanges s t n.st n.e
  match n.st, passOf qs n with
  | 0, some q => { n := n, reads := feedReads s t all q n, writes := pagesUntil writes (q.presented + 3), occs := [] }
  | 1, some q => { n := n, reads := feedReads s t all q n, writes := pagesUntil writes (q.presented + 3), occs := [] }
  | 2, some q => let h := drainHeld s t q n; { n := n, reads := h.1, writes := h.2, occs := [] }
  | 3, _ =>
    { n := n, occs := [], writes := pagesUntil writes (n.at_ + 3),
      reads := pagesUntil reads (if n.code = 0x48 then n.at_ + ceilDiv (srecAt s t (kImm n.w)).n 64 else n.at_) }
  | 4, _ =>
    let mv := mrecAt s t (wRec n.w)
    let b := idxBytes (tdesc s t mv.desc)
    let dr := drecAt s t (wRec n.w)
    let done := n.at_ + drecLatency dr
    match n.code with
    | 1 => { n := n, reads := [], writes := moveInPages s t m accs n, occs := [] }
    | 2 => { n := n, reads := runHeld mv.ts 72 mv.count n.at_ ++ (if b = 0 then [] else runHeld (mv.ts + 72 * mv.count) b mv.count n.at_),
             writes := [], occs := [] }
    | 3 => { n := n, reads := if mv.srcTs then runHeld mv.ts 72 mv.count n.at_ else [], writes := [], occs := [] }
    | 4 => { n := n, reads := pagesUntil reads (n.at_ + 8), writes := [], occs := [] }
    | 5 => { n := n, reads := pagesUntil reads (n.at_ + 2), writes := [], occs := [] }
    | 6 => { n := n, reads := pagesUntil reads (n.at_ + 2), writes := [], occs := [bits n.w 15 8], occEnd := n.at_ + 2 }
    | 8 => { n := n, reads := pagesUntil reads done, writes := pagesUntil writes done,
             occs := (List.range dr.e).map (dr.occBase + ·), occEnd := done }
    | _ => { n := n, reads := [], writes := [], occs := [] }
  | _, _ => { n := n, reads := [], writes := [], occs := [] }

/-- Occupancy registers an entry's access samples: those of the bindings of its descriptor in its segment (R365). -/
def sampledOccs (s : State) (t : Nat) (all : List PEnt) (n : PEnt) : List Nat :=
  match entryDesc s t n.st n.e with
  | none => []
  | some d =>
    let bs := all.filter (fun y => y.isMove 7 && y.seg == n.seg && decide (y.at_ < n.at_) && bits y.w 27 8 == d)
    (bs.getLast?.map (fun y => bits y.w 39 32)).toList

/-- Two entries issue together: the feeds of one pass, or a lane and a reduction instruction at one `OFFSET` (R237, R346). -/
def pairedHolds (qs : List PPass) (n g : PEnt) : Bool :=
  (n.st ≤ 1 && g.st ≤ 1 && qs.any (fun q => [q.fr, q.fc].all (fun y => [n, g].any (fun z => z.st == y.st && z.at_ == y.at_ && z.e == y.e))))
  || (n.st == 3 && g.st == 3 && n.at_ == g.at_)

/-- An entry could not issue at its planned acycle (R171, R172, R345). -/
def stallBad (s : State) (t : Nat) (all : List PEnt) (qs : List PPass) (hs : List Held) (ends : List PPass) (h : Held) : Bool :=
  let n := h.n
  let others := hs.filter (fun g => !(g.n.st == n.st && g.n.at_ == n.at_ && g.n.e == n.e) && !pairedHolds qs n g.n)
  let occs := sampledOccs s t all n
  others.any (fun g => decide (g.n.at_ ≤ n.at_) &&
    (heldAt g.writes n.at_ h.reads || (decide (n.at_ < g.occEnd) && g.occs.any occs.contains)))
  || others.any (fun g => decide (g.n.at_ < n.at_) && heldAt g.reads n.at_ h.writes)
  || (entryLeaves s t n.st n.e).any (fun r => ends.any (fun q =>
      decide (q.k.at_ ≤ n.at_ ∧ n.at_ < q.drained s t + (if q.bf16 s t then 1 else 96))
      && (drainRows s t q.k.w).any (spansMeet r)))

/-! Rules between entries. -/

/-- A table bank or delayed-scale slot is rewritten while a feed or drain names it (R226, R249), or an
`OUTLIER_SELECT` falls inside an outlier pass (R259). -/
def windowsBad (s : State) (t : Nat) (all : List PEnt) (qs : List PPass) : Bool :=
  let inside := fun (n : PEnt) (a b : Nat) => decide (a ≤ n.at_ ∧ n.at_ ≤ b)
  qs.any (fun q =>
    let a := arecAt s t (wFcb q.k.w)
    let feeds := [(0, q.fr, fcbAt s t (wFcb q.fr.w)), (1, q.fc, fcbAt s t (wFcb q.fc.w))]
    all.any (fun n =>
      (n.isMove 4 && feeds.any (fun (f : Nat × PEnt × Fcb) => f.2.2.expand == 2 + (bit n.w 9).toNat && f.1 == (bit n.w 8).toNat
          && inside n f.2.1.at_ q.presented))
      || (n.isMove 5 && (feeds.any (fun (f : Nat × PEnt × Fcb) => bit f.2.2.scale 0 && bits f.2.2.scale 7 4 == bits n.w 11 8
            && inside n f.2.1.at_ q.presented)
          || (wLast q.k.w && bit a.scale 0 && bits a.scale 7 4 == bits n.w 11 8 && inside n q.swap (q.drained s t))))
      || (n.isOf 3 && n.code == 0x48 && q.o != 0
          && inside n (min q.fr.at_ q.fc.at_) (q.k.at_ + arrayFill (wShape q.k.w) + q.steps))))

/-- The output or report of a block that can repeat is read before its epoch point (R266). -/
def earlyRead (s : State) (t : Nat) (all : List PEnt) (hs : List Held) (q : PPass) : Bool :=
  let r := precAt s t (wPrec q.k.w)
  let outs := drainRows s t q.k.w ++ (if r.report = 0xFFFFFFFF then [] else [(r.report, 32)])
  r.top != 0 && hs.any (fun h => h.n.seg == q.k.seg && decide (q.k.at_ < h.n.at_)
    && (entryReadRanges (planDirectory s t all h.n) t h.n.st h.n.e).any (fun x => outs.any (spansMeet x)))

/-- A line leaves the tile in a committed segment too soon after the instruction that wrote it (R652). -/
def leaveBad (s : State) (t m : Nat) (commit : Option Nat) (all : List PEnt) (ends : List PPass) (n : PEnt) : Bool :=
  let committed := match commit with | some c => decide (c < n.seg) | none => true
  let stores := all.filter (fun y => y.isOf 3 && (y.code == 0x39 || y.code == 0x3B) && decide (y.at_ < n.at_))
  let ins := fun (at_ : Nat) (x : Nat × Nat) => all.any (fun y =>
    y.isMove 1 && decide (at_ < y.at_ ∧ y.at_ ≤ n.at_) && (entryWriteRanges s t 4 y.e).any (spansMeet x))
  committed && (entryLeaves s t n.st n.e).any (fun r =>
    (List.range (r.2 / 72)).any (fun i =>
      let line := (r.1 + 72 * i, 72)
      ends.any (fun q => decide (q.k.at_ < n.at_ ∧ n.at_ < q.drained s t + dupAcycles m)
        && (drainRows s t q.k.w).any (spansMeet line) && !ins q.k.at_ line)
      || stores.any (fun y => decide (n.at_ < y.at_ + dupAcycles m)
        && (entryWriteRanges s t 3 y.e).any (spansMeet line) && !ins y.at_ line)))

/-- A tile's Skink stream is refused (R287, R288, R306, R731). -/
def skinkBad (s : State) (t recSize : Nat) (l : List PEnt) : Bool :=
  let lat := fun (n : PEnt) => if n.code = 0x48 then ceilDiv (srecAt s t (kImm n.w)).n 64 + 16
    else match skUse n.w with | some u => u.lat | none => 0
  let ks := l.filter (fun n => n.isOf 3)
  ks.any (fun n => skWordBad n.w
    || (n.code == 0x48 && (recSize < 16 * kImm n.w + 16 || srecBad (srecAt s t (kImm n.w)))))
  || (ks.foldl (fun (st : Option SkScan) n => st.bind (fun st => skScan st n.at_ n.w (lat n))) (some {})).isNone

/-- A partition tile's schedule of a mode is refused. -/
def tileBad (s : State) (p m lt recSize : Nat) (member relaxed : Bool) (eps : List Nat) (accs : List MAcc) : Bool :=
  let t := firstTile s p + lt
  let ss := planTile s p m member lt
  let all := (ss.flatMap id).filter (fun n => !eMark n.e)
  let commit := (commitsOf s p m).head?
  if ss.any (streamBad m (checksOf s p m) eps) || pairingBad ss then true
  else
    let qs := planPasses s t ss
    let ends := qs.filter (fun q => wLast q.k.w)
    if qs.any (passBad s t recSize) || (planBlocks [] qs).any (blockBad s t p m)
      || (ss.getD 4 []).any (fun n => n.isOf 4 && moveBad s t recSize relaxed commit n)
      || skinkBad s t recSize (ss.getD 3 []) then true
    else
      let sorted := all.mergeSort (fun a b => decide (a.at_ ≤ b.at_))
      let hs := sorted.map (heldBy s t m sorted qs accs)
      spacingBad qs || swapsBad ends || windowsBad s t all qs
      || hs.any (stallBad s t sorted qs hs ends) || ends.any (earlyRead s t sorted hs)
      || all.any (leaveBad s t m commit all ends)

/-- Stage 6 over a mode's schedule: the item of the first refusal. The schedule is read as a launch in that mode reads it. -/
def modeBad (s : State) (p m tiles recSize : Nat) (member relaxed : Bool) : Option Nat :=
  let s := updPart s p (fun y => { y with run := some { g := 0, mode := m, segStart := 0 } })
  let first := firstTile s p
  let eps := epochOffs (planStream s p m member 0 0)
  let moves := planAccs s p m member tiles
  let fetches := (List.range tiles).flatMap (fun lt => fetchAccs s p (first + lt) m lt member eps)
  let sends := (List.range tiles).flatMap (fun lt => sendAccs s p (first + lt) m member (planStream s p m member lt 4))
  match (List.range tiles).find? (fun lt => tileBad s p m lt recSize member relaxed eps moves) with
  | some lt => some lt
  | none =>
    if timingBad s p m member eps then some 0
    else match dropBad moves with
      | some t => some (t - first)
      | none => if trafficBad moves fetches sends then some 0 else none

end Sys2Proof.Machine
end

