-- ==== Sys2Proof/Machine/MemOps.lean ====
section
/-! DEFINITION. The commands of the allocation, slice and controller pages and the steps of the memory system (14). -/

namespace Sys2Proof.Machine

/-! Allocations (R431 to R435). -/

/-- The allocation page of a partition, and its registers. -/
def apage (p : Nat) : Nat := 0x24 + p
def allocHandle (s : State) (p : Nat) : Nat := (rg s (apage p) 0x40).toNat
def allocTierS (s : State) (p : Nat) : Bool := rgF s (apage p) 0x44 0 0 == 1
def allocFail (p check : Nat) (s : State) : State := setRg s (apage p) 0x5C (BitVec.ofNat 32 (check + 2 ^ 31))

/-- All eight controllers of a tier are READY (17 R584). -/
def tierReady (s : State) (tierS : Bool) : Bool :=
  (List.range 8).all (fun k => getReady s (0x40 + k + (if tierS then 8 else 0)))

/-- Two byte ranges share a byte. -/
def rangesMeet (a n b m : Nat) : Bool := decide (a < b + m ∧ b < a + n)

/-- First address and size of the repair span of a remap record (R428). -/
def recSpan (r : DWord) : Nat × Nat :=
  let base := if bit r.toNat 35 then sBase else 0
  let p := if bit r.toNat 35 then 80 else 320
  (base + 72 * (32 * p * recRow r), 72 * 32 * p)

/-- Retirement records of a tier. -/
def retiredRecs (s : State) (tierS : Bool) : List DWord :=
  ((List.range 8).flatMap (fun k => remaps (getCtrl s (k + (if tierS then 8 else 0))))).filter (fun r => recGen r == 3)

/-- The range shares a line with a record's span: every span is whole lines, so its lines and bytes meet together. -/
def meetsSpan (base size : Nat) (r : DWord) : Bool := rangesMeet base size (recSpan r).1 (recSpan r).2

/-- The first failing check of an `ALLOC_CREATE` and its result (R433). -/
def allocCheck (s : State) (p : Nat) : Option (Nat × Nat) :=
  let h := allocHandle s p
  let ts := allocTierS s p
  let base := rg64 s (apage p) 0x48
  let size := rg64 s (apage p) 0x50
  let start := if ts then sBase else 0
  let tsz := if ts then sSize s else sBase
  if h = 0 ∨ size = 0 ∨ 4 ≤ (rg s (apage p) 0x44).toNat ∨ 2 ^ 52 ≤ base then some (1, rUNSUP)
  else if (getAlloc s p h).isSome ∨ 65536 ≤ (partAllocs s p).length then some (2, rBUSY)
  else if base < start ∨ start + tsz ≤ base ∨ (base - start) % 72 ≠ 0 ∨ tierLines s ts ≤ (base - start) / 72 then some (3, rRANGE)
  else if start + tsz < base + size ∨ (!ts ∧ 0x3FE0000000 < base + size) then some (4, rRANGE)
  else if s.allocs.any (fun a => rangesMeet base size a.base a.size) then some (5, rRANGE)
  else if (retiredRecs s ts).any (meetsSpan base size) then some (6, rRANGE)
  else none

/-- Lines of a range leave the cache without write-back. -/
def dropRange (s : State) (base size : Nat) : State :=
  { s with cache := (s.cache.map (fun e => (e.1, e.2.filter (fun l => !rangesMeet l.addr 72 base size)))).filter (fun e => !e.2.isEmpty) }

/-- Numbers below n that leave r modulo 8. -/
def below8 (n r : Nat) : Nat := (n + 7 - r) / 8

/-- Each controller counts those of the L lines from a line address that it writes (R469). -/
def countFill (s : State) (base L : Nat) : State :=
  let n := lineIx base
  (List.range 8).foldl (fun s r =>
    countBy s (0x40 + r + (if isS base then 8 else 0)) 1 (below8 (n + L) r - below8 n r)) s

/-- Every line of a range written with 72 bytes 00h, which ends its poisoning, and its cached copies invalid (R434). -/
def zeroRange (s : State) (base size : Nat) : State :=
  let L := ceilDiv size 72
  let s := dropRange s base size
  let m := memBlank s.mem base (72 * L) 0
  countFill { s with mem := { m with poison := m.poison.filter (fun e => !rangesMeet e.1 72 base size) } } base L

/-- The allocation that the registers ask for. -/
def allocAsked (s : State) (p : Nat) : Alloc :=
  { part := p, handle := allocHandle s p, tierS := allocTierS s p, base := rg64 s (apage p) 0x48, size := rg64 s (apage p) 0x50, sealed := false }

/-- ALLOC_CREATE (R433, R434; 17 R584). -/
def execAllocCreate (p : PartIx) (arg : Arg) (s : State) : Host.Outcome State Fault Refusal :=
  let p := p.toNat
  let pg := apage p
  .next (command0 s pg 0x30 arg (allocFail p 0) (fun s =>
    if !tierReady s (allocTierS s p) then postResult (allocFail p 0 s) pg rNOTREADY 0x30
    else match allocCheck s p with
      | some (c, r) => postResult (allocFail p c s) pg r 0x30
      | none =>
        let a := allocAsked s p
        let s := setRg { s with allocs := s.allocs ++ [a] } pg 0x5C 0
        if rgF s pg 0x44 1 1 = 1 then
          postRunning (updPart s p (fun x => { x with zeroing := some a.handle })) pg 0x30
        else postResult (blankRange s a.base a.size) pg rOK 0x30))

/-- ALLOC_ZERO_COMPLETE (R434). -/
def execAllocZeroComplete (p : PartIx) (s : State) : Host.Outcome State Fault Refusal :=
  let p := p.toNat
  match (getPart s p).zeroing with
  | none => skip s
  | some h =>
    let s' := match getAlloc s p h with
      | some a => zeroRange s a.base a.size
      | none => s
    .next (postDone (updPart s' p (fun x => { x with zeroing := none })) (apage p) rOK 0x30)

/-- Some live descriptor of the partition names the allocation (06 R201). -/
def allocNamed (s : State) (p h : Nat) : Bool := (partDescs s p).any (fun d => dAlloc d.2 == h)

/-- ALLOC_RELEASE (R432, R435). -/
def execAllocRelease (p : PartIx) (arg : Arg) (s : State) : Host.Outcome State Fault Refusal :=
  let p := p.toNat
  let pg := apage p
  .next (command0 s pg 0x31 arg id (fun s =>
    match getAlloc s p (allocHandle s p) with
    | none => postResult s pg rRANGE 0x31
    | some a =>
      if a.sealed || allocNamed s p a.handle then postResult s pg rBUSY 0x31
      else
        let s := blankRange (dropRange s a.base a.size) a.base a.size
        postResult { s with allocs := s.allocs.filter (fun b => !(b.part == p && b.handle == a.handle)) } pg rOK 0x31))

/-- ALLOC_QUERY (R432). -/
def execAllocQuery (p : PartIx) (arg : Arg) (s : State) : Host.Outcome State Fault Refusal :=
  let p := p.toNat
  let pg := apage p
  .next (command0 s pg 0x32 arg id (fun s =>
    match getAlloc s p (allocHandle s p) with
    | none => postResult s pg rRANGE 0x32
    | some a => postResult (setRg64 (setRg64 (setRgF s pg 0x44 0 0 a.tierS.toNat) pg 0x48 a.base) pg 0x50 a.size) pg rOK 0x32))

/-! Row repair by the host (R459, R460). -/

/-- Channels of a controller's stack, and rows of a channel. -/
def ctrlChannels (k : Nat) : Nat := if k < 8 then 40 else 10
def ctrlRows (s : State) (k : Nat) : Nat := ceilDiv (tierLines s (decide (8 ≤ k))) (32 * 8 * ctrlChannels k)

/-- The first failing check of `REMAP_ADD`. -/
def remapCheck (s : State) (k : Nat) (r : DWord) : Option Nat :=
  let c := getCtrl s k
  let n := r.toNat
  if bits n 31 30 ≠ 0 ∨ bits n 62 38 ≠ 0 ∨ !bit n 63 ∨ recGen r = 0 ∨ bits n 35 32 ≠ k ∨ ctrlChannels k ≤ recChannel r
      ∨ ctrlRows s k ≤ recRow r then some rUNSUP
  else if s.allocs.any (fun a => meetsSpan a.base a.size r) then some rBUSY
  else if 4096 ≤ c.field.length ∨ (recGen r < 3 ∧ sparesLeft c (recChannel r) (recGen r) = 0) then some rRANGE
  else none

/-- REMAP_ADD (R459, R460). -/
def execRemapAdd (k : CtrlIx) (arg : Arg) (s : State) : Host.Outcome State Fault Refusal :=
  let k := k.toNat
  let pg := 0x40 + k
  .next (command0 s pg 0x40 arg id (fun s =>
    let r := BitVec.ofNat 64 (rg64 s pg 0x60)
    match remapCheck s k r with
    | some e => postResult s pg e 0x40
    | none =>
      let c := getCtrl s k
      postResult (setCtrl s k { c with field := c.field ++ [r] }) pg rOK 0x40))

/-- REMAP_READ (R459). -/
def execRemapRead (k : CtrlIx) (arg : Arg) (s : State) : Host.Outcome State Fault Refusal :=
  let k := k.toNat
  let pg := 0x40 + k
  .next (command s pg 0x41 arg false id (fun s =>
    if 65536 ≤ arg.toNat then postResult s pg rUNSUP 0x41
    else match (remaps (getCtrl s k))[arg.toNat]? with
      | none => postResult s pg rRANGE 0x41
      | some r => postResult (setRg64 s pg 0x60 r.toNat) pg rOK 0x41))

/-! The stack cache (R448). -/

/-- The cached lines of a slice. -/
def sliceLines (s : State) (n : Nat) : List CLine := (s.cache.filter (fun e => e.1 / 16384 == n)).flatMap (·.2)

/-- Every dirty line of the given ones written back. -/
def writeBacks (s : State) (l : List CLine) : State := (l.filter (·.dirty)).foldl writeBack s

/-- A slice's dirty lines are written back and stay valid and clean. -/
def cleanSlice (s : State) (n : Nat) : State :=
  let s := writeBacks s (sliceLines s n)
  { s with cache := s.cache.map (fun e => if e.1 / 16384 = n then (e.1, e.2.map (fun l => { l with dirty := false })) else e) }

/-- Every line of a slice invalid. -/
def dropSlice (s : State) (n : Nat) : State := { s with cache := s.cache.filter (fun e => e.1 / 16384 ≠ n) }

/-- SLICE_CLEAN (R448). -/
def execSliceClean (n : BitVec 4) (arg : Arg) (s : State) : Host.Outcome State Fault Refusal :=
  let pg := 0x30 + n.toNat
  .next (command s pg 0x50 arg false id (fun s => setBlk (postRunning s pg 0x50) pg { getBlk s pg with cleaning := true }))

/-- SLICE_CLEAN_COMPLETE (R448). -/
def execSliceCleanComplete (n : BitVec 4) (s : State) : Host.Outcome State Fault Refusal :=
  let pg := 0x30 + n.toNat
  guarded (getBlk s pg).cleaning s
    (postDone (setBlk (cleanSlice s n.toNat) pg { getBlk s pg with cleaning := false }) pg rOK 0x50)

/-! Lines (R437 to R447; 19 R639). -/

/-- The address is that of a whole line of memory. -/
def isLine (s : State) (a : Nat) : Bool := aclkOn s && inMem s a && isLineAddr a && decide (lineIx a < tierLines s (isS a))

/-- LINE_READ (R439, R443): the line's bytes as its reader gets them are the response. -/
def execLineRead (line : BitVec 52) (hint : BitVec 2) (part : PartIx) (err : List (BitVec 7 × Byte)) (s : State) :
    Host.Outcome State Fault Refusal :=
  let a := line.toNat
  let (d, s') := devRead s a hint.toNat part.toNat err
  guarded (isLine s a) s { s' with resp := { code := 0, data := d } }

/-- LINE_WRITE (R440, R443; 19 R639): `parity`: the quadrant whose hub port finds bad parity. -/
def execLineWrite (line : BitVec 52) (hint : BitVec 2) (part : PartIx) (data : BitVec 576) (parity : Option (BitVec 2)) (s : State) :
    Host.Outcome State Fault Refusal :=
  let a := line.toNat
  guarded (isLine s a) s
    (match parity with
     | some q => parityLine s a q.toNat
     | none => devWrite s a (leBytes 72 data.toNat) hint.toNat part.toNat)

/-- The line a scrubber visits at a position of its pass: ascending local index, then channel (R441). -/
def scrubAddr (k pos : Nat) : Nat := (if k < 8 then 0 else sBase) + 72 * (8 * pos + k % 8)

/-- SCRUB_LINE (R441, R462). -/
def execScrubLine (k : CtrlIx) (err : List (BitVec 7 × Byte)) (s : State) : Host.Outcome State Fault Refusal :=
  let k := k.toNat
  let pg := 0x40 + k
  let pos := (getCtrl s k).scrub
  let a := scrubAddr k pos
  let s := if isPoison s.mem a then s else count1 (memRead s a 1 err).2 pg 9
  let last := decide (tierLines s (decide (8 ≤ k)) ≤ 8 * (pos + 1) + k % 8)
  let s := setCtrl s k { getCtrl s k with scrub := if last then 0 else pos + 1 }
  .next (if last then count1 s pg 0xA else s)

/-- Line address j of a row of a controller's channel (R428). -/
def rowLine (k ch row j : Nat) : Nat :=
  (if k < 8 then 0 else sBase) + 72 * (8 * ctrlChannels k * (32 * row + j) + 8 * ch + k % 8)

/-- The error patterns of a row's codewords, by their place in the row. -/
abbrev RowErrs := List (BitVec 5 × List (BitVec 7 × Byte))

/-- One codeword of a row copied to the spare, corrected, or poisoned when it proves uncorrectable (R439, R454). -/
def copyCodeword (s : State) (a : Nat) (err : List (BitVec 7 × Byte)) : State :=
  count1 (memRead s a 2 err).2 (ctrlPage a) 1

/-- REMAP_COPY_DONE (R454): `errs`: what the copy's reads of the row's codewords meet. -/
def execRemapCopyDone (k : CtrlIx) (channel : BitVec 6) (row : BitVec 24) (errs : RowErrs) (s : State) :
    Host.Outcome State Fault Refusal :=
  let k := k.toNat
  let key := channel.toNat * 2 ^ 24 + row.toNat
  let c := getCtrl s k
  let lines := (List.range 32).filter (fun j => decide (lineIx (rowLine k channel.toNat row.toNat j) < tierLines s (decide (8 ≤ k))))
  guarded (c.copies.contains key) s
    (lines.foldl (fun s j =>
        copyCodeword s (rowLine k channel.toNat row.toNat j) (((errs.find? (fun e => e.1.toNat == j)).map (·.2)).getD []))
      (setCtrl s k { c with copies := c.copies.filter (· ≠ key) }))

/-! Heat (R450). -/

/-- The refresh code after a stack reports a temperature: it rises above a threshold and returns below it less 3. -/
def refreshOf (tier4 : Bool) (old t : Nat) : Nat :=
  if tier4 && (decide (95 < t) || (old == 2 && decide (92 ≤ t))) then 2
  else if 85 < t ∨ (old ≠ 0 ∧ 82 ≤ t) then 1 else 0

/-- STACK_TEMPERATURE_REPORT (R450, R470): a tier S stack of GHVX4-0768 is throttled while it reports more than
`THROTTLE_TEMP`. -/
def execStackTemperatureReport (tierS : Bool) (stack : BitVec 3) (temp : Byte) (s : State) : Host.Outcome State Fault Refusal :=
  let k := (if tierS then 8 else 0) + stack.toNat
  let pg := 0x40 + k
  let c := getCtrl s k
  let t := temp.toNat
  let s7 := decide (8 ≤ k) && s.flash.part == 0
  let c' := { c with
    temp := t
    refresh := if s7 then 0 else refreshOf (decide (8 ≤ k)) c.refresh t
    throttled := s7 && decide (rgF s pg 0x40 31 24 < t)
    crit := decide (105 ≤ t) || (c.crit && decide (102 ≤ t)) }
  let s := setCtrl s k c'
  let s := raiseLevel s pg 6 (c'.refresh != 0 || c'.throttled)
  .next (raiseLevel s pg 7 c'.crit)

end Sys2Proof.Machine
end

