-- ==== Sys2Proof/Machine/Blocks.lean ====
section
/-! DEFINITION. Commands of every page, and a block's control, self-tests, power and readiness (02 R42 to R49; 05 R175,
R176; 17 R583 to R593; 18 R623 to R628). -/

namespace Sys2Proof.Machine

/-! Command codes every page takes (R48). -/

/-- NOP (R48, R49, R51): OK on every page that is served, in every condition of the device. -/
def execNop (page : PageIx) (arg : Arg) (s : State) : Host.Outcome State Fault Refusal :=
  let p := page.toNat
  if !pageServed s p then skip s
  else
    let s := noteWrite s p
    guarded (!cmdBusy s p) s
      (postResult (setPage s p { getPage s p with cmd := BitVec.ofNat 32 (256 * arg.toNat) }) p rOK 0)

/-- UNDEFINED_COMMAND (R48, R49, R51; 17 R584): a code the page does not define; and `SYNC_EXEC` with an operation code
that 15 R527 does not define, which no object's type permits (15 R530, log 41). -/
def execUndefinedCommand (page : PageIx) (code : Byte) (arg : Arg) (s : State) : Host.Outcome State Fault Refusal :=
  let p := page.toNat
  let c := code.toNat
  if p = 0x072 ∧ c = 0x72 ∧ !([1, 2, 3, 4, 5, 6, 8, 9, 0xA, 0xB].contains (arg.toNat % 16)) then
    hostSync (arg.toNat % 16) (BitVec.ofNat 20 (arg.toNat / 16)) s
  else .next (if c = 0 ∨ (cmdDefined p).contains c then s else command s p c arg false id (fun s => postResult s p rUNSUP c))

/-! `BLK_CONTROL` (R42 to R45). -/

/-- The result of a control write, on the page written (R43, R45). It belongs to no command code, so `CMD_ECHO` is free
(log 15). -/
def postControl (s : State) (p code : Nat) : State :=
  let (e, s) := choose s 256
  postResult s p code e

/-- Something holds of a loaded image's schedule of some mode: of a partition, its image and the mode. -/
def anySchedule (s : State) (is : Nat → Img → Nat → Bool) : Bool :=
  (List.range 4).any (fun q => match (getPart s q).img with
    | none => false
    | some i => (List.range 3).any (fun m => i.sched.getD m 0 != 0 && is q i m))

/-- A loaded image's schedule accesses a line that satisfies `is`: those of its moves, of its entries and of its records; the lines
of an indexed move may be any (R45; log 16). -/
def schedLine (s : State) (is : MAcc → Bool) : Bool :=
  anySchedule s (fun q i m =>
    let at_ := fun (a : Nat) => ({ key := 0, tick := 0, tile := 0, write := false, hint := 0, addr := a } : MAcc)
    (planAccs s q m false (tilesPer s)).any is
    || (List.range (tilesPer s)).any (fun lt => (fetchAccs s q (firstTile s q + lt) m lt false []).any is)
    || (spanLines (i.base + i.recOff) i.recSize).any (fun a => is (at_ a)))

/-- The links on which an operation of a tile on an object leaves the device: towards the home, or from the home towards every
member (15 R528, R529). -/
def syncLinks (s : State) (n : Nat) : List Nat :=
  let o := syncObj s n
  let far := if oScope o = 0 then [] else if !isHome s o then [homeDev s o]
    else if oScope o = 1 then (roster s).map (slotDev s) else (groups s).map (groupMgr s)
  far.filterMap (routeOf s)

/-- A loaded image's schedule sends on a link that satisfies `is`: by a LINK_SEND, or by an operation on an object (R45; log 16). -/
def schedLink (s : State) (is : Nat → Bool) : Bool :=
  anySchedule s (fun q _ m => (List.range (tilesPer s)).any (fun lt =>
    let l := planStream s q m false lt 4
    (sendAccs s q (firstTile s q + lt) m false l).any (fun e => is e.2)
      || l.any (fun n => n.isMove 9 && (syncLinks s (wObj n.w)).any is)))

/-- A loaded image's schedule uses the block (R45; log 16): its tiles and their fabrics, the controllers and slices of the lines it
accesses, the links it sends on and then the routing tables, and the sync control, which starts it. -/
def blockUsed (s : State) (p : Nat) : Bool :=
  if isTilePage p then (match tileAt s (p - 0x100) with | some t => hasImage s (partOf s t) | none => false)
  else if isFabricPage p then hasImage s (partOfQuad s (p - 0x80))
  else if isCtrlPage p then schedLine s (fun a => if a.known then ctrlPage a.addr == p else isS a.addr == decide (0x48 ≤ p))
  else if isSlicePage p then schedLine s (fun a => !a.known || slicePage a.addr == p)
  else if isLinkPage p then schedLink s (· == p - 0x50)
  else if 0x60 ≤ p ∧ p < 0x70 then schedLink s (fun _ => true)
  else decide (0x70 ≤ p) && anyImage s

/-- The class has a self-test (17 R590). -/
def hasTest (p : Nat) : Bool := isTilePage p || isCtrlPage p || isSlicePage p || isFabricPage p

/-- The page is that of a retired site. -/
def isRetiredPage (s : State) (p : Nat) : Bool := isTilePage p && isRetired s (p - 0x100)

/-- The self-test of a start, of power that came on or of a warm reset runs (17 R583; 18 R627; 20 R679): from the firmware's
start until the block sets READY or fails (log 51). -/
def startTest (s : State) (p : Nat) : Bool :=
  let b := getBlk s p
  hasTest p && fwRunning s && b.pwrOn && !b.failed && !getReady s p && b.testPage.isNone && !isRetiredPage s p

/-- `BLK_STATUS.BUSY` (R41): a command or a self-test runs on some page of the block, or work that it completes while it
quiesces (R42). -/
def blkBusy (s : State) (p : Nat) : Bool :=
  let b := getBlk s p
  b.busy || b.testPage.isSome || b.cleaning || startTest s p
    || (isTilePage p && s.fc.rot.any (fun (r : Nat × Nat) => r.2 == p - 0x100))
    || (List.range (blkPages p)).any (fun i => cmdBusy s (blkBase p + i))

/-- Work in flight that a quiescing block completes (R42; log 16). -/
def workInFlight (s : State) (p : Nat) : Bool :=
  if isTilePage p then (match tileAt s (p - 0x100) with | some t => isRunning s (partOf s t) | none => false)
  else if isLinkPage p then
    let l := smGet (fun _ => ({} : LinkSt)) s.links (p - 0x50)
    !l.unacked.isEmpty || !l.syncQ.isEmpty || !l.dataQ.isEmpty
  else if isCtrlPage p then !(getCtrl s (p - 0x40)).copies.isEmpty
  else if isSlicePage p then (getBlk s p).cleaning
  else if 0x20 ≤ p ∧ p < 0x30 then (List.range 4).any (fun q => (getPart s q).cqBusy.isSome)
  else false

/-- The write clears a bit of `BLK_CONTROL` that is set. -/
def clearsBit (s : State) (p : Nat) (v : Word) (i : Nat) : Bool := ctl s p i && !v.getLsbD i

/-- R45 refuses the write. -/
def keepsBlock (s : State) (p : Nat) (v : Word) : Bool := blockUsed s p && (clearsBit s p v 0 || clearsBit s p v 3)

/-- ENABLE (R42, R45). -/
def execEnable (page : PageIx) (v : Word) (s : State) : Host.Outcome State Fault Refusal :=
  let p := page.toNat
  guarded (hubServed s p) s
    (let s := noteWrite s p
     if keepsBlock s p v then postControl s p rBUSY else setCtl s p 0 (v.getLsbD 0))

/-- QUIESCE (R42). -/
def execQuiesce (page : PageIx) (v : Word) (s : State) : Host.Outcome State Fault Refusal :=
  let p := page.toNat
  guarded (hubServed s p) s
    (let s := setCtl (noteWrite s p) p 1 (v.getLsbD 1)
     setBlk s p { getBlk s p with busy := v.getLsbD 1 && workInFlight s p })

/-- QUIESCE_IDLE (R42): the work in flight is over. -/
def execQuiesceIdle (page : PageIx) (s : State) : Host.Outcome State Fault Refusal :=
  let p := page.toNat
  guarded (hasHeader p && ctl s p 1 && !workInFlight s p) s (setBlk s p { getBlk s p with busy := false })

/-! Self-tests (R43, R44; 17 R590 to R593). -/

/-- The refusals of R591; and the self-tests of a warm reset keep a block busy (20 R679; log 16). -/
def testRefused (s : State) (p : Nat) : Bool :=
  if isTilePage p then
    (match tileAt s (p - 0x100) with | some t => hasImage s (partOf s t) | none => false)
      || s.fc.rot.any (fun (r : Nat × Nat) => r.2 == p - 0x100) || warmActive s
  else if isCtrlPage p then anyImage s
  else if isSlicePage p then anyImage s || (sliceLines s (p - 0x30)).any (·.dirty) || warmActive s
  else hasImage s (partOfQuad s (p - 0x80)) || warmActive s

/-- A refused self-test request: SELFTEST is cleared and the result posted on the page written (R42, R43). -/
def refuseTest (s : State) (p code : Nat) : State := postControl (setCtl s p 2 false) p code

/-- SELFTEST (R42, R43; 17 R591 to R593; 18 R627). Log 51: a write of 0 leaves the bit of a test that runs at 1; a request
to a block without power is ignored and posts nothing; BUSY comes before UNSUPPORTED. -/
def execSelftest (page : PageIx) (v : Word) (s : State) : Host.Outcome State Fault Refusal :=
  let p := page.toNat
  guarded (hubServed s p) s
    (let s := noteWrite s p
     if !v.getLsbD 2 then s
     else if blkBusy s p then refuseTest s p rBUSY
     else if !hasTest p then refuseTest s p rUNSUP
     else if !(getBlk s p).pwrOn then s
     else if testRefused s p then refuseTest s p rBUSY
     else setReady (setBlk (setCtl s p 2 true) p { getBlk (setCtl s p 2 true) p with testPage := some p }) p false)

/-! Faults a tile self-test finds in cells, as (row, column), and the spares (05 R176). -/

/-- A row and a column that together hold every faulty cell; none for a line not needed. -/
def coverPair (f : List (BitVec 7 × BitVec 7)) : List (Nat × Nat) :=
  (f.flatMap (fun a => f.map (fun b => (a.1.toNat, b.2.toNat)))).eraseDups.filter
    (fun rc => f.all (fun e => e.1.toNat == rc.1 || e.2.toNat == rc.2))

/-- The lines a repair takes: none when R176's spares cannot hold the faults. `rowFree`, `colFree`: spares unused. -/
def repairLines (f : List (BitVec 7 × BitVec 7)) (rowFree colFree : Bool) (pick : Nat) : Option (Option Nat × Option Nat) :=
  match f.eraseDups with
  | [] => some (none, none)
  | [e] => if rowFree then some (some e.1.toNat, none) else if colFree then some (none, some e.2.toNat) else none
  | e :: es =>
    if es.all (fun x => x.1 == e.1) then (if rowFree then some (some e.1.toNat, none) else none)
    else if es.all (fun x => x.2 == e.2) then (if colFree then some (none, some e.2.toNat) else none)
    else
      let c := coverPair (e :: es)
      if !rowFree || !colFree then none
      else ((c.drop (pick % max 1 c.length)).head?).map (fun rc => (some rc.1, some rc.2))

/-- `ARRAY_REPAIR` with the spare lines enabled by a self-test. -/
def repairWord (w : Word) (r c : Option Nat) : Word :=
  let w := match r with | some n => putFld (putFld w 7 0 (n + 128)) 16 16 1 | none => w
  match c with | some n => putFld (putFld w 15 8 (n + 128)) 17 17 1 | none => w

/-- What a self-test leaves of a tile (17 R590). -/
def tileTested (x : Tile) : Tile :=
  { x with store := [], badPar := [], unver := [], dir := [], vreg := [], mreg := [], chains := [], flights := [] }

/-- A site fails its self-test (17 R587, R588; 01 R19, R21): retired, its tile moved at once. -/
def siteFailed (s : State) (site : Nat) : State :=
  let s := { s with map := { s.map with failed := if s.map.failed.contains site then s.map.failed else site :: s.map.failed } }
  match tileAt s site with
  | none => retireFree s site
  | some t => if (freeSites s (site / 34)).isEmpty then serveMove (reloadMap (retireSite s site)) t else serveMove s t

/-- A block's self-test comes to its end, at start-up, after power comes on or on request: what it leaves, and whether the
block passed (05 R176; 17 R586, R587, R590). -/
def testDone (s : State) (p : Nat) (ok : Bool) (f : List (BitVec 7 × BitVec 7)) : Bool × State :=
  if isTilePage p then
    let site := p - 0x100
    let s := match tileAt s site with | some t => updTile s t tileTested | none => s
    let w := rg s p 0x118
    let (n, s) := if (coverPair f).length ≤ 1 then (0, s) else choose s (coverPair f).length
    match (if ok then repairLines f (!w.getLsbD 7) (!w.getLsbD 15) n else none) with
    | none => (false, siteFailed s site)
    | some (none, none) => (true, s)
    | some (r, c) =>
      let w' := repairWord w r c
      let old := smGet (fun _ => (0 : Word)) s.map.fixed site
      let fix := putFld (putFld old 7 7 (if r.isSome then 1 else fld old 7 7)) 15 15 (if c.isSome then 1 else fld old 15 15)
      let s := setRg { s with map := { s.map with fixed := smSet (fun _ => (0 : Word)) s.map.fixed site fix } } p 0x118 w'
      (true, raiseOpen s p 14)
  else
    let s := if isSlicePage p then dropSlice s (p - 0x30) else s
    (ok, if ok then s else goOos (setBlk s p { getBlk s p with failed := true }))

/-- SELFTEST_END (R44; 17 R590, R592): `faults`: array cells the test found faulty; `ok`: every other part passed. -/
def execSelftestEnd (page : PageIx) (ok : Bool) (faults : List (BitVec 7 × BitVec 7)) (s : State) :
    Host.Outcome State Fault Refusal :=
  let p := page.toNat
  match (getBlk s p).testPage with
  | none => skip s
  | some q =>
    let s1 := setBlk (setCtl s p 2 false) p { getBlk (setCtl s p 2 false) p with testPage := none }
    let (pass, s2) := testDone s1 p ok faults
    guarded (hasTest p) s (if pass then setReady (setBlk (postControl s2 q rOK) p { getBlk (postControl s2 q rOK) p with failed := false }) p true
      else postControl s2 q rSELFTEST)

/-! Power domains (18 R623 to R628). -/

/-- The page's block has a power domain (R623). -/
def hasDomain (p : Nat) : Bool := (decide (0x30 ≤ p) && decide (p < 0x60)) || isFabricPage p || isTilePage p

/-- R625 refuses to power the block off. -/
def powerRefused (s : State) (p : Nat) : Bool :=
  if isTilePage p then isFree s (p - 0x100) && anyImage s
  else if isFabricPage p then (List.range 34).any (fun i => (getBlk s (0x100 + 34 * (p - 0x80) + i)).pwrOn)
  else if isCtrlPage p then s.allocs.any (fun a => a.tierS == decide (0x48 ≤ p))
  else if isSlicePage p then anyImage s
  else if isLinkPage p then rgF s p 0x044 1 0 != 0
  else false

/-- PWR_REQ (R42, R45; 18 R624, R625). -/
def execPwrReq (page : PageIx) (v : Word) (s : State) : Host.Outcome State Fault Refusal :=
  let p := page.toNat
  guarded (hubServed s p) s
    (let s := noteWrite s p
     if !hasDomain p || isRetiredPage s p then s
     else if v.getLsbD 3 then (if keepsBlock s p v then postControl s p rBUSY else setCtl s p 3 true)
     else if keepsBlock s p v || (ctl s p 3 && powerRefused s p) then postControl s p rBUSY
     else setCtl s p 3 false)

/-- The contents a block loses with its power (R626, R627): a slice is cleaned first, and the lines of a controller's tier
become unspecified. -/
def loseContents (s : State) (p : Nat) : State :=
  if isSlicePage p then dropSlice (cleanSlice s (p - 0x30)) (p - 0x30)
  else if isCtrlPage p then
    let k := p - 0x40
    let stamp := s.free + 1
    let ts := decide (8 ≤ k)
    let base := if ts then sBase else 0
    let size := if ts then sSize s else sBase
    let m := memBlank s.mem base size stamp
    let m := { m with poison := m.poison.filter (fun e => ctrlPage e.1 ≠ p) }
    setCtrl { s with free := stamp, mem := m } k {}
  else if isLinkPage p then { s with links := smDel s.links (p - 0x50) }
  else if isTilePage p then
    (match tileAt s (p - 0x100) with
     | some t => setTile s t {}
     | none => { s with fc := { s.fc with shadows := s.fc.shadows.filter (fun h => h.site ≠ p - 0x100) } })
  else s

/-- POWER_DOMAIN_OFF (R626 to R628). -/
def execPowerDomainOff (page : PageIx) (s : State) : Host.Outcome State Fault Refusal :=
  let p := page.toNat
  guarded (hasDomain p && !ctl s p 3 && (getBlk s p).pwrOn) s
    (let s := domainOff (loseContents s p) p
     { s with map := { s.map with fixed := if isTilePage p then smDel s.map.fixed (p - 0x100) else s.map.fixed } })

/-- The control firmware writes a site's factory repair (05 R175). -/
def factoryRepair (s : State) (site : Nat) : State :=
  setRg s (0x100 + site) 0x118 (smGet (fun _ => (0 : Word)) s.flash.repairs site &&& 0xFFFF)

/-- POWER_DOMAIN_ON (R627, R628; 05 R175): registers and counters are at their reset values since the domain went off. -/
def execPowerDomainOn (page : PageIx) (s : State) : Host.Outcome State Fault Refusal :=
  let p := page.toNat
  guarded (hasDomain p && ctl s p 3 && !(getBlk s p).pwrOn && !isRetiredPage s p) s
    (let s' := setBlk s p { getBlk s p with pwrOn := true }
     let s' := if isTilePage p && fwRunning s then factoryRepair s' (p - 0x100) else s'
     countSwitches s s' 1)

/-! Readiness (17 R583 to R588). -/

/-- The page's READY comes with its block's start-up steps under R583. -/
def startsUp (p : Nat) : Bool := hasHeader p && p != 0 && !(decide (0x10 ≤ p) && decide (p ≤ 0x20)) && !isLinkPage p

/-- BLOCK_READY (R583, R586, R587; 05 R175, R176; 14 R458): the block's steps are done, and it passed or failed. -/
def execBlockReady (page : PageIx) (ok : Bool) (faults : List (BitVec 7 × BitVec 7)) (s : State) :
    Host.Outcome State Fault Refusal :=
  let p := page.toNat
  let s1 := if isTilePage p && !warmActive s then factoryRepair s (p - 0x100)
    else if isCtrlPage p then
      setCtrl s (p - 0x40) { getCtrl s (p - 0x40) with factory := smGet (fun _ => ([] : List DWord)) s.flash.remaps (p - 0x40) }
    else s
  let (pass, s2) := if hasTest p then testDone s1 p ok faults else (true, s1)
  guarded (startsUp p && fwRunning s && (getBlk s p).pwrOn && !getReady s p && (getBlk s p).testPage.isNone
      && !(getBlk s p).failed && !isRetiredPage s p) s
    (if pass then setReady s2 p true else s2)

end Sys2Proof.Machine
end

