-- ==== Sys2Proof/Machine/Maps.lean ====
section
/-! DEFINITION. The site map, the partition count and array repairs (01 R15 to R27; 05 R173 to R180; 17 R588, R589). -/

namespace Sys2Proof.Machine

/-! The site map (R15 to R17, R728). -/

/-- The staged map. -/
def stagedSite (s : State) (t : Nat) : Nat := rgF s 0x004 (0x40 + 4 * (t / 4)) (8 * (t % 4) + 7) (8 * (t % 4))
def stagedRetired (s : State) (site : Nat) : Bool := (rg s 0x004 (0xC0 + 4 * (site / 32))).getLsbD (site % 32)

/-- The staged map passes R16. -/
def mapOk (s : State) : Bool :=
  let sites := (List.range 128).map (stagedSite s)
  (List.range 128).all (fun t => stagedSite s t / 34 == t / 32 && !stagedRetired s (stagedSite s t))
    && sites.eraseDups.length == 128

/-- The staged map becomes the map in force (R728): rotating self-tests on sites that now carry a tile are abandoned
(17 R596), and a site newly marked retired goes off (18 R625). -/
def applyMap (s : State) : State :=
  let newly := (List.range 136).filter (fun x => stagedRetired s x && !isRetired s x)
  let needed := (List.range 128).map (stagedSite s) ++ newly
  let s := needed.foldl abandonRot s
  let s := { s with map := { s.map with
    site := (List.range 128).foldl (fun m t => smSet siteDefault m t (stagedSite s t)) []
    retired := (List.range 136).filter (stagedRetired s) } }
  newly.foldl retireSite s

/-- SITE_MAP_APPLY (R16, R17, R728). -/
def execSiteMapApply (arg : Arg) (s : State) : Host.Outcome State Fault Refusal :=
  .next (command s 0x004 0x01 arg false (fun s => if s.oos || !warmActive s then s else reloadMap s) (fun s =>
    if anyImage s then postResult (reloadMap s) 0x004 rBUSY 0x01
    else if mapOk s then postResult (reloadMap (applyMap s)) 0x004 rOK 0x01
    else postResult (reloadMap s) 0x004 rGEOM 0x01))

/-- Bits of a `SITE_RETIRED_n` that R588 holds at 1. -/
def failedBits (s : State) (n : Nat) : Word := BitVec.ofNat 32 (natOfBits ((List.range 32).map (fun i => s.map.failed.contains (32 * n + i))))

/-- SITE_MAP_STAGE_WRITE (R15, R17, R728; 17 R588). -/
def execSiteMapStageWrite (off : BitVec 12) (v : Word) (s : State) : Host.Outcome State Fault Refusal :=
  let o := off.toNat
  guarded (pageServed s 0x004 && o % 4 == 0 && decide (0x40 ≤ o) && decide (o < 0xD4)) s
    (let s := noteWrite s 0x004
     if anyImage s then s
     else if o < 0xC0 then setRg s 0x004 o v
     else
       let n := (o - 0xC0) / 4
       setRg s 0x004 o ((if n = 4 then v &&& 0xFF else v) ||| failedBits s n))

/-! The partition count (R24, R25, R31). -/

/-- PART_SET (R25). -/
def execPartSet (arg : Arg) (s : State) : Host.Outcome State Fault Refusal :=
  .next (command s 0x001 0x91 arg false id (fun s =>
    if 3 ≤ arg.toNat then postResult s 0x001 rUNSUP 0x91
    else if anyImage s || !s.allocs.isEmpty then postResult s 0x001 rBUSY 0x91
    else if arg ≠ 0 ∧ role s ≠ 0 then postResult s 0x001 rGEOM 0x91
    else
      let s := setRgF { s with descs := [] } 0x001 0x060 1 0 arg.toNat
      let s := (List.range 4).foldl (fun s p => updPart s p (fun x => { x with seed := 0, heldSeed := none })) s
      postResult s 0x001 rOK 0x91))

/-! Array repair (05 R177, R180; 17 R589). -/

/-- One half of `ARRAY_REPAIR` (row at bit 0, column at bit 8; its FIELD bit) after a write. -/
def repairHalf (old v : Word) (lo field : Nat) (held : Bool) : Word :=
  if held && fld old (lo + 7) (lo + 7) == 1 && fld v (lo + 7) (lo + 7) == 0 then old
  else
    let w := if fld v (lo + 6) lo ≤ 64 then putFld old (lo + 6) lo (fld v (lo + 6) lo) else old
    putFld (putFld w (lo + 7) (lo + 7) (fld v (lo + 7) (lo + 7))) field field (fld v field field)

/-- ARRAY_REPAIR_WRITE (R177, R180; 17 R589). -/
def execArrayRepairWrite (site : SiteIx) (v : Word) (s : State) : Host.Outcome State Fault Refusal :=
  let n := site.toNat
  let p := 0x100 + n
  let fixed := smGet (fun _ => (0 : Word)) s.map.fixed n
  let image := match tileAt s n with | some t => hasImage s (partOf s t) | none => false
  guarded (decide (n < 136) && pageServed s p) s
    (let s := noteWrite s p
     if image || (getBlk s p).testPage.isSome || s.fc.rot.any (fun (r : Nat × Nat) => r.2 == n) then s
     else setRg s p 0x118 (repairHalf (repairHalf (rg s p 0x118) v 0 16 (fixed.getLsbD 7)) v 8 17 (fixed.getLsbD 15)))

end Sys2Proof.Machine
end

