-- ==== Sys2Proof/Machine/Chorus.lean ====
section
/-! DEFINITION. The Chorus bus: rounds, round words, slot answers, checks and the exchange between groups (15 R507 to
R522; 20 R687 to R689). -/

namespace Sys2Proof.Machine

def syncclkRun (s : State) : Bool := rgF s 0x071 0x04C 0 0 == 1
def updChorus (s : State) (f : Chorus → Chorus) : State := { s with chorus := f s.chorus }
/-- The device drives the bus (R507). -/
def drivesBus (s : State) : Bool := role s == 2 && syncclkRun s

/-- This device's answer (R511, R541; 18 R621). -/
def ownAnswer (s : State) : Nat :=
  if rgF s 0x006 0x048 2 2 = 1 then 7
  else if warmActive s then 6
  else if s.oos then 7
  else match (getPart s 0).run with
    | none => 8
    | some r => if r.waiting.isSome && r.resume.isNone && r.answer != 0 then r.answer else 1

/-- CHORUS_ALL is held low (R513). -/
def holdsAll (s : State) : Bool := role s != 0 && (ownAnswer s == 1 || ownAnswer s == 6 || ownAnswer s == 8)

/-! Round words (R509). -/

/-- One step of the CRC-8 register with a message bit. -/
def crc8Step (c : Nat) (b : Bool) : Nat :=
  let f := b != bit c 7
  (2 * c % 256) ^^^ (if f then 7 else 0)
def wordBits (w : DWord) (n : Nat) : List Bool := (List.range n).map (bit w.toNat)
def crc8 (l : List Bool) : Nat := l.foldl crc8Step 0

/-- `CRC8` as it lies in bits [63:56]: the register's bit 7 first. -/
def crcField (c : Nat) : Nat := natOfBits ((List.range 8).map (fun i => bit c (7 - i)))
def mkWord (type check resume : Nat) : DWord :=
  let w := 0xA5 + 2 ^ 8 * (type % 16) + 2 ^ 12 * (check % 256) + 2 ^ 20 * (resume % 2 ^ 36)
  BitVec.ofNat 64 (w + 2 ^ 56 * crcField (crc8 (wordBits (BitVec.ofNat 64 w) 56)))
/-- `SYNC` is A5h and the CRC over all 64 bits leaves 00h. -/
def goodWord (w : DWord) : Bool := w.toNat % 256 == 0xA5 && crc8 (wordBits w 64) == 0

/-! Commands of page 071h (R507, R537; 20 R688, R689). -/

/-- The gate of R537's commands. -/
def chorusCmd (code : Nat) (arg : Arg) (act : State → State) (s : State) : Host.Outcome State Fault Refusal :=
  .next (command0 s 0x071 code arg id (fun s => if role s ≠ 2 then postResult s 0x071 rUNSUP code else act s))

/-- CHORUS_START (R507, R537). -/
def execChorusStart (arg : Arg) (s : State) : Host.Outcome State Fault Refusal :=
  chorusCmd 0x70 arg (fun s =>
    if anyImage s then postResult s 0x071 rBUSY 0x70
    else postResult (setRgF s 0x071 0x04C 0 0 1) 0x071 rOK 0x70) s

/-- CHORUS_STOP (R507, R537). -/
def execChorusStop (arg : Arg) (s : State) : Host.Outcome State Fault Refusal :=
  chorusCmd 0x71 arg (fun s =>
    if anyImage s then postResult s 0x071 rBUSY 0x71
    else postResult (updChorus (setRgF s 0x071 0x04C 0 0 0) (fun c => { c with ann := none, copies := 0, openChk := none }))
      0x071 rOK 0x71) s

def sysLead (s : State) : Nat := rgF s 0x071 0x058 23 0

/-- CHORUS_ABORT (20 R688): the announcement goes out in the first round that may carry it, and the command ends then, or
when the check completes first (R689). -/
def execChorusAbort (arg : Arg) (s : State) : Host.Outcome State Fault Refusal :=
  chorusCmd 0x73 arg (fun s =>
    match s.chorus.openChk with
    | none => postResult s 0x071 rNOTREADY 0x73
    | some j =>
      let r := now s + 2048 + (if isSysMgr s then sysLead s else 0)
      postRunning (updChorus s (fun c => { c with ann := some (4, j, r), annFrom := now s + 11, copies := 3 })) 0x071 0x73) s

/-! Announcements of a manager (R514, R517, R521, R522; 13 R415; 08 R273). -/

/-- The most severe of a list of answers: POISON, EPOCH_WANTED, then ARRIVED or CLEAN (R521). -/
def worst (l : List Nat) : Nat := if l.contains 5 then 5 else if l.contains 3 then 3 else l.headD 2

/-- The announcement that answers call for at check j, from this manager's own run and commit page. -/
def decision (s : State) (answer a : Nat) : Nat × Nat :=
  let t := match (getPart s 0).run with | some r => expectedAt s 0 r | none => 0
  let m := match (getPart s 0).run with | some r => r.replayMax | none => rgF s 0x07D 0x040 3 0
  if answer = 5 then ((if rgF s 0x07D 0x044 7 4 < m then 3 else 4), max t a + 2048)
  else if answer = 3 then (2, max t a + 2048 + lambda s 0)
  else (1, max t a + 2048)

/-- The announcement goes out from the first round at least one SYNCCLK cycle (10.5 ticks) from now. -/
def setAnn (s : State) (type check res : Nat) : State :=
  updChorus s (fun c => { c with ann := some (type, check, res), annFrom := now s + 11, copies := 3, openChk := none })

/-- ANNOUNCE to every group manager but this one. -/
def announceAll (s : State) (type check res : Nat) : State :=
  ((groups s).filter (fun g => groupMgr s g != devNum s)).foldl (fun s g => sendMsg s 3 type (groupMgr s g) 0 res check) s

/-- The system manager decides once every group's result for check j is in (R522). -/
def decideSystem (s : State) (j : Nat) : State :=
  let got := s.chorus.groups.filter (fun e => e.2.2 == j)
  if (groups s).all (fun g => got.any (fun e => e.1 == g)) then
    let (type, res) := decision s (worst (got.map (fun e => e.2.1))) (now s)
    let res := res + sysLead s
    let s := updChorus s (fun c => { c with groups := c.groups.filter (fun e => e.2.2 != j) })
    setAnn (announceAll s type j res) type j res
  else s

/-- A group's result is recorded at the system manager. -/
def noteGroup (s : State) (g answer j : Nat) : State :=
  decideSystem (updChorus s (fun c => { c with groups := (g, answer, j) :: c.groups.filter (fun e => !(e.1 == g && e.2.2 == j)) })) j

/-- The manager completes check j (R514, R521): an abort not yet announced gives way (20 R689). -/
def completeCheck (s : State) (j : Nat) : State :=
  let s := if s.chorus.ann.isSome && cmdRuns s 0x071 0x73 then postDone s 0x071 rBUSY 0x73 else s
  let s := count1 (updChorus s (fun c => { c with openChk := none, ann := none, copies := 0 })) 0x071 1
  let answer := worst ((roster s).map (fun k => rgF s 0x071 (0xE0 + 4 * (k / 8)) (4 * (k % 8) + 3) (4 * (k % 8))))
  if !sysEn s then
    let (type, res) := decision s answer (now s)
    setAnn s type j res
  else if isSysMgr s then noteGroup s (rgF s 0x071 0x054 5 0) answer j
  else sendMsg s 2 answer (sysMgr s) 0 (now s) j

/-- GROUP_RESULT (R521 to R523). -/
def execGroupResult (n : LinkIx) (flit : BitVec 256) (s : State) : Host.Outcome State Fault Refusal :=
  syncRecv n flit 2 (fun b s =>
    match (groups s).find? (fun g => groupMgr s g == bB b 12 2) with
    | some g => if isSysMgr s then noteGroup s g (bB b 9 1) (bB b 24 2) else s
    | none => s) s

/-- ANNOUNCE (R522, R523; 20 R688). -/
def execLinkAnnounce (n : LinkIx) (flit : BitVec 256) (s : State) : Host.Outcome State Fault Refusal :=
  syncRecv n flit 3 (fun b s => if role s = 2 then setAnn s (bB b 9 1) (bB b 24 2) (bB b 16 8) else s) s

/-! Rounds (R508, R510, R517). -/

/-- The check open after an announcement's last copy (20 R687). -/
def nextOpen (s : State) (type j : Nat) : Option Nat :=
  match type with
  | 1 => if j + 1 < checksOf s 0 (schedMode s 0) then some (j + 1) else none
  | 2 => some j
  | 3 => some 0
  | _ => none

/-- CHORUS_ROUND (R507, R508, R517; 20 R679, R687 to R689; 22 R726): the round word sent is the response, bit 0 first. -/
def execChorusRound (s : State) : Host.Outcome State Fault Refusal :=
  let c := s.chorus
  let say := fun (s : State) (w : DWord) => { s with resp := { code := 0, data := leBytes 8 w.toNat } }
  guarded (drivesBus s) s
    (let s := count1 s 0x071 0
     let s := updChorus s (fun c => { c with rounds := c.rounds + 1 })
     match (if warmActive s || s.oos then none else c.ann) with
     | none => say s (mkWord 0 0 0)
     | some (type, j, res) =>
       if c.copies = 0 then
         say (updChorus s (fun c => { c with ann := none, openChk := nextOpen s type j, counted := [], lowRounds := 0 })) (mkWord 0 0 0)
       else if now s < c.annFrom then say s (mkWord 0 0 0)
       else
         let abort := c.openChk.isSome
         let s := if abort then postDone s 0x071 rOK 0x73 else s
         let s := if abort && isSysMgr s then announceAll s type j res else s
         say (updChorus s (fun c => { c with copies := c.copies - 1, openChk := none })) (mkWord type j res))

/-- ROUND_WORD (R510, R518, R520): a worker receives a round word. -/
def execRoundWord (word : DWord) (s : State) : Host.Outcome State Fault Refusal :=
  let c := s.chorus
  let locked := rgF s 0x071 0x04C 1 1 == 1
  guarded (role s == 1) s
    (let s := count1 s 0x071 0
     if goodWord word then
       let s := updChorus s (fun c => { c with good := c.good + 1, bad := 0 })
       if 2 ≤ c.good + 1 then setRgF s 0x071 0x04C 2 1 1 else s
     else
       let s := updChorus s (fun c => { c with good := 0, bad := c.bad + 1 })
       let s := raiseOpen (count1 s 0x071 3) 0x071 2
       if locked && decide (2 ≤ c.bad + 1) then raiseOpen (setRgF s 0x071 0x04C 1 1 0) 0x071 1 else s)

/-- MANAGER_LOST (R520). -/
def execManagerLost (s : State) : Host.Outcome State Fault Refusal :=
  guarded (role s == 1) s (updChorus (raiseOpen (setRgF s 0x071 0x04C 2 2 1) 0x071 0) (fun c => { c with good := 0 }))

/-! Slots (R511 to R516). -/

/-- Rounds in a row in which a slot read MISSING; a run reported once counts no further. -/
def missingRun (s : State) (k : Nat) : Nat := smGet (fun _ => 0) s.chorus.missing k
def setMissing (s : State) (k n : Nat) : State := updChorus s (fun c => { c with missing := smSet (fun _ => 0) c.missing k n })
def reportedRun : Nat := 2 ^ 20

/-- SLOT_ANSWER (R511, R514 to R516): the code sampled in a slot, and CHORUS_ALL at that edge (true: high). -/
def execSlotAnswer (slot : BitVec 6) (code : BitVec 4) (all : Bool) (s : State) : Host.Outcome State Fault Refusal :=
  let k := slot.toNat
  let v := code.toNat
  guarded (drivesBus s) s
    (let s := setRgF s 0x071 (0xE0 + 4 * (k / 8)) (4 * (k % 8) + 3) (4 * (k % 8)) v
     let s := if v = 0 then raiseOpen s 0x071 8 else s
     let inR := inRoster s k
     let s := if !inR && v != 0xF then raiseOpen s 0x071 5 else s
     match s.chorus.openChk with
     | none => s
     | some j =>
       let m := missingRun s k
       let s := if !inR then s else setMissing s k (if v = 0xF then (if m < reportedRun then m + 1 else m) else 0)
       let s := if inR && (v == 6 || v == 7) then raise s 0x071 4 k else s
       let counts := 2 ≤ v && v ≤ 5
       let s := if !inR then s else updChorus s (fun c => { c with
         counted := if counts then (if c.counted.contains k then c.counted else k :: c.counted) else c.counted.filter (· ≠ k) })
       let full := !(roster s).isEmpty && (roster s).all (fun i => s.chorus.counted.contains i)
       let s := updChorus s (fun c => { c with lowRounds := if full && !all then c.lowRounds + 1 else 0 })
       if full && all && inR && counts then completeCheck s j else s)

/-- MEMBER_SILENT (R516). -/
def execMemberSilent (slot : BitVec 6) (s : State) : Host.Outcome State Fault Refusal :=
  let k := slot.toNat
  guarded (drivesBus s && s.chorus.openChk.isSome && inRoster s k && decide (16 ≤ missingRun s k) && decide (missingRun s k < reportedRun)) s
    (raise (setMissing s k reportedRun) 0x071 3 k)

/-- CHORUS_ALL_DISAGREE (R515): every roster slot had answered while CHORUS_ALL was low, and it was low at each of the
64 edges of the round after that (the edge that found it is counted too). -/
def execChorusAllDisagree (s : State) : Host.Outcome State Fault Refusal :=
  guarded (drivesBus s && s.chorus.openChk.isSome && decide (65 ≤ s.chorus.lowRounds)) s
    (raiseOpen (updChorus s (fun c => { c with lowRounds := 0 })) 0x071 6)

end Sys2Proof.Machine
end

