-- ==== Sys2Proof/Machine/Crypto.lean ====
section
/-! DEFINITION. SHA-256, ECDSA P-256 signatures and their verification, and the derivation of the identity key, which the manual
names (12 R381, R382; 17 R576; 19 R670; 21 R695 to R697, R705) and FIPS 180-4, FIPS 186-5 and RFC 5869 define (log 8). -/

namespace Sys2Proof.Machine

/-! SHA-256. -/

/-- The first 64 primes: the numbers from 2 to 311 that no smaller prime divides. -/
def shaPrimes : List Nat :=
  (List.range 312).foldl (fun ps n => if 2 ≤ n ∧ ps.all (fun p => n % p != 0) then ps ++ [n] else ps) []

/-- The integer part of the e-th root of a number below 2^(37·e), bit by bit from the highest. -/
def intRoot (e n : Nat) : Nat :=
  (List.range 37).foldr (fun i r => if (r + 2 ^ i) ^ e ≤ n then r + 2 ^ i else r) 0

/-- The first 32 bits of the fractional part of the e-th root of a prime. -/
def fracRoot (e p : Nat) : Word := BitVec.ofNat 32 (intRoot e (p * 2 ^ (32 * e)))

/-- The round constants: cube roots of the first 64 primes. -/
def shaK : List Word := shaPrimes.map (fracRoot 3)

/-- The initial hash value: square roots of the first 8 primes. -/
def shaInit : List Word := (shaPrimes.take 8).map (fracRoot 2)

/-- A big-endian number of a byte list. -/
def beNat (l : List Byte) : Nat := leNat l.reverse
def beBytes (n v : Nat) : List Byte := (leBytes n v).reverse

/-- The message schedule, newest word first. -/
def shaExpand : Nat → List Word → List Word
  | 0, w => w
  | n + 1, w =>
    let a := w.getD 14 0
    let b := w.getD 1 0
    let s0 := (a.rotateRight 7) ^^^ (a.rotateRight 18) ^^^ (a >>> 3)
    let s1 := (b.rotateRight 17) ^^^ (b.rotateRight 19) ^^^ (b >>> 10)
    shaExpand n ((w.getD 15 0 + s0 + w.getD 6 0 + s1) :: w)

/-- One round on the eight working words a to h. -/
def shaRound (v : List Word) (kw : Word × Word) : List Word :=
  match v with
  | [a, b, c, d, e, f, g, h] =>
    let s1 := (e.rotateRight 6) ^^^ (e.rotateRight 11) ^^^ (e.rotateRight 25)
    let t1 := h + s1 + ((e &&& f) ^^^ (~~~e &&& g)) + kw.1 + kw.2
    let s0 := (a.rotateRight 2) ^^^ (a.rotateRight 13) ^^^ (a.rotateRight 22)
    let t2 := s0 + ((a &&& b) ^^^ (a &&& c) ^^^ (b &&& c))
    [t1 + t2, a, b, c, d + t1, e, f, g]
  | _ => v

/-- The sixteen words of a block, newest first. -/
def shaWords : Nat → List Byte → List Word
  | 0, _ => []
  | n + 1, l => BitVec.ofNat 32 (beNat (l.take 4)) :: shaWords n (l.drop 4)

def shaBlock (h : List Word) (blk : List Byte) : List Word :=
  let w := (shaExpand 48 (shaWords 16 blk).reverse).reverse
  List.zipWith (· + ·) h ((shaK.zip w).foldl shaRound h)

def shaBlocks : Nat → List Word → List Byte → List Word
  | 0, h, _ => h
  | n + 1, h, l => shaBlocks n (shaBlock h (l.take 64)) (l.drop 64)

/-- The SHA-256 digest of a byte list, 32 bytes. -/
def sha256 (l : List Byte) : List Byte :=
  let pad := (119 - l.length % 64) % 64
  let m := l ++ [0x80] ++ List.replicate pad 0 ++ beBytes 8 (8 * l.length)
  (shaBlocks (m.length / 64) shaInit m).flatMap (fun w => beBytes 4 w.toNat)

/-! ECDSA over P-256. -/

def p256P : Nat := 0xFFFFFFFF00000001000000000000000000000000FFFFFFFFFFFFFFFFFFFFFFFF
def p256N : Nat := 0xFFFFFFFF00000000FFFFFFFFFFFFFFFFBCE6FAADA7179E84F3B9CAC2FC632551
def p256B : Nat := 0x5AC635D8AA3A93E7B3EBBD55769886BC651D06B0CC53B0F63BCE3C3E27D2604B
def p256G : Nat × Nat :=
  (0x6B17D1F2E12C4247F8BCE6E563A440F277037D812DEB33A0F4A13945D898C296,
   0x4FE342E2FE1A7F9B8EE7EB4A7C0F9E162BCE33576B315ECECBB6406837BF51F5)

/-- a^e mod m, the exponent's bits taken from its most significant. -/
def powMod (m a : Nat) : List Bool → Nat → Nat
  | [], acc => acc
  | b :: bs, acc => powMod m a bs (acc * acc % m * (if b then a else 1) % m)

/-- The 256 bits of a number, most significant first. -/
def bits256 (n : Nat) : List Bool := ((List.range 256).map (bit n)).reverse

/-- The inverse modulo a prime. -/
def invMod (m a : Nat) : Nat := powMod m (a % m) (bits256 (m - 2)) 1

/-- The point is on the curve. -/
def onCurve (q : Nat × Nat) : Bool :=
  decide (q.1 < p256P) && decide (q.2 < p256P) &&
  q.2 * q.2 % p256P == (q.1 * q.1 * q.1 + (p256P - 3) * q.1 + p256B) % p256P

/-- The sum of two points; none is the point at infinity. -/
def ecAdd : Option (Nat × Nat) → Option (Nat × Nat) → Option (Nat × Nat)
  | none, q => q
  | q, none => q
  | some a, some b =>
    if a.1 = b.1 ∧ (a.2 + b.2) % p256P = 0 then none
    else
      let l := if a = b then (3 * a.1 * a.1 + (p256P - 3)) * invMod p256P (2 * a.2) % p256P
        else (b.2 + p256P - a.2) * invMod p256P (b.1 + p256P - a.1) % p256P
      let x := (l * l + 2 * p256P - a.1 - b.1) % p256P
      some (x, (l * (a.1 + p256P - x) + p256P - a.2) % p256P)

def ecMul (q : Nat × Nat) : List Bool → Option (Nat × Nat) → Option (Nat × Nat)
  | [], acc => acc
  | b :: bs, acc =>
    let d := ecAdd acc acc
    ecMul q bs (if b then ecAdd d (some q) else d)

/-- A signature (r then s, 32 bytes each, most significant byte first) over a digest verifies against a public key. -/
def ecdsaOk (key : Nat × Nat) (digest sig : List Byte) : Bool :=
  let r := beNat (slice sig 0 32)
  let s := beNat (slice sig 32 32)
  let z := beNat (slice digest 0 32)
  if r = 0 ∨ s = 0 ∨ p256N ≤ r ∨ p256N ≤ s ∨ !onCurve key then false
  else
    let w := invMod p256N s
    match ecAdd (ecMul p256G (bits256 (z * w % p256N)) none) (ecMul key (bits256 (r * w % p256N)) none) with
    | none => false
    | some q => q.1 % p256N == r

/-- The signature of a private scalar over a digest, with the scalar of a fresh nonce: r then s. -/
def ecdsaSign (d : Nat) (digest nonce : BitVec 256) : List Byte :=
  let k := nonce.toNat % (p256N - 1) + 1
  let r := ((ecMul p256G (bits256 k) none).getD (0, 0)).1 % p256N
  beBytes 32 r ++ beBytes 32 (invMod p256N k * (digest.toNat + r * d) % p256N)

/-! The identity key (21 R695). -/

/-- HMAC-SHA-256 with a key of at most 64 bytes. -/
def hmac (key msg : List Byte) : List Byte :=
  let pad := fun (x : Byte) => (key ++ List.replicate (64 - key.length) 0).map (· ^^^ x)
  sha256 (pad 0x5C ++ sha256 (pad 0x36 ++ msg))

/-- Up to n times 32 bytes of HKDF output from a pseudorandom key, each block from the one before. -/
def hkdfExpand (prk info : List Byte) : Nat → Nat → List Byte → List Byte
  | 0, _, _ => []
  | n + 1, i, prev => let t := hmac prk (prev ++ info ++ [BitVec.ofNat 8 i]); t ++ hkdfExpand prk info n (i + 1) t

/-- HKDF-SHA-256 without a salt, which RFC 5869 takes as 32 bytes 00h. -/
def hkdf (secret info : List Byte) (len : Nat) : List Byte :=
  (hkdfExpand (hmac (List.replicate 32 0) secret) info (ceilDiv len 32) 1 []).take len

/-- The private scalar of the identity key: d = (k mod (n − 1)) + 1 for 320 bits k of the output with info "VX4-DIK" (R695). -/
def identityScalar (secret : BitVec 256) : Nat :=
  beNat (hkdf (beBytes 32 secret.toNat) [0x56, 0x58, 0x34, 0x2D, 0x44, 0x49, 0x4B] 40) % (p256N - 1) + 1

end Sys2Proof.Machine
end

