-- ==== Sys2Proof/Machine/Desc.lean ====
section
/-! DEFINITION. Validation of descriptors and the commands of the descriptor pages (06 R185 to R206). -/

namespace Sys2Proof.Machine

/-- A failed check: its number, the dimension concerned, and the result. -/
structure DFail where
  check : Nat
  dim : Nat
  code : Nat
  deriving DecidableEq, Repr

/-- The first dimension below n that satisfies a test. -/
def firstDim (n : Nat) (f : Nat → Bool) : Option Nat := (List.range n).find? f

/-- STRIDE_d as its eight bytes, and the stride as the record gives it whatever the rank. -/
def dStrideRaw (d : BitVec 1024) (i : Nat) : Nat := dF d (0x30 + 8 * i) 8

/-- The lines addressed, counted from `BASE`, as addresses (R204). -/
def dLoAddr (d : BitVec 1024) : Int := dBase d + 72 * dMinLine d
def dHiAddr (d : BitVec 1024) : Int := dBase d + 72 * dMaxLine d + 71

/-- Check 1h: reserved fields. -/
def dCheck1 (d : BitVec 1024) : Option Nat :=
  if 2 ^ 52 ≤ dBase d ∨ bit (dCtl d) 7 ∨ bits (dCtl d) 31 20 ≠ 0 ∨ 2 ^ 20 ≤ dIdxDesc d ∨ 2 ^ 52 ≤ dSparseBase d ∨ dF d 0x68 24 ≠ 0
  then some 0
  else firstDim 6 (fun i => dStrideRaw d i / 2 ^ 40 != (if bit (dStrideRaw d i) 39 then 0xFFFFFF else 0))

/-- Check 2h: codes, sizes and the index limit. -/
def dCheck2 (d : BitVec 1024) : Option Nat :=
  if perLine (dFormat d) = 0 ∨ dRank d = 0 ∨ 6 < dRank d ∨ dAccess d = 3 then some 0
  else match firstDim 6 (fun i => if i < dRank d then dSize d i == 0 else dSize d i != 0 || dStrideRaw d i != 0) with
    | some i => some i
    | none => if dIdxEn d && dLimit d == 0 then some 0 else none

/-- Check 3h: narrow layout, sparsity and scatter-add (R190, R192). -/
def dCheck3 (d : BitVec 1024) : Option Nat :=
  let e : Int := perLine (dFormat d)
  let narrow := if !dNarrow d then (if dSparse d then some 0 else none)
    else if dRank d ≤ dKdim d then some (dKdim d)
    else match firstDim (dRank d) (fun i => if i == dKdim d then dStride d i != 1 else decide (1 < dExtent d i) && dStride d i % e != 0) with
      | some i => some i
      | none => if dSparse d && dSize d (dKdim d) % 2 == 1 then some (dKdim d)
          else if dSparse d && dSparseBase d % 16 != 0 then some 0 else none
  match narrow with
  | some i => some i
  | none => if dScatterAdd d && (!dIdxEn d || (dFormat d != 9 && dFormat d != 8)) then some 0 else none

/-- Check 4h: the index tensor. -/
def dCheck4 (look : Nat → Option (BitVec 1024)) (d : BitVec 1024) : Option Nat :=
  if !dIdxEn d then none
  else
    let i := dIdxDim d
    let bad := decide (dRank d ≤ i) || (dNarrow d && i == dKdim d) || (match look (dIdxDesc d) with
      | none => true
      | some x => dFormat x != 0xA || !dIsRead x || dRank x != 1 || dIdxEn x || dSize x 0 != dSize d i)
    if bad then some i else none

/-- Check 7h: the sparse index stream of the addressed lines lies inside the allocation (R192). -/
def dSparseInside (d : BitVec 1024) (a : Alloc) : Bool :=
  let b : Int := if perLine (dFormat d) = 128 then 32 else 16
  decide ((a.base : Int) ≤ dSparseBase d + b * dMinLine d) &&
  decide ((dSparseBase d : Int) + b * dMaxLine d + b ≤ a.base + a.size)

/-- A dimension put into a list sorted by |stride|, ties by number (R206). -/
def insertDim (d : BitVec 1024) (i : Nat) : List Nat → List Nat
  | [] => [i]
  | j :: js => if (dStride d j).natAbs ≤ (dStride d i).natAbs then j :: insertDim d i js else i :: j :: js

/-- The dimensions with n_d above 1, sorted (R206). -/
def sortedDims (d : BitVec 1024) : List Nat :=
  ((List.range (dRank d)).filter (fun i => decide (1 < dExtent d i))).foldl (fun l i => insertDim d i l) []

/-- The injectivity proof of R206: the dimension at which it fails. -/
def injFail (d : BitVec 1024) : Nat → List Nat → Option Nat
  | _, [] => none
  | span, i :: is =>
    if (dStride d i).natAbs < span then some i else injFail d (span + (dExtent d i - 1) * (dStride d i).natAbs) is

/-- Validation (R203): none when the record passes. `look` names live descriptors, `al` allocations. -/
def validate (look : Nat → Option (BitVec 1024)) (al : Nat → Option Alloc) (d : BitVec 1024) : Option DFail :=
  match dCheck1 d with
  | some i => some ⟨1, i, rUNSUP⟩
  | none =>
  match dCheck2 d with
  | some i => some ⟨2, i, rUNSUP⟩
  | none =>
  match dCheck3 d with
  | some i => some ⟨3, i, rUNSUP⟩
  | none =>
  match dCheck4 look d with
  | some i => some ⟨4, i, rUNSUP⟩
  | none =>
  match al (dAlloc d) with
  | none => some ⟨5, 0, rRANGE⟩
  | some a =>
    if a.sealed then some ⟨5, 0, rRANGE⟩
    else if !isLineAddr (dBase d) || decide (dLoAddr d < a.base) || decide ((a.base : Int) + a.size ≤ dHiAddr d) then some ⟨6, 0, rRANGE⟩
    else if dSparse d && !dSparseInside d a then some ⟨7, 0, rRANGE⟩
    else if !dIsWrite d then none
    else match firstDim (dRank d) (fun i => dStride d i == 0 && decide (1 < dSize d i)) with
      | some i => some ⟨8, i, rALIAS⟩
      | none => (injFail d 1 (sortedDims d)).map (fun i => ⟨9, i, rALIAS⟩)

/-! Commands (R196 to R202). -/

def dpage (p : Nat) : Nat := 0x28 + p
def descFail (p check dim : Nat) (s : State) : State := setRg s (dpage p) 0xC4 (BitVec.ofNat 32 (check + 16 * dim + 2 ^ 31))
def descStage (s : State) (p : Nat) : BitVec 1024 :=
  BitVec.ofNat 1024 (leNat ((List.range 32).flatMap (fun k => leBytes 4 (rg s (dpage p) (0x40 + 4 * k)).toNat)))

/-- The gate of a descriptor command: its argument, then the partition it needs (R198, R199). -/
def descCmd (p code : Nat) (arg : Arg) (refuse : State → State) (act : Nat → State → State) (s : State) :
    Host.Outcome State Fault Refusal :=
  .next (command s (dpage p) code arg false refuse (fun s =>
    if 2 ^ 20 ≤ arg.toNat then postResult (refuse s) (dpage p) rUNSUP code
    else if nParts s ≤ p then postResult (refuse s) (dpage p) rGEOM code
    else act arg.toNat s))

/-- DESC_CREATE (R197, R200, R203). -/
def execDescCreate (p : PartIx) (arg : Arg) (s : State) : Host.Outcome State Fault Refusal :=
  let p := p.toNat
  descCmd p 0x10 arg (descFail p 0 0) (fun n s =>
    if hasImage s p && (getDesc s p n).isSome then postResult (descFail p 0 0 s) (dpage p) rBUSY 0x10
    else match validate (getDesc s p) (getAlloc s p) (descStage s p) with
      | some f => postResult (descFail p f.check f.dim s) (dpage p) f.code 0x10
      | none => postResult (setRg (setDesc s p n (descStage s p)) (dpage p) 0xC4 0) (dpage p) rOK 0x10) s

/-- Another live descriptor's index tensor is n (R201). -/
def isIndexOf (s : State) (p n : Nat) : Bool := (partDescs s p).any (fun d => d.1 != n && dIdxEn d.2 && dIdxDesc d.2 == n)

/-- The executing copy-queue entry names descriptor n (16 R559). -/
def copyNames (s : State) (p n : Nat) : Bool :=
  match (getPart s p).cqBusy with
  | none => false
  | some e => leAt e 0xC 4 == n || (leAt e 0 1 == 1 && leAt e 8 4 == n)

/-- DESC_DESTROY (R198, R200, R201). -/
def execDescDestroy (p : PartIx) (arg : Arg) (s : State) : Host.Outcome State Fault Refusal :=
  let p := p.toNat
  descCmd p 0x11 arg id (fun n s =>
    if hasImage s p || isIndexOf s p n || copyNames s p n then postResult s (dpage p) rBUSY 0x11
    else postResult { s with descs := smDel s.descs (p * 2 ^ 20 + n) } (dpage p) rOK 0x11) s

/-- DESC_READ (R198). -/
def execDescRead (p : PartIx) (arg : Arg) (s : State) : Host.Outcome State Fault Refusal :=
  let p := p.toNat
  descCmd p 0x12 arg id (fun n s =>
    match getDesc s p n with
    | none => postResult s (dpage p) rRANGE 0x12
    | some d => postResult ((List.range 32).foldl (fun s k =>
        setRg s (dpage p) (0x40 + 4 * k) (BitVec.ofNat 32 (dF d (4 * k) 4))) s) (dpage p) rOK 0x12) s

end Sys2Proof.Machine
end

