-- ==== Sys2Proof/Machine/Image.lean ====
section
/-! DEFINITION. The commands of the image pages (12 R380 to R402, R733, R734): loading and unloading an image, saving and
restoring a context. -/

namespace Sys2Proof.Machine

/-! The image's bytes (R380 to R383, R733). -/

/-- n little-endian bytes of an image from byte o. -/
def imgNat (s : State) (base o n : Nat) : Nat := leNat (peekBytes s (base + o) n)

/-- What the header says, and the sections as (offset, bytes). -/
structure Header where
  base : Nat
  size : Nat
  tiles : Nat
  role : Nat
  roster : Nat
  modes : Nat
  relaxed : Bool
  descs : Nat
  allocs : Nat
  descOff : Nat
  allocOff : Nat
  recOff : Nat
  recSize : Nat
  sched : List Nat
  initOff : Nat
  sigOff : Nat

def readHeader (s : State) (base : Nat) : Header :=
  let n := imgNat s base
  { base := base, size := n 8 8, tiles := n 0x10 1, role := n 0x11 1, roster := n 0x12 2, modes := n 0x14 1, relaxed := bit (n 0x15 1) 0,
    descs := n 0x18 4, allocs := n 0x1C 4, descOff := n 0x20 8, allocOff := n 0x28 8, recOff := n 0x30 8, recSize := n 0x38 8,
    sched := [n 0x40 8, n 0x48 8, n 0x50 8], initOff := n 0x58 8, sigOff := n 0x60 8 }

/-- The header's own fields break R380. -/
def headerBad (s : State) (h : Header) (room : Nat) : Bool :=
  let n := imgNat s h.base
  decide (room < 256) || n 0 4 != 0x454F5453 || n 5 1 != 1 || n 6 2 != 0 || decide (h.size < 256) || decide (room < h.size)
  || !([32, 64, 128].contains h.tiles) || 1 < h.role || (if h.role = 0 then h.roster != 0 else !(2 ≤ h.roster && h.roster ≤ 64))
  || 8 ≤ h.modes || 2 ≤ n 0x15 1 || n 0x16 2 != 0 || n 0x68 0x98 != 0

/-- The initial-contents entries from an offset, as (head offset, tile, store offset, length), and the offset of the
closing head (R733). `fuel`: the heads that fit. -/
def initWalk (s : State) (base size : Nat) : Nat → Nat → List (Nat × Nat × Nat × Nat) × Option Nat
  | 0, _ => ([], none)
  | fuel + 1, o =>
    if size < o + 16 then ([], none)
    else
      let len := imgNat s base (o + 8) 4
      if len = 0 then ([], some o)
      else
        let (l, e) := initWalk s base size fuel (ceilDiv (o + 16 + len) 72 * 72)
        ((o, imgNat s base o 4, imgNat s base (o + 4) 4, len) :: l, e)

def initEntries (s : State) (h : Header) : List (Nat × Nat × Nat × Nat) × Option Nat :=
  if h.initOff = 0 then ([], some 0) else initWalk s h.base h.size (h.size / 72 + 1) h.initOff

/-- The streams of a schedule section, as (offset, bytes), and its header's length (R383). -/
def schedParts (s : State) (h : Header) (o : Nat) : Nat × List (Nat × Nat) :=
  let j := imgNat s h.base o 4
  let dir := 8 + 8 * j
  (dir + 80 * h.tiles, (List.range (5 * h.tiles)).map (fun k =>
    (imgNat s h.base (o + dir + 16 * k) 8, 16 * imgNat s h.base (o + dir + 16 * k + 8) 4)))

/-- Every section, the header and the initial-contents entries included. -/
def sections (s : State) (h : Header) : List (Nat × Nat) :=
  let scheds := (h.sched.filter (· ≠ 0)).flatMap (fun o => let (n, l) := schedParts s h o; (o, n) :: l)
  let (es, e) := initEntries s h
  let inits := if h.initOff = 0 then [] else es.map (fun x => (x.1, 16 + x.2.2.2)) ++ (e.map (fun o => (o, 16))).toList
  [(0, 256), (h.descOff, 136 * h.descs), (h.allocOff, 16 * h.allocs), (h.recOff, h.recSize)] ++ scheds ++ inits
    ++ (if h.sigOff = 0 then [] else [(h.sigOff, 64)])

/-- Some two sections of a list overlap. -/
def overlapBad : List (Nat × Nat) → Bool
  | [] => false
  | a :: l => l.any (spansMeet a) || overlapBad l

/-- Number and record of a descriptor-section entry; handle, tier and minimum size of an allocation-section entry. -/
def descEntry (s : State) (h : Header) (i : Nat) : Nat × BitVec 1024 :=
  (imgNat s h.base (h.descOff + 136 * i) 8, descOfBytes (peekBytes s (h.base + h.descOff + 136 * i + 8) 128))
def allocEntry (s : State) (h : Header) (i : Nat) : Nat × Nat × Nat :=
  (imgNat s h.base (h.allocOff + 16 * i) 4, imgNat s h.base (h.allocOff + 16 * i + 4) 1, imgNat s h.base (h.allocOff + 16 * i + 8) 8)

/-- Stage 1: the layout (R380, R381, R383, R733). -/
def layoutBad (s : State) (h : Header) (room : Nat) : Bool :=
  headerBad s h room ||
  (let ss := sections s h
   let (es, e) := initEntries s h
   ss.any (fun x => x.1 % 72 != 0 || decide (h.size < x.1 + x.2)) || overlapBad (ss.filter (fun x => x.2 ≠ 0))
   || (h.sigOff != 0 && h.sigOff + 64 != h.size)
   || (List.range h.descs).any (fun i => decide (2 ^ 20 ≤ (descEntry s h i).1))
   || (List.range h.allocs).any (fun i => decide (1 < (allocEntry s h i).2.1) || imgNat s h.base (h.allocOff + 16 * i + 5) 3 != 0)
   || (h.sched.filter (· ≠ 0)).any (fun o =>
        let dir := o + 8 + 8 * imgNat s h.base o 4
        (List.range (5 * h.tiles)).any (fun k => imgNat s h.base (dir + 16 * k + 12) 4 != 0))
   || es.any (fun x => imgNat s h.base (x.1 + 12) 4 != 0)
   || (match e with | none => true | some o => h.initOff != 0 && imgNat s h.base o 16 != 0))

/-- The image digest and its signature (R381, R382). -/
def imgDigest (s : State) (h : Header) : List Byte :=
  sha256 (peekBytes s h.base (if h.sigOff = 0 then h.size else h.sigOff))
def imgSig (s : State) (h : Header) : List Byte := if h.sigOff = 0 then [] else peekBytes s (h.base + h.sigOff) 64

/-- The customer key staged on page 011h (21 R704). -/
def stagedKey (s : State) : Nat × Nat :=
  let at_ := fun o => beNat ((List.range 8).flatMap (fun k => leBytes 4 (rg s 0x011 (o + 4 * k)).toNat))
  (at_ 0x50, at_ 0x70)
def keyEnabled (s : State) : Bool := rgF s 0x011 0x44 0 0 == 1

/-- The state in which stage 6 reads the image: its descriptors live, its header in force. -/
def asLoaded (s : State) (p : Nat) (h : Header) (i : Img) : State :=
  let s := updPart s p (fun x => { x with img := some i })
  (List.range h.descs).foldl (fun s k =>
    let e := descEntry s h k
    { s with descs := smSet (fun _ => (0 : BitVec 1024)) s.descs (p * 2 ^ 20 + e.1) e.2 }) s

/-- Stage 6 (R387). -/
def stage6 (s : State) (p : Nat) (h : Header) (i : Img) : Option Nat :=
  let modes := (List.range 3).filter (fun m => bit h.modes m)
  let (es, _) := initEntries s h
  let s' := asLoaded s p h i
  if (List.range 3).any (fun m => bit h.modes m != (h.sched.getD m 0 != 0)) then some 0
  else match es.find? (fun x => decide (h.tiles ≤ x.2.1 ∨ tsSize < x.2.2.1 + x.2.2.2)) with
    | some x => some (x.2.1 % 2 ^ 20)
    | none =>
      if commitBad s' p modes then some 0
      else modes.findSome? (fun m => modeBad s' p m h.tiles h.recSize (h.role == 1) h.relaxed)

/-- The first failing stage of the image in an allocation: stage, item, result (R387). -/
def imgCheck (s : State) (p : Nat) (h : Header) (room : Nat) (i : Img) : Option (Nat × Nat × Nat) :=
  let al := fun n => getAlloc s p n
  let image := fun (n : Nat) => ((List.range h.descs).find? (fun k => (descEntry s h k).1 == n)).map (fun k => (descEntry s h k).2)
  let look := fun n => match image n with | some d => some d | none => getDesc s p n
  let bads := ((List.range h.descs).filterMap (fun k =>
      (validate look al (descEntry s h k).2).map (fun f => ((descEntry s h k).1, f.code)))).mergeSort (fun a b => decide (a.1 ≤ b.1))
  if layoutBad s h room then some (1, 0, rUNSUP)
  else if h.tiles ≠ tilesPer s ∨ (h.role = 0 ∧ role s ≠ 0) ∨ (h.role = 1 ∧ (role s = 0 ∨ h.roster ≠ (roster s).length)) then some (2, 0, rGEOM)
  else if keyEnabled s && !(h.sigOff != 0 && ecdsaOk (stagedKey s) (imgDigest s h) (imgSig s h)) then some (3, 0, rSIGBAD)
  else match (List.range h.allocs).find? (fun k =>
      let (n, tier, size) := allocEntry s h k
      match al n with | some a => a.tierS != (tier == 1) || decide (a.size < size) | none => true) with
    | some k => some (4, k, rRANGE)
    | none =>
      match bads.head? with
      | some (n, c) => some (5, n, c)
      | none => (stage6 s p h i).map (fun t => (6, t, rUNSUP))

/-! Loading and unloading. -/

/-- Argument, partition, then the command (R386). -/
def imgCmd (p code : Nat) (arg : Arg) (refuse : State → State) (act : State → State) (s : State) : Host.Outcome State Fault Refusal :=
  .next (command0 s (imgPage p) code arg refuse (fun s =>
    if nParts s ≤ p then postResult (refuse s) (imgPage p) rGEOM code else act s))

/-- `IMG_FAIL` records a refusal (R385). -/
def imgFail (s : State) (p stage item : Nat) : State :=
  setRg s (imgPage p) 0x48 (BitVec.ofNat 32 (stage + 16 * (item % 2 ^ 20) + 2 ^ 31))

/-- Every tile of the partition and both tiers are READY (R387). -/
def partReady (s : State) (p : Nat) : Bool := (partTiles s p).all (fun t => getReady s (tpage s t)) && tierReady s false && tierReady s true

/-- IMAGE_LOAD (R386 to R388). -/
def execImageLoad (p : PartIx) (arg : Arg) (s : State) : Host.Outcome State Fault Refusal :=
  let p := p.toNat
  imgCmd p 0x20 arg id (fun s =>
    if hasImage s p then postResult s (imgPage p) rBUSY 0x20
    else if !partReady s p then postResult s (imgPage p) rNOTREADY 0x20
    else
      let h := (rg s (imgPage p) 0x40).toNat
      let i : Img := { handle := h, base := ((getAlloc s p h).map (fun a => a.base)).getD 0, size := 0, tiles := 0, group := false,
                       modes := 0, relaxed := false, recOff := 0, recSize := 0, sched := [], sigOff := 0, signed := false,
                       digest := [], descs := [], loading := true }
      let s := updPart (sealAlloc s p h true) p (fun x => { x with img := some i, restored := false })
      postRunning (setImgState s p 1) (imgPage p) 0x20) s

/-- A load is refused: everything as before it, but for `IMG_FAIL` (R388). -/
def refuseLoad (s : State) (p handle stage item code : Nat) : State :=
  let s := updPart (sealAlloc s p handle false) p (fun x => { x with img := none })
  let s := if stage = 3 then count1 s 0x011 2 else s
  postDone (imgFail (setImgState s p 0) p stage item) (imgPage p) code 0x20

/-- The image loaded (R388). -/
def acceptLoad (s : State) (p : Nat) (h : Header) (i : Img) : State :=
  let s := updPart s p (fun x => { x with img := some i })
  let s := (List.range h.descs).foldl (fun s k => let e := descEntry s h k; setDesc s p e.1 e.2) s
  let s := (initEntries s h).1.foldl (fun s x =>
    updTile s (firstTile s p + x.2.1) (fun y => tsWrite y x.2.2.1 (peekBytes s (h.base + x.1 + 16) x.2.2.2))) s
  let s := setDigest s p i.digest
  let s := setRg s (imgPage p) 0x44 (BitVec.ofNat 32 (2 + 16 * h.modes + 128 * i.signed.toNat + 256 * h.tiles))
  postDone s (imgPage p) rOK 0x20

/-- The image that a header in the sealed allocation describes (R380 to R383, R388). -/
def imgMade (s : State) (handle : Nat) (h : Header) : Img :=
  { handle := handle, base := h.base, size := h.size, tiles := h.tiles, group := h.role == 1, modes := h.modes,
    relaxed := h.relaxed, recOff := h.recOff, recSize := h.recSize, sched := h.sched, sigOff := h.sigOff,
    signed := keyEnabled s, digest := imgDigest s h, descs := (List.range h.descs).map (fun k => (descEntry s h k).1),
    loading := false }

/-- IMAGE_LOAD_COMPLETE (R387, R388). -/
def execImageLoadComplete (p : PartIx) (s : State) : Host.Outcome State Fault Refusal :=
  let p := p.toNat
  match (getPart s p).img with
  | none => skip s
  | some i0 =>
    guarded (i0.loading && cmdRuns s (imgPage p) 0x20) s
      (match getAlloc s p i0.handle with
       | none => refuseLoad s p i0.handle 1 0 rUNSUP
       | some a =>
         let h := readHeader s a.base
         let i := imgMade s i0.handle h
         match imgCheck s p h a.size i with
         | some (st, item, code) => refuseLoad s p i0.handle st item code
         | none => acceptLoad s p h i)

/-- IMAGE_UNLOAD (R390). -/
def execImageUnload (p : PartIx) (arg : Arg) (s : State) : Host.Outcome State Fault Refusal :=
  let p := p.toNat
  imgCmd p 0x21 arg id (fun s =>
    if isRunning s p || (getPart s p).armed.isSome then postResult s (imgPage p) rBUSY 0x21
    else postResult (dropImage s p) (imgPage p) rOK 0x21) s

/-! Contexts (R397 to R402). Their byte layout is the model's (log 40): a 64-byte header (image digest, tile count, counts of the
three sections below, seed, zeros), descriptors of 136 bytes, allocations of 24, sync objects of 24, and a section for each
tile; then the digest. -/

/-- Allocations that live descriptors of the partition name. -/
def ctxAllocs (s : State) (p : Nat) : List Alloc := (partAllocs s p).filter (fun a => allocNamed s p a.handle)
/-- LOCAL-scope sync objects of the partition. -/
def ctxSync (s : State) (p : Nat) : List (Nat × SyncObj) := s.sync.filter (fun e => oType e.2 != 0 && oScope e.2 == 0 && oPart e.2 == p)

/-- Bytes of a tile section: store, outlier table (its count and capacity, then 32 entries), slots, table banks. -/
def ctxTile : Nat := tsSize + 136 + 16 + 1024

/-- The bytes R397 needs now, its digest included; 0, the register's reset value, while no image is loaded (log 40). -/
def ctxSize (s : State) (p : Nat) : Nat :=
  if (getPart s p).img.isNone then 0
  else 64 + 136 * (partDescs s p).length + 24 * (ctxAllocs s p).length + 24 * (ctxSync s p).length + ctxTile * tilesPer s + 32

def ctxTileBytes (x : Tile) : List Byte :=
  tsBytes x 0 tsSize ++ leBytes 4 x.outTab.length ++ leBytes 4 x.lastCap
  ++ (List.range 32).flatMap (fun k => leBytes 4 (x.outTab.getD k 0))
  ++ (List.range 16).map (fun k => BitVec.ofNat 8 (dslot x k))
  ++ (List.range 1024).map (fun k => smGet (fun _ => (0 : BitVec 8)) x.banks k)

/-- The context of a partition, without its digest. -/
def ctxBytes (s : State) (p : Nat) : List Byte :=
  let ds := partDescs s p
  let as_ := ctxAllocs s p
  let os := ctxSync s p
  let dig := ((getPart s p).img.map (fun i => i.digest)).getD []
  slice dig 0 32 ++ leBytes 4 (tilesPer s) ++ leBytes 4 ds.length ++ leBytes 4 as_.length ++ leBytes 4 os.length
  ++ leBytes 8 (getPart s p).seed.toNat ++ leBytes 8 0
  ++ ds.flatMap (fun d => leBytes 8 d.1 ++ descBytes d.2)
  ++ as_.flatMap (fun a => leBytes 4 a.handle ++ leBytes 4 a.tierS.toNat ++ leBytes 8 a.base ++ leBytes 8 a.size)
  ++ os.flatMap (fun o => leBytes 4 o.1 ++ leBytes 4 o.2.ctl.toNat ++ leBytes 4 o.2.limit.toNat ++ leBytes 4 0 ++ leBytes 8 o.2.value.toNat)
  ++ (partTiles s p).flatMap (fun t => ctxTileBytes (getTile s t))

/-- Bytes the device writes over a long range, 64 at a time; lines wholly inside lose their poisoning (14 R465). -/
def pokeLong (s : State) (a : Nat) (l : List Byte) : State :=
  let s := (List.range (ceilDiv l.length 64)).foldl (fun s k => pokeBytes s (a + 64 * k) ((l.drop (64 * k)).take 64)) s
  { s with mem := { s.mem with poison := s.mem.poison.filter (fun e => !(decide (a ≤ e.1 ∧ e.1 + 72 ≤ a + l.length))) } }

def ctxHandle (s : State) (p : Nat) : Nat := (rg s (imgPage p) 0x4C).toNat
/-- The partition's schedule runs or a launch is armed. -/
def launchBusy (s : State) (p : Nat) : Bool := isRunning s p || (getPart s p).armed.isSome
/-- An image is loaded, not merely loading. -/
def imgReady (s : State) (p : Nat) : Bool := match (getPart s p).img with | some i => !i.loading | none => false

/-- The context and its digest written into an allocation (R397, R398). -/
def ctxWrite (s : State) (p : Nat) (a : Alloc) : State :=
  let b := ctxBytes s p
  pokeLong s a.base (b ++ sha256 b)

/-- CTX_SAVE (R397, R398): the context is that of the command's start (log 40). -/
def execCtxSave (p : PartIx) (arg : Arg) (s : State) : Host.Outcome State Fault Refusal :=
  let p := p.toNat
  imgCmd p 0x22 arg id (fun s =>
    if launchBusy s p then postResult s (imgPage p) rBUSY 0x22
    else if !imgReady s p then postResult s (imgPage p) rNOTREADY 0x22
    else match getAlloc s p (ctxHandle s p) with
      | none => postResult s (imgPage p) rRANGE 0x22
      | some a =>
        if a.size < ctxSize s p then postResult s (imgPage p) rRANGE 0x22
        else
          postRunning (updPart (ctxWrite s p a) p (fun x => { x with saving := some (ctxHandle s p) })) (imgPage p) 0x22) s

/-- CTX_SAVE_COMPLETE (R398, R402). -/
def execCtxSaveComplete (p : PartIx) (s : State) : Host.Outcome State Fault Refusal :=
  let p := p.toNat
  guarded ((getPart s p).saving.isSome) s
    (postDone (count1 (updPart s p (fun x => { x with saving := none })) (imgPage p) 3) (imgPage p) rOK 0x22)

/-- A saved context as it lies in an allocation: header fields, and its sections' first bytes. -/
structure Ctx where
  base : Nat
  tiles : Nat
  nd : Nat
  na : Nat
  no : Nat
  seed : Nat

def readCtx (s : State) (base : Nat) : Ctx :=
  let n := imgNat s base
  { base := base, tiles := n 32 4, nd := n 36 4, na := n 40 4, no := n 44 4, seed := n 48 8 }
def Ctx.allocsAt (c : Ctx) : Nat := 64 + 136 * c.nd
def Ctx.syncAt (c : Ctx) : Nat := c.allocsAt + 24 * c.na
def Ctx.tilesAt (c : Ctx) : Nat := c.syncAt + 24 * c.no
def Ctx.len (c : Ctx) : Nat := c.tilesAt + ctxTile * c.tiles
def Ctx.desc (s : State) (c : Ctx) (k : Nat) : Nat × BitVec 1024 :=
  (imgNat s c.base (64 + 136 * k) 8, descOfBytes (peekBytes s (c.base + 64 + 136 * k + 8) 128))
/-- Handle, tier, base and size of a saved allocation. -/
def Ctx.alloc (s : State) (c : Ctx) (k : Nat) : Nat × Bool × Nat × Nat :=
  let n := fun o w => imgNat s c.base (c.allocsAt + 24 * k + o) w
  (n 0 4, n 4 4 == 1, n 8 8, n 16 8)
/-- How far a saved allocation has moved. -/
def Ctx.delta (s : State) (p : Nat) (c : Ctx) (handle : Nat) : Int :=
  match (List.range c.na).find? (fun k => (c.alloc s k).1 == handle), getAlloc s p handle with
  | some k, some a => (a.base : Int) - (c.alloc s k).2.2.1
  | _, _ => 0
/-- The relocated descriptors (R400). -/
def Ctx.moved (s : State) (p : Nat) (c : Ctx) : List (Nat × BitVec 1024) :=
  (List.range c.nd).map (fun k => let d := c.desc s k; (d.1, dRelocate d.2 (c.delta s p (dAlloc d.2))))

/-- The first failing stage of a restore (R399). -/
def ctxCheck (s : State) (p : Nat) : Option (Nat × Nat × Nat) :=
  match getAlloc s p (ctxHandle s p) with
  | none => some (8, 0, rUNSUP)
  | some a =>
    let c := readCtx s a.base
    let dig := ((getPart s p).img.map (fun i => i.digest)).getD []
    let ds := c.moved s p
    let look := fun n => (ds.find? (fun d => d.1 == n)).map (fun d => d.2)
    if a.size < 96 ∨ imgNat s a.base 56 8 ≠ 0 ∨ !([32, 64, 128].contains c.tiles) ∨ a.size < c.len + 32 then some (8, 0, rUNSUP)
    else if sha256 (peekBytes s a.base c.len) ≠ peekBytes s (a.base + c.len) 32 then some (9, 0, rSIGBAD)
    else if peekBytes s a.base 32 ≠ dig then some (0xA, 0, rSIGBAD)
    else if c.tiles ≠ tilesPer s then some (0xB, 0, rGEOM)
    else match (List.range c.na).find? (fun k =>
        let (h, ts, _, size) := c.alloc s k
        match getAlloc s p h with | some b => b.tierS != ts || decide (b.size < size) | none => true) with
      | some k => some (0xC, k, rRANGE)
      | none =>
        match (List.range c.na).find? (fun k =>
            let (h, ts, _, _) := c.alloc s k
            c.delta s p h % (72 * (if ts then 80 else 320)) != 0) with
        | some k => some (0xD, k, rGEOM)
        | none =>
          match ds.findSome? (fun d => (validate look (getAlloc s p) d.2).map (fun f => (d.1, f.code))) with
          | some (n, code) => some (0xE, n, code)
          | none => none

/-- A tile takes a tile section; what its directory said of the old bytes is gone. -/
def ctxTileRestore (s : State) (at_ t : Nat) : State :=
  let nat := fun o w => imgNat s at_ (tsSize + o) w
  updTile s t (fun x => { tsWrite x 0 (peekBytes s at_ tsSize) with
    unver := [], dir := []
    outTab := (List.range (min 32 (nat 0 4))).map (fun k => nat (8 + 4 * k) 4)
    lastCap := nat 4 4
    dscale := (List.range 16).foldl (fun m k => smSet (fun _ => (0x7F : BitVec 8)) m k (BitVec.ofNat 8 (nat (136 + k) 1))) []
    banks := (List.range 1024).foldl (fun m k => smSet (fun _ => (0 : BitVec 8)) m k (BitVec.ofNat 8 (nat (152 + k) 1))) [] })

/-- The partition takes a saved context (R400). -/
def ctxApply (s : State) (p : Nat) (c : Ctx) : State :=
  let ds := c.moved s p
  let objs := (List.range c.no).map (fun k =>
    let n := fun o w => imgNat s c.base (c.syncAt + 24 * k + o) w
    (n 0 4, ({ ctl := putFld (BitVec.ofNat 32 (n 4 4)) 6 5 p, limit := BitVec.ofNat 32 (n 8 4), value := BitVec.ofNat 64 (n 16 8) } : SyncObj)))
  let kept := (ctxSync s p).foldl (fun m e => smDel m e.1) s.sync
  let s1 := (List.range c.tiles).foldl (fun s k => ctxTileRestore s (c.base + c.tilesAt + ctxTile * k) (firstTile s p + k)) s
  let s1 := { s1 with descs := s1.descs.filter (fun e => e.1 / 2 ^ 20 ≠ p), sync := objs.foldl (fun m e => smSet (fun _ => {}) m e.1 e.2) kept }
  let s1 := ds.foldl (fun s d => setDesc s p d.1 d.2) s1
  setRgF (updPart s1 p (fun x => { x with seed := BitVec.ofNat 64 c.seed, heldSeed := none, restored := true })) (imgPage p) 0x44 16 16 1

/-- CTX_RESTORE (R399, R400): the bytes that the stages checked are the ones restored, at once (log 40). -/
def execCtxRestore (p : PartIx) (arg : Arg) (s : State) : Host.Outcome State Fault Refusal :=
  let p := p.toNat
  imgCmd p 0x23 arg id (fun s =>
    if launchBusy s p then postResult s (imgPage p) rBUSY 0x23
    else if !imgReady s p then postResult s (imgPage p) rNOTREADY 0x23
    else match ctxCheck s p with
      | some (st, item, code) => postResult (imgFail s p st item) (imgPage p) code 0x23
      | none =>
        let base := ((getAlloc s p (ctxHandle s p)).map (fun a => a.base)).getD 0
        let h := ctxHandle s p
        postRunning (updPart (ctxApply s p (readCtx s base)) p (fun x => { x with restoring := some h })) (imgPage p) 0x23) s

/-- CTX_RESTORE_COMPLETE (R400, R402). -/
def execCtxRestoreComplete (p : PartIx) (s : State) : Host.Outcome State Fault Refusal :=
  let p := p.toNat
  guarded ((getPart s p).restoring.isSome) s
    (postDone (count1 (updPart s p (fun x => { x with restoring := none })) (imgPage p) 4) (imgPage p) rOK 0x23)

end Sys2Proof.Machine
end

