-- ==== Sys2Proof/Machine/RegFile.lean ====
section
/-! DEFINITION. The register file as the host sees it: what every register of BAR0 reads, and the writes that set one (02
R38 to R74, and the register tables of the other chapters). -/

namespace Sys2Proof.Machine

/-! Header registers that show state held elsewhere (R41, R69). -/

/-- `BLK_STATUS.FAULT`: an enabled sticky event of a class other than CORRECTED on some page of the block. -/
def blkFault (s : State) (p : Nat) : Bool :=
  (List.range (blkPages p)).any (fun i =>
    let x := getPage s (blkBase p + i)
    (List.range 16).any (fun e => x.sticky.getLsbD e && x.enable.getLsbD e && fld x.cls (2 * e + 1) (2 * e) != 0))

/-- `BLK_STATUS` (R41). -/
def blkStatus (s : State) (p : Nat) : Word :=
  let site := p - 0x100
  BitVec.ofNat 32 (natOfBits [getReady s p, blkBusy s p, blkFault s p, isTilePage p && isFree s site,
    isTilePage p && isRetired s site, s.oos, (getBlk s p).pwrOn, overcast s])

/-- The selected counter of a page, zero when the index names none (R68, R69). -/
def selCnt (s : State) (p : Nat) : Counter :=
  let i := (getPage s p).cntSel.toNat
  if cntDefined p i then getCnt s p i else {}
def cntLo (s : State) (p : Nat) : Word := BitVec.ofNat 32 (selCnt s p).value.toNat
def cntHi (s : State) (p : Nat) : Word :=
  BitVec.ofNat 32 ((selCnt s p).value.toNat / 2 ^ 32 + (if (selCnt s p).sat then 2 ^ 31 else 0))

/-! Registers of the pages that show state held elsewhere. -/

/-- `READY_MAP` (17 R600). -/
def readyMap (s : State) : Word :=
  let all := fun (p n : Nat) => (List.range n).all (fun k => getReady s (p + k))
  BitVec.ofNat 32 (natOfBits [getReady s 0x10, getReady s 0x20, fwRunning s, all 1 15, all 0x30 16, all 0x40 8, all 0x48 8,
    all 0x80 4, (List.range 128).all (fun t => getReady s (tpage s t)), getReady s 0x60 && getReady s 0x70]
    + 65536 * natOfBits ((List.range 16).map (fun n => rgF s (0x50 + n) 0x44 1 0 == 2)))

/-- A rounding the spec does not state: down or up, freely (log 15). -/
def openDiv (s : State) (a b : Nat) : Nat := a / b + (if a % b = 0 then 0 else Config.freeNat s.free % 2)

/-- `FC_STATUS` (19 R667). -/
def fcStatus (s : State) : Word :=
  let left := if s.fc.active then openDiv s (s.fc.lullEnd - now s) msTicks else 0
  BitVec.ofNat 32 (natOfBits [s.fc.active, overcast s, s.boot.testMode, false, (getPart s 0).poison, (getPart s 1).poison,
    (getPart s 2).poison, (getPart s 3).poison] + 65536 * (left % 2 ^ 14))

/-- `RESET_STATUS` with `RECENT` (20 R693). -/
def resetStatus (s : State) : Word :=
  let win := rgF s 0x002 0x48 27 16 * 1000 * msTicks
  putFld (rg s 0x002 0x04C) 11 8 (countP (fun c => decide (now s < c + win)) s.fc.warmHist)

/-- `CHECK_WAIT_Pp` with `TIME` (20 R693). -/
def checkWait (s : State) (p : Nat) : Word :=
  let w := rg s 0x002 (0x50 + 4 * p)
  if fld w 31 31 = 1 then putFld w 29 16 (min 0x3FFF ((now s - (getPart s p).waitSince) / 65536)) else w

/-- `DET_COUNT_n` (19 R666, R668). -/
def detCountReg (s : State) (n : Nat) : Word :=
  BitVec.ofNat 32 (((List.range 8).map (fun k => min 15 (detCount s (8 * n + k)) * 16 ^ k)).foldl (· + ·) 0)

/-- `SITE_FREE` (01 R15). -/
def siteFreeReg (s : State) : Word :=
  BitVec.ofNat 32 (((List.range 4).map (fun q => (freeSites s q).length * 16 ^ q)).foldl (· + ·) 0)

/-- The block page of a domain, and whether domain d is on and held (18 R623, R630). -/
def domainPage (d : Nat) : Nat :=
  if d < 136 then 0x100 + d else if d < 152 then 0x40 + (d - 136) else if d < 168 then 0x50 + (d - 152)
  else if d < 184 then 0x30 + (d - 168) else 0x80 + (d - 184)
def domainOn (s : State) (d : Nat) : Bool :=
  if d < 188 then (getBlk s (domainPage d)).pwrOn
  else if d < 198 then (if d = 188 ∨ d = 189 ∨ d = 190 ∨ d = 197 then true else (hubOn s).getD (d - 191) false)
  else false
def domainHeld (s : State) (d : Nat) : Bool := (decide (188 ≤ d) && decide (d < 198)) || (decide (d < 136) && isRetired s d)
def mapWord (f : Nat → Bool) (n : Nat) : Word := BitVec.ofNat 32 (natOfBits ((List.range 32).map (fun i => f (32 * n + i))))

/-- `TJ_READ` (18 R631). -/
def tjRead (s : State) : Word :=
  let k := rgF s 0x006 0x04C 7 0
  BitVec.ofNat 32 (smGet (fun _ => 0) s.power.temps k % 1024 + (if s.power.excluded.contains k then 2 ^ 31 else 0))

/-- `MEM_STATUS`, `REMAP_COUNT` and `SPARES_LEFT` (14 R467, R468). -/
def memStatus (s : State) (k : Nat) : Word :=
  let c := getCtrl s k
  let big := decide (8 ≤ k) && s.flash.part == 1
  BitVec.ofNat 32 (c.temp % 256 + 256 * (c.refresh % 4) + 1024 * c.throttled.toNat + 4096 * (if big then 0 else 8)
    + 65536 * ctrlChannels k + 2 ^ 22 * (if k < 8 then 32 else if big then 128 else 64))
def remapCount (s : State) (k : Nat) : Word :=
  BitVec.ofNat 32 ((getCtrl s k).field.length + 65536 * (getCtrl s k).factory.length)
def sparesReg (s : State) (k : Nat) : Word :=
  let sum := fun g => ((List.range (ctrlChannels k)).map (fun ch => sparesLeft (getCtrl s k) ch g)).foldl (· + ·) 0
  BitVec.ofNat 32 (sum 1 + 65536 * sum 2)

/-- Registers of a tile page that show the state of the tile its site carries (08 R277, R278; 10 R323). -/
def tileReg (s : State) (p o : Nat) : Option Word :=
  let x := (tileAt s (p - 0x100)).map (getTile s)
  let seed := (tileAt s (p - 0x100)).map (fun t => (getPart s (partOf s t)).seed)
  let x := x.getD {}
  if o = 0x184 then some (BitVec.ofNat 32 (x.outTab.length + 256 * x.lastCap))
  else if 0x188 ≤ o ∧ o < 0x198 then
    some (BitVec.ofNat 32 (leNat ((List.range 4).map (fun k => smGet (fun _ => (0x7F : BitVec 8)) x.dscale ((o - 0x188) + k)))))
  else if 0x1A0 ≤ o ∧ o < 0x1E0 then
    let n := (o - 0x1A0) / 2
    some (BitVec.ofNat 32 (x.outTab.getD n 0 % 65536 + 65536 * (x.outTab.getD (n + 1) 0 % 65536)))
  else if o = 0x240 then some (BitVec.ofNat 32 (seed.getD 0).toNat)
  else if o = 0x244 then some (BitVec.ofNat 32 ((seed.getD 0).toNat / 2 ^ 32))
  else none

/-- A block-specific register as it reads. -/
def blockReg (s : State) (p o : Nat) : Word :=
  let stored := rg s p o
  if isTilePage p then (tileReg s p o).getD stored
  else if isSlicePage p then
    let l := sliceLines s (p - 0x30)
    if o = 0x40 then BitVec.ofNat 32 (countP (fun x => x.prot.isSome) l)
    else if o = 0x44 then BitVec.ofNat 32 (countP (fun x => x.dirty) l) else stored
  else if isCtrlPage p then
    (match o with
     | 0x44 => memStatus s (p - 0x40) | 0x54 => remapCount s (p - 0x40) | 0x58 => sparesReg s (p - 0x40) | _ => stored)
  else if 0x24 ≤ p ∧ p < 0x28 then
    if o = 0x58 then BitVec.ofNat 32 (s.allocs.filter (fun a => a.part == p - 0x24)).length else stored
  else if 0x28 ≤ p ∧ p < 0x2C then
    if o = 0xC0 then BitVec.ofNat 32 (s.descs.filter (fun e => e.1 / 2 ^ 20 == p - 0x28)).length else stored
  else if 0x2C ≤ p ∧ p < 0x30 then
    if o = 0x50 then BitVec.ofNat 32 (ctxSize s (p - 0x2C))
    else if o = 0x54 then BitVec.ofNat 32 (ctxSize s (p - 0x2C) / 2 ^ 32) else stored
  else if p = 0x002 ∧ 0x50 ≤ o ∧ o < 0x60 then checkWait s ((o - 0x50) / 4)
  else if p = 0x003 ∧ 0xC0 ≤ o ∧ o < 0x100 then detCountReg s ((o - 0xC0) / 4)
  else if p = 0x005 ∧ 0x40 ≤ o ∧ o < 0x5C then mapWord (domainOn s) ((o - 0x40) / 4)
  else if p = 0x005 ∧ 0x60 ≤ o ∧ o < 0x7C then mapWord (domainHeld s) ((o - 0x60) / 4)
  else match p, o with
    | 0x000, 0x4C => readyMap s
    | 0x002, 0x4C => resetStatus s
    | 0x003, 0x40 => fcStatus s
    | 0x004, 0xD4 => siteFreeReg s
    | 0x006, 0x50 => tjRead s
    | 0x020, 0x44 => BitVec.ofNat 32 s.hif.held.length
    | 0x070, 0x40 => BitVec.ofNat 32 (now s)
    | 0x070, 0x44 => BitVec.ofNat 32 (now s / 2 ^ 32)
    | 0x071, 0x4C => putFld stored 7 4 (ownAnswer s)
    | 0x071, _ => if 0xE0 ≤ o ∧ o < 0x100 ∧ role s = 1 then 0xFFFFFFFF else stored
    | _, _ => stored

/-- A word of the sync-object window, pages 200h to 2FFh (R36; 15 R524, R526). -/
def windowWord (s : State) (p o : Nat) : Word :=
  let x := syncObj s (((p - 0x200) * 4096 + o) / 16)
  match o % 16 with
  | 0 => x.ctl
  | 4 => x.limit
  | 8 => BitVec.ofNat 32 x.value.toNat
  | 12 => BitVec.ofNat 32 (x.value.toNat / 2 ^ 32)
  | _ => 0

/-- What a word of BAR0 reads (R35 to R39, R46, R54; 17 R574): 0 on a reserved page. -/
def readReg (s : State) (p o : Nat) : Word :=
  let x := getPage s p
  if inWindow p then (if fwRunning s then windowWord s p o else 0)
  else if !hasHeader p then 0
  else match o with
    | 0x00 => blkIdent p
    | 0x04 => blkVersion p
    | 0x08 => blkStatus s p
    | 0x0C => (getBlk s p).control.setWidth 32
    | _ =>
      if !pageServed s p then 0
      else match o with
        | 0x10 => x.cmd
        | 0x14 => x.result
        | 0x18 => x.raw.setWidth 32
        | 0x1C => x.sticky.setWidth 32
        | 0x20 => x.enable.setWidth 32
        | 0x24 => x.cls
        | 0x28 => x.errFirst
        | 0x2C => x.errInfo
        | 0x30 => x.cntSel.setWidth 32
        | 0x34 => cntLo s p
        | 0x38 => cntHi s p
        | 0x3C => 0
        | _ => blockReg s p o

/-! 64-bit values (R56 to R58). -/

/-- The offset is the lower word of any 64-bit value. -/
def pairLo (p o : Nat) : Bool :=
  o == 0x34 || pairRW p o || (inWindow p && o % 16 == 8) || (isTilePage p && (o == 0x108 || o == 0x110))
    || (isCtrlPage p && o == 0x48) || (isLinkPage p && o == 0x64)
    || (decide (0x2C ≤ p ∧ p < 0x30) && o == 0x50) || (p == 0 && o == 0x44) || (p == 0x70 && o == 0x40) || (p == 0x72 && o == 0x4C)

/-- The page's own registers are served. -/
def regServed (s : State) (p : Nat) : Bool := if inWindow p then fwRunning s && hostServed s else pageServed s p

/-- One 32-bit read of BAR0 (R54, R56): that of a lower word latches the upper word, and the next read of the upper word
returns the snapshot. -/
def readWord (s : State) (p o : Nat) : Word × State :=
  let x := getPage s p
  if pairLo p o && regServed s p then (readReg s p o, setPage s p { x with snap := some (o + 4, readReg s p (o + 4)) })
  else match x.snap with
    | some (k, w) => if k = o then (w, setPage s p { x with snap := none }) else (readReg s p o, s)
    | none => (readReg s p o, s)

/-- A 32-bit read, or a 64-bit read: its lower word, then its upper word (R52; log 51). -/
def readWords (s : State) (p o : Nat) (wide : Bool) : List Byte × State :=
  let r := readWord s p o
  if wide then
    let q := readWord r.2 p (o + 4)
    (leBytes 4 r.1.toNat ++ leBytes 4 q.1.toNat, q.2)
  else (leBytes 4 r.1.toNat, r.2)

/-- LOWER_WORD_READ (R35, R52, R54 to R56; 16 R548): a read of a register window, its bytes the response. `bar2`: the window
is BAR2, all of whose registers are WO or reserved and read 0; `wide`: a 64-bit read. -/
def execLowerWordRead (page : PageIx) (acc : RegRead) (s : State) : Host.Outcome State Fault Refusal :=
  let o := acc.off.toNat
  let n := if acc.wide then 8 else 4
  guarded (hostServed s && o % n == 0) s
    (if acc.bar2 then { s with resp := { code := 0, data := leBytes n 0 } }
     else
       let r := readWords s page.toNat o acc.wide
       { r.2 with resp := { code := 0, data := r.1 } })

/-- A roster write that R34 refuses, on its upper word as on its lower word. -/
def rosterHeld (s : State) (p o : Nat) : Bool := p == 0x071 && o == 0x48 && anyImage s

/-- UPPER_WORD_WRITE (R57, R58): held until the lower word is written. -/
def execUpperWordWrite (page : PageIx) (off : BitVec 12) (v : Word) (s : State) : Host.Outcome State Fault Refusal :=
  let p := page.toNat
  let o := off.toNat
  guarded (pageServed s p && decide (4 ≤ o) && pairRW p (o - 4)) s
    (if rosterHeld s p o then postControl (noteWrite s p) p rBUSY
     else setPage s p { getPage s p with snap := none, held := some (o, v) })

/-- PARTIAL_REGISTER_WRITE (R53). The write being ignored, the page's snapshot and held upper word stay (log 51). -/
def execPartialRegisterWrite (page : PageIx) (off : BitVec 12) (s : State) : Host.Outcome State Fault Refusal :=
  guarded (hubServed s page.toNat && off.toNat % 4 == 0) s (raiseOpen s 0x000 0)

/-! Writes of registers with no behaviour of their own. -/

/-- The register with the field written when the value is in range, unchanged otherwise. -/
def writeField (w v : Word) (hi lo least most : Nat) : Word :=
  if least ≤ fld v hi lo ∧ fld v hi lo ≤ most then putFld w hi lo (fld v hi lo) else w

/-- The bits of a mask written. -/
def writeMask (w v m : Word) : Word := (w &&& ~~~m) ||| (v &&& m)

/-- `EVT_ENABLE` and `EVT_CLASS` bits that can be written (R60, R65; 19 R660). -/
def evWritable (p e : Nat) : Bool := evDefined p e && !evFixed p e
def enableMask (p : Nat) : BitVec 16 := BitVec.ofNat 16 (natOfBits ((List.range 16).map (evWritable p)))
def classMask (p : Nat) : Word := BitVec.ofNat 32 (((List.range 16).map (fun e => if evWritable p e then 3 * 4 ^ e else 0)).foldl (· + ·) 0)

/-- A write to page 071h (R31, R34, R537). A worker written with SLOT 0, for which no rule gives a result, holds slot 0, and
the reserved ROLE 11b leaves the role (log 51). -/
def writeChorus (s : State) (o : Nat) (v : Word) : State :=
  let mask : Word := match o with
    | 0x44 => 0xFFFFFFFF | 0x48 => 0xFFFFFFFF | 0x50 => 0xFFF | 0x54 => 0x3F | 0x58 => 0xFFFFFF | 0x5C => 0x80000FFF
    | _ => if 0x60 ≤ o ∧ o < 0xE0 then 0x0FFF0FFF else 0
  if anyImage s then (if o = 0x40 ∨ o = 0x44 then postControl s 0x071 rBUSY else s)
  else if o = 0x40 then
    if nParts s ≠ 1 then postControl s 0x071 rGEOM
    else
      let w := writeMask (rg s 0x071 0x40) v 0x3F00
      setRg s 0x071 0x40 (if fld v 1 0 = 3 then w else putFld w 1 0 (fld v 1 0))
  else setRg s 0x071 o (writeMask (rg s 0x071 o) v mask)

/-- The value a block-specific register takes from a write of v, for the registers written by fields, masks and ranges. The
neighbour identities are those of the link pages (15 R491, R535), not of pages 070h to 07Fh (01 R30; log 51). -/
def writeValue (s : State) (p o : Nat) (v : Word) : Word :=
  let w := rg s p o
  let keep := fun (c : Bool) (x : Word) => if c then w else x
  if isCtrlPage p then
    if o = 0x40 then writeField (writeField (writeField (writeField w v 3 0 1 15) v 15 8 1 168) v 23 16 1 168) v 31 24 70 95
    else if o = 0x60 ∨ o = 0x64 then v else w
  else if isLinkPage p then
    let up := rgF s p 0x44 1 0 == 2
    (match o with
     | 0x40 => writeMask w v 0xF
     | 0x48 => keep up (writeMask w v 0x800F0FFF)
     | 0x4C => keep up v
     | 0x50 => keep up v
     | 0x58 => keep up (writeMask w v 0xFFFF)
     | _ => w)
  else if 0x24 ≤ p ∧ p < 0x28 then
    (match o with
     | 0x40 => v | 0x44 => writeMask w v 3 | 0x48 => v | 0x4C => writeMask w v 0xFFFFF | 0x50 => v | 0x54 => v | _ => w)
  else if 0x28 ≤ p ∧ p < 0x2C then (if 0x40 ≤ o ∧ o < 0xC0 then v else w)
  else if 0x2C ≤ p ∧ p < 0x30 then (if o = 0x40 ∨ o = 0x4C then v else w)
  else if 0x60 ≤ p ∧ p < 0x70 then
    if p = 0x60 ∧ o = 0x40 then keep (anyImage s) (writeMask w v 0xFFF)
    else if 0x100 ≤ o ∧ o < 0x200 then keep (anyImage s) (writeMask w v 0x8F8F8F8F) else w
  else if p = 0x73 then
    if 0x40 ≤ o ∧ o < 0xC0 then keep (anyImage s) (writeMask w v 0x0FFF0FFF)
    else if o = 0xC0 ∨ o = 0xC4 then keep (anyImage s) v else w
  else if p = 0x21 ∧ 0x40 ≤ o ∧ o < 0xC0 then
    let b := o / 0x20 * 0x20
    let st := fun k => rg s 0x021 (b + k)
    let locked := fld (st 0x14) 1 0 == 0 && st 0x10 != st 0x0C
    (match o % 0x20 with
     | 0x00 => keep locked (writeMask w v 0xFFFFFFC0)
     | 0x04 => keep locked v
     | 0x08 => writeField w v 4 0 4 16
     | _ => w)
  else if p = 0x11 ∧ 0x50 ≤ o ∧ o < 0x90 then keep (rgF s 0x011 0x44 1 0 != 0) v
  else if p = 0x03 ∧ 0x50 ≤ o ∧ o < 0x60 then
    keep (hasImage s ((o - 0x50) / 4)) (if fld v 12 0 = 0 then putFld w 12 0 0 else writeField w v 12 0 64 4096)
  else if p = 0x03 ∧ 0x80 ≤ o ∧ o < 0xB4 then w &&& ~~~v
  else match p, o with
    | 0x000, 0x50 => writeField (writeMask w v 1) v 15 8 1 255
    | 0x001, 0x4C => writeField w v 11 0 500 2000
    | 0x001, 0x200 => writeMask w v (BitVec.ofNat 32 (natOfBits ((List.range 4).map (fun q => !hasImage s q))))
    | 0x002, 0x40 => writeField w v 19 0 256 1048575
    | 0x002, 0x48 => writeField (writeField w v 3 0 1 15) v 27 16 1 3600
    | 0x003, 0x44 => writeField w v 13 0 1 10000
    | 0x003, 0x48 => writeMask w v 3
    | 0x003, 0x4C => writeField (writeField w v 3 0 1 15) v 15 8 1 168
    | 0x003, 0x104 => keep (!s.boot.testMode) (writeMask w v 0x1FF)
    | 0x003, 0x108 => keep (!s.boot.testMode) v
    | 0x006, 0x44 => writeField w v 7 0 85 100
    | 0x006, 0x4C => writeField w v 7 0 0 151
    | 0x022, 0x40 => writeMask w v 0xFFFFF
    | 0x022, 0x44 => v
    | 0x022, 0x48 => v
    | 0x070, 0x48 => keep (rgF s 0x070 0x4C 0 0 == 1) (writeMask w v 0x1F)
    | 0x072, 0x40 => writeMask w v 0xFFFF
    | 0x072, 0x44 => v
    | 0x072, 0x48 => v
    | 0x07D, 0x40 => writeMask w v 0xF
    | _, _ => w

/-- `TJ_MAX` in quarters of a degree, and the threshold. -/
def tjMax (s : State) : Nat := rgF s 0x006 0x40 9 0
def throttleAt (s : State) : Nat := 4 * rgF s 0x006 0x44 7 0

/-- A thermal violation holds (18 R613, R619). -/
def thermalViol (s : State) : Bool := decide (throttleAt s ≤ tjMax s) || decide (8 < s.power.excluded.length)

/-- `THROTTLING`, `THERMAL` and `THROTTLE` follow the thermal violation (18 R629, R631, R634). -/
def showThermal (s : State) : State :=
  let v := thermalViol s
  raiseLevel (setRgF (setRgF s 0x006 0x48 0 0 v.toNat) 0x001 0x44 12 12 v.toNat) 0x006 0 v

/-- One register takes a write. -/
def writeReg (s : State) (p o : Nat) (v : Word) : State :=
  let x := getPage s p
  match o with
  | 0x20 => setPage s p { x with enable := (x.enable &&& ~~~enableMask p) ||| (v.setWidth 16 &&& enableMask p) }
  | 0x24 => setPage s p { x with cls := writeMask x.cls v (classMask p) }
  | 0x30 => setPage s p { x with cntSel := v.setWidth 8 }
  | _ => if o < 0x40 then s else if p = 0x71 then writeChorus s o v
    else if p = 0x06 ∧ o = 0x44 then showThermal (setRg s p o (writeValue s p o v)) else setRg s p o (writeValue s p o v)

/-- Registers whose writes are commands of their own. -/
def ownWrite (p o : Nat) : Bool :=
  o == 0x0C || o == 0x10 || o == 0x1C || o == 0x34 || (decide (4 ≤ o) && pairRW p (o - 4))
    || (isTilePage p && (o == 0x118 || o == 0x200 || o == 0x240)) || (p == 0x07C && pairRW p o)
    || (p == 0x001 && o == 0x40) || (p == 0x003 && o == 0x100) || (p == 0x004 && decide (0x40 ≤ o) && decide (o < 0xD4))

/-! Writes with a behaviour of their own. -/

/-- What the clearing of events re-arms (04 R142; 05 R181; 11 R376; 14 R466; 19 R668; 20 R693). `z e`: event e is now clear
and was set. -/
def rearmRecords (s : State) (p : Nat) (sticky z : Nat → Bool) : State :=
  let clear := fun (s : State) (o n : Nat) => (List.range n).foldl (fun s i => setRg s p (o + 4 * i) 0) s
  if isTilePage p then
    let s := if (z 0 || z 1 || z 2) && !sticky 0 && !sticky 1 && !sticky 2 then
        let s := clear s 0xC0 4
        (match tileAt s (p - 0x100) with | some t => updTile s t (fun x => { x with arithAt := none }) | none => s)
      else s
    let s := if z 5 then clear s 0x100 6 else s
    if z 12 then clear s 0x268 2 else s
  else if isCtrlPage p then (if (z 3 || z 4) && !sticky 3 && !sticky 4 then clear s 0x48 3 else s)
  else if p = 0x002 ∧ z 0 then setRgF s p 0x44 31 31 0
  else if p = 0x003 ∧ z 0 then clear s 0x68 2
  else s

/-- The record that a page fills at the first occurrence of an event: its offset, its words, and the word whose bit 31 is
`VALID` (04 R140; 05 R181; 11 R376; 14 R466; 19 R668; 20 R693). -/
def recordOf (p e : Nat) : Option (Nat × Nat × Nat) :=
  if isTilePage p then
    (if e < 3 then some (0xC0, 4, 0) else if e = 5 then some (0x100, 6, 0) else if e = 12 then some (0x268, 2, 0) else none)
  else if isCtrlPage p then (if e = 3 ∨ e = 4 then some (0x48, 3, 2) else none)
  else if p = 0x002 ∧ e = 0 then some (0x44, 1, 0)
  else if p = 0x003 ∧ e = 0 then some (0x68, 2, 0)
  else none

/-- The record of an event filled with given words, while its `VALID` is 0. -/
def fillRecord (s : State) (p e : Nat) (ws : List Word) : State :=
  match recordOf p e with
  | none => s
  | some (o, n, k) =>
    if rgF s p (o + 4 * k) 31 31 = 1 then s
    else (List.range n).foldl (fun s i =>
      setRg s p (o + 4 * i) (if i = k then ws.getD i 0 ||| 0x80000000 else ws.getD i 0)) s

/-- The device address that the words of a controller's record name. -/
def recordAddr (ws : List Word) : Nat := (ws.getD 0 0).toNat + 2 ^ 32 * (fld (ws.getD 1 0) 19 0)

/-- The detail and the owning partitions of an event that is given with its record: those of the record where it states
them (02 R66; 11 R376; 14 R464, R466; 20 R675). -/
def givenInfo (s : State) (p e : Nat) (info : Word) (ws : List Word) : Nat × List Nat :=
  if isCtrlPage p && (e == 3 || e == 4) then (lineIx (recordAddr ws) % 2 ^ 32, lineOwners s (recordAddr ws))
  else
    let i := match recordOf p e with
      | some _ => if isTilePage p then fld (ws.getD 0 0) 23 0 else if p = 0x002 then (ws.getD 0 0 ||| 0x80000000).toNat else info.toNat
      | none => info.toNat
    (i, ownersOf s p e i)

/-- The report of an event that occurs while its bit is being cleared (R63). -/
def reportAgain (s : State) (p e : Nat) (owners : List Nat) : State :=
  let x := getPage s p
  if x.enable.getLsbD e then collect (countN 3) s p e (fld x.cls (2 * e + 1) (2 * e)) (evIsHang p e) owners else s

/-- An event that occurs in the fcycle of a clear: event, detail and record. -/
abbrev Again := BitVec 4 × Word × List Word

/-- One of them takes effect; `held`: its bit was set and the clear asked for it (R63). -/
def takeAgain (s : State) (p : Nat) (held : Nat → Bool) (a : Again) : State :=
  let e := a.1.toNat
  if !evDefined p e then s
  else
    let g := givenInfo s p e a.2.1 a.2.2
    let s := fillRecord s p e a.2.2
    if held e then reportAgain s p e g.2 else raiseOwned s p e g.1 g.2

/-- EVT_STICKY_CLEAR (R61 to R63, R66, R67): `again`: the events that occur in the same fcycle. -/
def execEvtStickyClear (page : PageIx) (v : Word) (again : List Again) (s : State) : Host.Outcome State Fault Refusal :=
  let p := page.toNat
  guarded (pageServed s p) s
    (let s := noteWrite s p
     let x := getPage s p
     let occurs := fun (e : Nat) => again.any (fun a => a.1.toNat == e && evDefined p e)
     let new := x.sticky &&& ~~~(v.setWidth 16 &&& ~~~(x.raw ||| BitVec.ofNat 16 (natOfBits ((List.range 16).map occurs))))
     let y := { x with sticky := new }
     let s := setPage s p (if new = 0 then { y with errFirst := 0, errInfo := 0 } else y)
     let s := rearmRecords s p (fun e => new.getLsbD e) (fun e => x.sticky.getLsbD e && !new.getLsbD e)
     again.foldl (fun s a => takeAgain s p (fun e => x.sticky.getLsbD e && v.getLsbD e) a) s)

/-- What a counter's increment records beside the count: cause, logical tile and operation of an increment of TDC (11 R368 to
R371); the cause code above bit 0 and the operation of a fallback (08 R278). -/
abbrev Inc := BitVec 4 × BitVec 7 × BitVec 24

/-- One increment of a counter, with what it records: those of page 001h that count TDC by partition or by cause count in
both, and counter 3Eh of a tile page fills `PREC_FIRST` (R73; 08 R279; 11 R368 to R371). -/
def incCounter (s : State) (p i : Nat) (x : Inc) : State :=
  if p = 0x001 ∧ i < 4 then tdcAdd s i (x.1.toNat % 8) x.2.1.toNat x.2.2.toNat
  else if p = 0x001 ∧ 0x40 ≤ i then tdcAdd s ((i - 0x40) / 8) ((i - 0x40) % 8) x.2.1.toNat x.2.2.toNat
  else if isTilePage p && i == 0x3E then
    (match tileAt s (p - 0x100) with
     | some t => precFirst (count1 s p i) t x.2.2.toNat (x.1.toNat % 4) (x.1.toNat / 4)
     | none => count1 s p i)
  else count1 s p i

/-- COUNTER_CLEAR (R68, R72, R73; 08 R279; 11 R370): `inc`: the increments of the counter in the same fcycle. -/
def execCounterClear (page : PageIx) (v : Word) (inc : List Inc) (s : State) : Host.Outcome State Fault Refusal :=
  let p := page.toNat
  let i := (getPage s p).cntSel.toNat
  guarded (pageServed s p) s
    (let s := noteWrite s p
     if !cntDefined p i then s
     else
       let s := if v ≠ 0 then s
         else
           let s := setCnt s p i {}
           if isTilePage p && i == 0x3E then setRg s p 0x180 0
           else if p = 0x001 ∧ i < 4 then setRg (setRg s p (0x210 + 8 * i) 0) p (0x214 + 8 * i) 0
           else s
       inc.foldl (fun s x => incCounter s p i x) s)

/-- A completed write of a 64-bit value: `hi` in the same write, else the held upper word, else the word in force. -/
def full64 (s : State) (p o : Nat) (hi : Option Word) (lo : Word) : Nat :=
  lo.toNat + 2 ^ 32 * ((hi.orElse (fun _ => heldUpper s p o)).getD (readReg s p (o + 4))).toNat

/-- LAUNCH_AT_WRITE (12 R393; 16 R549, R574), in the launch page or in BAR2: `hi` in a 64-bit write. -/
def execLaunchAtWrite (p : PartIx) (bar2 : Bool) (hi : Option Word) (lo : Word) (s : State) :
    Host.Outcome State Fault Refusal :=
  let g := full64 s 0x07C (0x40 + 16 * p.toNat) hi lo
  guarded (if bar2 then hostServed s else pageServed s 0x07C) s (launchWrite (noteWrite s 0x07C) p.toNat g)

/-- RNG_SEED_WRITE (10 R323, R324): on the page of a free or retired site it is ignored. -/
def execRngSeedWrite (site : SiteIx) (hi : Option Word) (lo : Word) (s : State) : Host.Outcome State Fault Refusal :=
  let pg := 0x100 + site.toNat
  let v := BitVec.ofNat 64 (full64 s pg 0x240 hi lo)
  guarded (decide (site.toNat < 136) && pageServed s pg) s
    (let s := noteWrite s pg
     match tileAt s site.toNat with
     | none => s
     | some t =>
       let p := partOf s t
       if isRunning s p then updPart s p (fun x => { x with heldSeed := some v }) else updPart s p (fun x => { x with seed := v }))

/-- SKINK_FIRST_CLEAR (09 R311). -/
def execSkinkFirstClear (site : SiteIx) (v : Word) (s : State) : Host.Outcome State Fault Refusal :=
  let pg := 0x100 + site.toNat
  guarded (decide (site.toNat < 136) && pageServed s pg) s
    (let s := noteWrite s pg
     if !v.getLsbD 31 then s
     else
       let s := setRg (setRg s pg 0x200 0) pg 0x204 0
       match tileAt s site.toNat with | some t => updTile s t (fun x => { x with skAt := none }) | none => s)

/-- n words chosen freely. -/
def freeWords : Nat → State → List Word × State
  | 0, s => ([], s)
  | n + 1, s =>
    let (v, s) := choose s (2 ^ 32)
    let (l, s) := freeWords n s
    (BitVec.ofNat 32 v :: l, s)

/-- An injected event, handled as a real one (19 R672): the record that it fills, of which the spec states nothing, is free,
and the detail agrees with it. -/
def injectEvent (s : State) (p e : Nat) : State :=
  let (ws, s) := freeWords 6 s
  let (v, s) := choose s (2 ^ 32)
  let g := givenInfo s p e (BitVec.ofNat 32 v) ws
  raiseOwned (fillRecord s p e ws) p e g.1 g.2

/-- FAULT_INJECT_ARM (19 R671, R672): a write of `FI_CTL`. Kind 5 takes place at once, the others at the target's next
occurrences. -/
def execFaultInjectArm (v : Word) (s : State) : Host.Outcome State Fault Refusal :=
  let kind := fld v 3 1
  let n := fld v 15 8
  let page := rgF s 0x003 0x104 8 0
  let data := rg s 0x003 0x108
  guarded (pageServed s 0x003) s
    (let s := noteWrite s 0x003
     if !s.boot.testMode || kind == 0 || decide (5 < kind) || n == 0 then s
     else
       let arm := v.getLsbD 0 && kind != 5
       let s := setRg s 0x003 0x100 (BitVec.ofNat 32 (arm.toNat + 2 * kind + 256 * n))
       let s := { s with fi := if arm then { kind := kind, page := page, data := data, left := n } else { s.fi with left := 0 } }
       let e := fld data 3 0
       if v.getLsbD 0 && kind == 5 && hasHeader page && evDefined page e then
         (List.range n).foldl (fun s _ => injectEvent s page e) s
       else s)

/-- VCORE setpoint in mV of a mode (18 R606). -/
def setpoint (m : Nat) : Nat := if m = 2 then 780 else if m = 1 then 700 else 620

/-- MODE_REQ_WRITE (18 R608): a write of `MODE_CTL`. -/
def execModeReqWrite (v : Word) (s : State) : Host.Outcome State Fault Refusal :=
  let m := fld v 1 0
  guarded (pageServed s 0x001) s
    (let s := setRgF (noteWrite s 0x001) 0x001 0x40 1 0 m
     if m = 3 then s else setRgF s 0x001 0x48 11 0 (max (rgF s 0x001 0x48 11 0) (setpoint m)))

/-! Writes of one word and of two (R52, R57). -/

/-- The state after a command that only answers next states. -/
def after (s : State) (r : Host.Outcome State Fault Refusal) : State := match r with | .next t => t | _ => s

/-- A 32-bit write of any register but `BLK_CMD`, whose writes are the commands themselves. -/
def writeWord (s : State) (p o : Nat) (v : Word) : State :=
  let page : PageIx := BitVec.ofNat 12 p
  let off := BitVec.ofNat 12 o
  if o = 0x0C then
    after s (execPwrReq page v (after s (execSelftest page v (after s (execQuiesce page v (after s (execEnable page v s)))))))
  else if o = 0x10 then s
  else if o = 0x1C then after s (execEvtStickyClear page v [] s)
  else if o = 0x34 then after s (execCounterClear page v [] s)
  else if decide (4 ≤ o) && pairRW p (o - 4) then after s (execUpperWordWrite page off v s)
  else if isTilePage p && o == 0x118 then after s (execArrayRepairWrite (BitVec.ofNat 8 (p - 0x100)) v s)
  else if isTilePage p && o == 0x200 then after s (execSkinkFirstClear (BitVec.ofNat 8 (p - 0x100)) v s)
  else if isTilePage p && o == 0x240 then after s (execRngSeedWrite (BitVec.ofNat 8 (p - 0x100)) none v s)
  else if p == 0x07C && pairRW p o then after s (execLaunchAtWrite (BitVec.ofNat 2 ((o - 0x40) / 16)) false none v s)
  else if p == 0x003 && o == 0x100 then after s (execFaultInjectArm v s)
  else if p == 0x004 && decide (0x40 ≤ o) && decide (o < 0xD4) then after s (execSiteMapStageWrite off v s)
  else if p == 0x001 && o == 0x40 then after s (execModeReqWrite v s)
  else if pageServed s p then
    let up := if pairRW p o then heldUpper s p o else none
    let s := noteWrite s p
    match up with
    | some u => writeReg (writeReg s p (o + 4) u) p o v
    | none => writeReg s p o v
  else s

/-- A 64-bit write: of a 64-bit value as one; else of its lower word, then its upper word (log 51). -/
def writeWide (s : State) (p o : Nat) (lo hi : Word) : State :=
  if !pairRW p o then writeWord (writeWord s p o lo) p (o + 4) hi
  else if isTilePage p then after s (execRngSeedWrite (BitVec.ofNat 8 (p - 0x100)) (some hi) lo s)
  else if p = 0x07C then after s (execLaunchAtWrite (BitVec.ofNat 2 ((o - 0x40) / 16)) false (some hi) lo s)
  else if pageServed s p then writeReg (writeReg (noteWrite s p) p (o + 4) hi) p o lo
  else s

/-- REGISTER_WRITE (R52, R54, R55, R57, R58, R65, R68; 01 R30, R31, R34; 11 R348; 15 R491, R496, R498, R535 to R538; 17 R574,
R600; 18 R629, R631; 19 R666; 20 R692, R693). A 32-bit write of a register whose write is a command of its own is that
command's. -/
def execRegisterWrite (page : PageIx) (off : BitVec 12) (v : RegData) (s : State) : Host.Outcome State Fault Refusal :=
  let p := page.toNat
  let o := off.toNat
  match v with
  | .word v => guarded (pageServed s p && o % 4 == 0 && !ownWrite p o) s (writeWord s p o v)
  | .wide lo hi => guarded (hubServed s p && o % 8 == 0 && o != 0x10) s (writeWide s p o lo hi)

end Sys2Proof.Machine
end

