-- ==== Sys2Proof/Machine/HostIf.lean ====
section
/-! DEFINITION. The CXL host interface (16): the host's accesses to device memory, snoops, copy queues, doorbells,
notification bindings and the link itself. -/

namespace Sys2Proof.Machine

/-! Host accesses through the HDM windows (R550 to R555). -/

/-- The device address of an offset in a decoder's window, and whether 64 bytes there lie in its tier. -/
def hdmAddr (decoder : BitVec 1) (offset : Nat) : Nat := (if decoder = 1 then sBase else 0) + offset
def hdmInside (s : State) (decoder : BitVec 1) (offset : Nat) : Bool :=
  decide (offset + 64 ≤ (if decoder = 1 then sSize s else sBase))

/-- The whole lines that hold one of the 64 bytes at an address (R551). -/
def touched (s : State) (a : Nat) : List Nat := ([lineAddr a, lineAddr (a + 63)].eraseDups).filter (isLine s)

/-- The host takes a line into its cache; a full snoop filter gives up its oldest line first (R555). -/
def holdLine (s : State) (a : Nat) : State :=
  if s.hif.held.contains a then s
  else
    let s := if 262144 ≤ s.hif.held.length then snoop s (s.hif.held.headD 0) else s
    { s with hif := { s.hif with held := s.hif.held ++ [a] } }
def holdLines (s : State) (on : Bool) (l : List Nat) : State := if on then l.foldl holdLine s else s

/-- Byte b of an access, of the lines read as (address, bytes); bytes after the last whole line are 00h (R551). -/
def pickByte (ls : List (Nat × List Byte)) (b : Nat) : Byte :=
  match ls.find? (fun l => decide (l.1 ≤ b ∧ b < l.1 + 72)) with
  | some l => l.2.getD (b - l.1) 0
  | none => 0

/-- One line operation of a host read: its bytes, and whether the line came back poisoned (R551, R554). -/
def hostLineRead (s : State) (a : Nat) (err : List (BitVec 7 × Byte)) : List Byte × Bool × State :=
  let (d, s) := readLine (count1 s 0x020 0) a 0 0 err
  (d, isPoison s.mem a, s)

/-- The line operations of a host read, in ascending order, with the codeword pattern each meets. -/
def hostReads : List (Nat × List (BitVec 7 × Byte)) → State → List (Nat × List Byte) × Bool × State
  | [], s => ([], false, s)
  | x :: xs, s =>
    let r := hostLineRead s x.1 x.2
    let q := hostReads xs r.2.2
    ((x.1, r.1) :: q.1, r.2.1 || q.2.1, q.2.2)

/-- HOST_MEM_READ (R550 to R552, R554): the 64 bytes at `offset` of the decoder's window are the response, with code 1 for
CXL poison. `hold`: the host keeps the lines in its cache. `err1`, `err2`: the patterns in the codewords. -/
def execHostMemRead (decoder : BitVec 1) (offset : BitVec 52) (hold : Bool) (err1 err2 : List (BitVec 7 × Byte)) (s : State) :
    Host.Outcome State Fault Refusal :=
  let a := hdmAddr decoder offset.toNat
  if !hdmInside s decoder offset.toNat then .fault .noSuchAddress
  else guarded (fwRunning s && hostServed s && aclkOn s) s
    (let t := touched s a
     let r := hostReads (t.zip [err1, err2]) s
     let s := { r.2.2 with resp := { code := r.2.1.toNat, data := (List.range 64).map (fun i => pickByte r.1 (a + i)) } }
     holdLines (if r.2.1 then raiseOpen s 0x020 2 else s) hold t)

/-- The byte lies in a sealed image allocation, or in the descriptor-table region (R553). -/
def sealedAt (s : State) (b : Nat) : Option Alloc :=
  s.allocs.find? (fun x => x.sealed && decide (x.base ≤ b ∧ b < x.base + x.size))

/-- A discarded line operation of a host write (R553). -/
def dropWrite (s : State) : State := raiseOpen (count1 s 0x020 4) 0x020 4

/-- One line operation of a host write: `bs` are the line's bytes that the host writes (R551, R553; 12 R389; 14 R465). -/
def hostLineWrite (s : State) (a : Nat) (bs : List (Option Byte)) : State :=
  let written := ((List.range 72).filter (fun i => ((bs[i]?).join).isSome)).map (a + ·)
  match written.findSome? (sealedAt s) with
  | some x => dropWrite (raiseOpen (count1 s (0x2C + x.part) 2) (0x2C + x.part) 0)
  | none =>
    if written.any descRegion then dropWrite s
    else
      let r := match cached s a with
        | some l => (l.data, s)
        | none => readLine s a 0 0 []
      if isPoison r.2.mem a then dropWrite (count1 r.2 (ctrlPage a) 0xD)
      else writeLine (count1 (count1 r.2 0x020 1) 0x020 2) a ((List.range 72).map (fun i => ((bs[i]?).join).getD (r.1.getD i 0))) 0 0

/-- HOST_MEM_WRITE (R550 to R553): `be` enables bytes of `data`. -/
def execHostMemWrite (decoder : BitVec 1) (offset : BitVec 52) (data : BitVec 512) (be : BitVec 64) (hold : Bool) (s : State) :
    Host.Outcome State Fault Refusal :=
  let a := hdmAddr decoder offset.toNat
  let d := leBytes 64 data.toNat
  let byteAt := fun (b : Nat) => if decide (a ≤ b ∧ b < a + 64) && be.getLsbD (b - a) then some (d.getD (b - a) 0) else none
  if !hdmInside s decoder offset.toNat then .fault .noSuchAddress
  else guarded (fwRunning s && hostServed s && aclkOn s) s
    (let t := touched s a
     holdLines (t.foldl (fun s l => hostLineWrite s l ((List.range 72).map (fun i => byteAt (l + i)))) s) hold t)

/-- The wait for a line's snoop is over. -/
def snoopDone (s : State) (a : Nat) : State := { s with hif := { s.hif with snoops := s.hif.snoops.filter (· ≠ a) } }

/-- BISNP_RESPONSE (R555). -/
def execBisnpResponse (line : BitVec 52) (s : State) : Host.Outcome State Fault Refusal :=
  guarded (s.hif.snoops.contains line.toNat) s (snoopDone s line.toNat)

/-- BISNP_TIMEOUT (R555). -/
def execBisnpTimeout (line : BitVec 52) (s : State) : Host.Outcome State Fault Refusal :=
  guarded (s.hif.snoops.contains line.toNat) s (raiseOpen (snoopDone s line.toNat) 0x020 3)

/-! Copy queues (R556 to R560, R564). -/

/-- Register `o` of a partition's copy queue, and STATE. -/
def cq (p o : Nat) : Nat := 0x40 + 0x20 * p + o
def cqState (s : State) (p : Nat) : Nat := rgF s 0x021 (cq p 0x14) 1 0
def cqSize (s : State) (p : Nat) : Nat := 2 ^ rgF s 0x021 (cq p 0x08) 4 0

/-- An entry's fields (R556). -/
def ePerm (e : List Byte) (d : Nat) : Nat := bits (leAt e 4 4) (3 * d + 2) (3 * d)
def eSrc (e : List Byte) : Nat := leAt e 8 4
def eDst (e : List Byte) : Nat := leAt e 0xC 4
def eLineFirst (e : List Byte) : Int := signExt 48 (leAt e 0x18 8)
def eLineCount (e : List Byte) : Nat := leAt e 0x20 4
def eHint (e : List Byte) : Nat := bits (leAt e 1 1) 2 1
def isFetch (e : List Byte) : Bool := leAt e 0 1 == 2

/-- A reserved value is non-zero (R557 check 1). -/
def copyReserved (e : List Byte) : Bool :=
  !(leAt e 0 1 == 1 || leAt e 0 1 == 2) || decide (8 ≤ leAt e 1 1) || leAt e 2 2 != 0 || decide (2 ^ 18 ≤ leAt e 4 4)
    || decide (2 ^ 20 ≤ eSrc e) || decide (2 ^ 20 ≤ eDst e) || leAt e 0x24 28 != 0
    || (isFetch e && (leAt e 0x10 8 % 64 != 0 || decide (2 ^ 48 ≤ leAt e 0x18 8) || eLineCount e == 0))

/-- The two descriptors are the same record but for `ACCESS` (R212). -/
def sameButAccess (a b : BitVec 1024) : Bool :=
  let clear := fun (d : BitVec 1024) => d &&& ~~~BitVec.ofNat 1024 (3 * 2 ^ (8 * 0xC + 12))
  clear a == clear b

/-- The copy is the in-place transpose that R212 permits. -/
def inPlace (e : List Byte) (a b : BitVec 1024) : Bool :=
  sameButAccess a b && !dNarrow a && dRank a == 2 && dSize a 0 == dSize a 1 && decide (dSize a 0 ≤ 64) && !dIdxEn a
    && ePerm e 0 == 1 && ePerm e 1 == 0

/-- The addressed spans share a byte (R211). -/
def copySpansMeet (a b : BitVec 1024) : Bool := decide (dLoAddr a ≤ dHiAddr b ∧ dLoAddr b ≤ dHiAddr a)

/-- The first failing check of an entry and its result (R557). -/
def copyCheck (s : State) (p : Nat) (e : List Byte) : Option (Nat × Nat) :=
  if copyReserved e then some (1, rUNSUP)
  else match getDesc s p (eDst e) with
    | none => some (2, rRANGE)
    | some b =>
      if isFetch e then
        if !dIsWrite b then some (2, rRANGE)
        else if eLineFirst e < dMinLine b ∨ dMaxLine b < eLineFirst e + eLineCount e - 1 then some (6, rRANGE)
        else none
      else match getDesc s p (eSrc e) with
        | none => some (2, rRANGE)
        | some a =>
          let ds := List.range (dRank b)
          if !dIsWrite b || !dIsRead a then some (2, rRANGE)
          else if dFormat a != dFormat b || dRank a != dRank b || ds.any (fun d => !(ds.map (ePerm e)).contains d)
              || ds.any (fun d => dSize a (ePerm e d) != dSize b d) then some (3, rUNSUP)
          else if dNarrow a && (ePerm e (dKdim a) != dKdim a || dKdim a != dKdim b) then some (4, rUNSUP)
          else if copySpansMeet a b && !inPlace e a b then some (5, rOVERLAP)
          else none

/-- Every index vector of (size, step) dimensions. -/
def idxVecs : List (Nat × Nat) → List (List Nat)
  | [] => [[]]
  | d :: ds => (List.range (ceilDiv d.1 d.2)).flatMap (fun i => (idxVecs ds).map (fun v => i * d.2 :: v))

/-- The index vectors of a destination: every element, or the first element of every narrow line (R192). -/
def copyVecs (b : BitVec 1024) : List (List Nat) :=
  idxVecs ((List.range (dRank b)).map (fun d => (dSize b d, if dNarrow b && d == dKdim b then perLine (dFormat b) else 1)))

/-- The lines of an index tensor that a copy's index vectors need, read with the default hint (06 R193; 14 R443). -/
def copyIndex (s : State) (p : Nat) (d : BitVec 1024) (vs : List (List Nat)) : LineMap × State :=
  readLines s p 0 (if dIdxEn d then vs.map (fun v => (entryAt s p d (v.getD (dIdxDim d) 0)).1) else [])

/-- The vector after index substitution, none when its entry is out of range (06 R193, R207). -/
def indexed (s : State) (p : Nat) (d : BitVec 1024) (m : LineMap) (v : List Nat) : Option (List Nat) :=
  if !dIdxEn d then some v
  else
    let x := indexValue s p d m (v.getD (dIdxDim d) 0)
    if x < 0 ∨ (dLimit d : Int) ≤ x then none else some (v.set (dIdxDim d) x.toNat)

/-- The source vector of a destination vector: destination dimension d takes source dimension `PERM` d. -/
def permuted (e : List Byte) (rank : Nat) (v : List Nat) : List Nat :=
  (List.range rank).map (fun k => v.getD ((List.range rank).findIdx (fun d => ePerm e d == k)) 0)

/-- One destination element, or narrow line: its vector, the vector after substitution, and its source's (none where the source's
index is out of range). -/
structure CopyItem where
  vec : List Nat
  dst : List Nat
  src : Option (List Nat)
  deriving DecidableEq, Repr

/-- The destination vectors that are written, with their sources, in ascending order of index entry (06 R208). -/
def copyItems (s : State) (p : Nat) (e : List Byte) (a b : BitVec 1024) (ma mb : LineMap) : List CopyItem :=
  let vs := copyVecs b
  let vs := if dIdxEn b then vs.mergeSort (fun x y => decide (x.getD (dIdxDim b) 0 ≤ y.getD (dIdxDim b) 0)) else vs
  vs.filterMap (fun v => (indexed s p b mb v).map (fun w => { vec := v, dst := w, src := indexed s p a ma (permuted e (dRank b) v) }))

/-- A copy's check of a narrow line it read: a failure is the detection of 19 R647, on a tile page that the rules leave open
(16 R558; 03 R97, R98; log 52); a line that carries no check value is counted. -/
def copyCheckLine (s : State) (p src : Nat) (a : BitVec 1024) (l : Int) (d : List Byte) : State :=
  match lineChecks s a src l d with
  | none => count1 s 0x020 7
  | some false => let r := anyTile s p; traise r.2 r.1 4 src
  | some true => s

/-- A source line read by a copy: its line, its bytes and its index stream. -/
abbrev SrcLine := Int × List Byte × List Byte

/-- The source lines read once each, with their index streams where the copy carries them (R558; 06 R192). -/
def copySources (s : State) (p src : Nat) (a : BitVec 1024) (streams : Bool) : List Int → State × List SrcLine
  | [] => (s, [])
  | l :: ls =>
    let (d, s) := devRead s (descLineAddr a l) 0 p []
    let s := copyCheckLine s p src a l d
    let x := devSpan s (idxAddr a l) (if streams then idxBytes a else 0) (fun _ => 0) p []
    let r := copySources x.2 p src a streams ls
    (r.1, (l, d, x.1) :: r.2)

/-- The bytes of a source line. -/
def sourceLine (ls : List SrcLine) (l : Int) : List Byte × List Byte :=
  match ls.find? (fun x => x.1 == l) with | some x => x.2 | none => ([], [])

/-- A line write to make: its address and bytes, none where the line keeps its byte. -/
abbrev LineWrite := Nat × List (Option Byte)

/-- Bytes put into the line writes, a later write of a byte replacing an earlier one. -/
def putWrite (ws : List LineWrite) (a off : Nat) (l : List Byte) : List LineWrite :=
  let blank := List.replicate 72 none
  let set := fun (x : List (Option Byte)) => x.take off ++ l.map some ++ x.drop (off + l.length)
  if ws.any (fun w => w.1 == a) then ws.map (fun w => if w.1 = a then (a, set w.2) else w) else ws ++ [(a, set blank)]

/-- Bytes at a device address put into the line writes. -/
def putBytesAt (ws : List LineWrite) (at_ : Nat) (l : List Byte) : List LineWrite :=
  ((List.range l.length).zip l).foldl (fun ws x =>
    putWrite ws (lineAddr (at_ + x.1)) (at_ + x.1 - lineAddr (at_ + x.1)) [x.2]) ws

/-- The line writes of a narrow copy: every destination line once, with its index stream when both are sparse. -/
def narrowWrites (s : State) (dst : Nat) (a b : BitVec 1024) (ls : List SrcLine) (items : List CopyItem) : List LineWrite :=
  items.foldl (fun ws it =>
    let k := dLineOf b it.dst
    let l := match it.src with | some v => sourceLine ls (dLineOf a v) | none => (zeroLine a, [])
    let ws := putWrite ws (descLineAddr b k) 0 (stampLine s b dst (dLineOf b it.vec) k l.1)
    if dSparse a && dSparse b then putBytesAt ws (idxAddr b k) (slice l.2 0 (idxBytes b)) else ws) []

/-- Bytes of an element of a wide format, integers among them (06 R186). -/
def wideBytes (fmt : Nat) : Nat := 72 / perLine fmt

/-- The line writes of a wide copy with the events of its additions; a destination that adds takes its entries in ascending order
(06 R209). -/
def wideWrites (add : Bool) (a b : BitVec 1024) (ls old : List SrcLine) (items : List CopyItem) : List LineWrite × List AEv :=
  let n := wideBytes (dFormat b)
  let elem := fun (m : List SrcLine) (d : BitVec 1024) v => leAt (sourceLine m (dLineOf d v)).1 (n * dPosOf d v) n
  let value := fun (v : Option (List Nat)) => match v with | some v => elem ls a v | none => 0
  let put := fun ws w v => putWrite ws (descLineAddr b (dLineOf b w)) (n * dPosOf b w) (leBytes n v)
  if add then
    let f := (Fmt.ofCode (dFormat b)).getD .fp32
    ((items.map (·.dst)).eraseDups).foldl (fun r w =>
      let x := scatterElem f (elem old b w) ((items.filter (fun it => it.dst == w)).map (fun it => value it.src))
      (put r.1 w x.1.code, r.2 ++ [x.2.or { overflow := x.1.overflow }])) ([], [])
  else (items.foldl (fun ws it => put ws it.dst (value it.src)) [], [])

/-- The destination lines of a copy that adds, read before it writes them. -/
def copyOld (s : State) (p hint : Nat) (b : BitVec 1024) (ks : List Int) : State × List SrcLine :=
  ks.foldl (fun (r : State × List SrcLine) k =>
    let x := devRead r.1 (descLineAddr b k) hint p []
    (x.2, r.2 ++ [(k, x.1, [])])) (s, [])

/-- Every line write of a COPY, its index entries and source lines read, and the events of what it adds raised (R558). -/
def copyWrites (s : State) (p : Nat) (e : List Byte) (a b : BitVec 1024) : State × List LineWrite :=
  let (mb, s) := copyIndex s p b (copyVecs b)
  let (ma, s) := copyIndex s p a ((copyVecs b).map (permuted e (dRank b)))
  let items := copyItems s p e a b ma mb
  let (s, ls) := copySources s p (eSrc e) a (dSparse a && dSparse b) (((items.filterMap (·.src)).map (dLineOf a)).eraseDups)
  if dNarrow b then (s, narrowWrites s (eDst e) a b ls items)
  else
    let add := dScatterAdd b && dIdxEn b
    let (s, old) := if add then copyOld s p (eHint e) b (((items.map (·.dst)).map (dLineOf b)).eraseDups) else (s, [])
    let w := wideWrites add a b ls old items
    let ev := w.2.foldl AEv.or {}
    if ev.any then let r := anyTile s p; (looseEvent r.2 r.1 ev, w.1) else (s, w.1)

/-- Every line write of a FETCH: each line whole, with the tag and block exponents the host supplied (R558). -/
def fetchWrites (s : State) (e : List Byte) (b : BitVec 1024) (lines : List (BitVec 576)) : List LineWrite :=
  (List.range (eLineCount e)).map (fun (i : Nat) =>
    let k := eLineFirst e + (i : Int)
    let l := leBytes 72 (lines.getD i 0).toNat
    let l := if dNarrow b then mkLine (slice l 0 64) (slice l 64 4) (lineTag l) (overcast s) (eDst e) (toBits 48 k) else l
    (descLineAddr b k, l.map some))

/-- One line write made. -/
def makeWrite (s : State) (p hint : Nat) (w : LineWrite) : State := devMerge s w.1 w.2 hint p
def makeWrites (s : State) (p hint : Nat) (ws : List LineWrite) : State := ws.foldl (fun s w => makeWrite s p hint w) s

/-- The queue takes the entry at its head (R559; 02 R42). -/
def queueRuns (s : State) (p : Nat) : Bool :=
  cqState s p == 0 && rg s 0x021 (cq p 0x10) != rg s 0x021 (cq p 0x0C) && (getPart s p).cqBusy.isNone
    && ctl s 0x20 0 && !ctl s 0x20 1 && hostServed s && aclkOn s

/-- An entry fails its validation (R560). -/
def queueFail (s : State) (p check code : Nat) : State :=
  let s := setRg s 0x021 (cq p 0x14) (BitVec.ofNat 32 (1 + 4 * check + 256 * code))
  sendMsix (raiseOpen s 0x020 6) (20 + p)

/-- A valid entry executes: of its line writes `done` are made now, and the others by its completion. -/
def queueExec (s : State) (p : Nat) (e : List Byte) (done : Nat) (ws : List LineWrite) : State :=
  let s := updPart s p (fun x => { x with cqBusy := some e, cqLeft := ws.drop done })
  makeWrites s p (eHint e) (ws.take done)

/-- COPY (R557 to R560): the queue's head holds `entry`, which is not a FETCH. -/
def execCopyEntry (p : PartIx) (entry : BitVec 512) (done : Nat) (s : State) : Host.Outcome State Fault Refusal :=
  let p := p.toNat
  let e := leBytes 64 entry.toNat
  guarded (queueRuns s p && !isFetch e) s
    (let s := count1 s 0x020 5
     match copyCheck s p e with
     | some f => queueFail s p f.1 f.2
     | none =>
       let r := copyWrites s p e ((getDesc s p (eSrc e)).getD 0) ((getDesc s p (eDst e)).getD 0)
       queueExec r.1 p e done r.2)

/-- FETCH (R557, R558): `lines` are the packed lines in host memory. -/
def execFetchEntry (p : PartIx) (entry : BitVec 512) (lines : List (BitVec 576)) (done : Nat) (s : State) :
    Host.Outcome State Fault Refusal :=
  let p := p.toNat
  let e := leBytes 64 entry.toNat
  guarded (queueRuns s p && isFetch e) s
    (let s := count1 s 0x020 5
     match copyCheck s p e with
     | some f => queueFail s p f.1 f.2
     | none =>
       let s := countBy s 0x020 5 (ceilDiv (72 * eLineCount e) 64)
       queueExec s p e done (fetchWrites s e ((getDesc s p (eDst e)).getD 0) lines))

/-- COPY_ENTRY_COMPLETE (R559, R561, R563). -/
def execCopyEntryComplete (p : PartIx) (s : State) : Host.Outcome State Fault Refusal :=
  let p := p.toNat
  match (getPart s p).cqBusy with
  | none => skip s
  | some e =>
    let s := makeWrites s p (eHint e) (getPart s p).cqLeft
    let s := updPart s p (fun x => { x with cqBusy := none, cqLeft := [] })
    let s := setRg s 0x021 (cq p 0x10) (BitVec.ofNat 32 (((rg s 0x021 (cq p 0x10)).toNat + 1) % cqSize s p))
    let s := count1 s 0x020 6
    .next (if bit (leAt e 1 1) 0 then sendMsix s (16 + p) else s)

/-- CQ_RESET (R564). -/
def execCqReset (arg : Arg) (s : State) : Host.Outcome State Fault Refusal :=
  let p := arg.toNat
  .next (command s 0x021 0x80 arg false id (fun s =>
    if 4 ≤ p then postResult s 0x021 rUNSUP 0x80
    else if (getPart s p).cqBusy.isSome then postResult s 0x021 rBUSY 0x80
    else postResult (setRgF (setRg (setRg s 0x021 (cq p 0x0C) 0) 0x021 (cq p 0x10) 0) 0x021 (cq p 0x14) 1 0 0) 0x021 rOK 0x80))

/-- DB_COPY_TAIL (R548, R549, R564). -/
def execDbCopyTail (p : PartIx) (v : Word) (s : State) : Host.Outcome State Fault Refusal :=
  let p := p.toNat
  let h := 0x44 + 16 * p
  guarded (hostServed s) s
    (let s := match (getPage s 0x07C).held with
       | some (k, _) => if k = h then setPage s 0x07C { getPage s 0x07C with held := none } else s
       | none => s
     if cqSize s p ≤ v.toNat then raiseOpen s 0x020 5 else setRg s 0x021 (cq p 0x0C) v)

/-! Notification bindings (R562, R565). -/

/-- NB_ARM. -/
def execNbArm (arg : Arg) (s : State) : Host.Outcome State Fault Refusal :=
  let n := arg.toNat
  .next (command s 0x022 0x84 arg false id (fun s =>
    let obj := rgF s 0x022 0x40 15 0
    let op := rgF s 0x022 0x40 19 16
    if 1984 ≤ n ∨ oType (syncObj s obj) = 0 ∨ op < 4 ∨ 6 < op then postResult s 0x022 rUNSUP 0x84
    else
      let b : Binding := { obj := obj, op := op, arg := BitVec.ofNat 64 (rg64 s 0x022 0x44) }
      let s := setArmed { s with hif := { s.hif with binds := smPut s.hif.binds n b } } n true
      postResult (if satisfied op (syncObj s obj).value b.arg then fireBinding s n else s) 0x022 rOK 0x84))

/-- NB_DISARM. -/
def execNbDisarm (arg : Arg) (s : State) : Host.Outcome State Fault Refusal :=
  let n := arg.toNat
  .next (command s 0x022 0x85 arg false id (fun s =>
    if 1984 ≤ n then postResult s 0x022 rUNSUP 0x85
    else postResult (setArmed { s with hif := { s.hif with binds := smDel s.hif.binds n } } n false) 0x022 rOK 0x85))

/-! The host link (R544, R545, R563; 17 R573). -/

/-- HOST_LINK_UP: `rate` and `width` in `HIF_STATUS`'s codes; `below`: training ended below 32 GT/s ×4. -/
def execHostLinkUp (rate width : BitVec 2) (below : Bool) (s : State) : Host.Outcome State Fault Refusal :=
  let s := { s with hif := { s.hif with noService := below } }
  .next (if below then raiseLevel s 0x020 0 true
    else
      let s := setRgF (setRgF (setRgF s 0x020 0x40 1 0 rate.toNat) 0x020 0x40 3 2 width.toNat) 0x020 0x40 8 8 1
      raiseLevel (setReady s 0x020 true) 0x020 0 (rate != 2 || width != 2))

/-- What a lost host link does: requests in flight are discarded and the copy queues stop (R545, R560). -/
def linkLoss (s : State) : State :=
  raiseOpen (stopQueue (stopQueue (stopQueue (stopQueue s 0) 1) 2) 3) 0x020 1

/-- HOST_LINK_DOWN. -/
def execHostLinkDown (s : State) : Host.Outcome State Fault Refusal :=
  guarded (rgF s 0x020 0x40 8 8 == 1) s (linkLoss (raiseLevel (setRgF s 0x020 0x40 8 8 0) 0x020 0 false))

end Sys2Proof.Machine
end

