-- ==== Sys2Proof/Machine/Boot.lean ====
section
/-! DEFINITION. Supplies, resets from outside, the boot ROM, the firmware transfer, factory test mode and JTAG (17 R569 to
R582; 16 R567; 19 R670; 20 R677; 22 R723). -/

namespace Sys2Proof.Machine

/-! Starts (17 R570 to R572). -/

/-- Every state lost, as at power removal and under PERST# (R571, R572; 20 R677): each register at its reset value, memory
unspecified, the identity flash kept. The pins and the commands still waiting are not device state. -/
def coldState (s : State) (b : Boot) : State :=
  { State.reset with
    pending := s.pending
    free := s.free + 1
    flash := s.flash
    mem := memBlank {} 0 (sBase + sSize s) (s.free + 1)
    boot := b }

/-- The JTAG instruction once EXTEST, CLAMP and HIGHZ are not available (22 R723). -/
def jtagOutside (i : Nat) : Nat := if 3 ≤ i then 1 else i

/-- POWER_ON_HOLD_END (R570, R571; 19 R670): TEST_EN is sampled; a start follows unless PERST# is asserted. -/
def execPowerOnHoldEnd (testEn : Bool) (s : State) : Host.Outcome State Fault Refusal :=
  guarded s.boot.hold s (coldState s { s.boot with hold := false, testEn := testEn, testMode := false, tripPin := false })

/-- PERST_ASSERT (20 R677, R686). -/
def execPerstAssert (s : State) : Host.Outcome State Fault Refusal :=
  guarded (!s.boot.perst) s (coldState s { s.boot with perst := true, testMode := false })

/-- PERST_DEASSERT (R571): a start, unless the power-on hold goes on. -/
def execPerstDeassert (s : State) : Host.Outcome State Fault Refusal :=
  guarded s.boot.perst s
    (coldState s { s.boot with perst := false, testMode := false, jtag := jtagOutside s.boot.jtag,
                               tripPin := s.boot.tripPin && s.boot.hold })

/-- SUPPLY_EXCURSION (R572): every output is in its unpowered state. -/
def execSupplyExcursion (s : State) : Host.Outcome State Fault Refusal :=
  guarded (!s.boot.hold) s (coldState s { perst := s.boot.perst, hold := true })

/-- SUPPLY_GLITCH (R572). -/
def execSupplyGlitch (s : State) : Host.Outcome State Fault Refusal :=
  guarded (!s.boot.hold && !s.boot.perst) s (count1 s 0x000 0)

/-! The boot ROM (R573, R582, R599; 21 R695 to R697). -/

/-- Why the identity cannot be proved: 0 it can; 1 a digest of the flash fails; 2 no PUF secret; 3 a key that differs. -/
def identityCause (s : State) (puf : Nat) : Nat := if !s.flash.ok then 1 else if puf = 2 ∨ puf = 3 then puf else 0

/-- BOOT_ROM_DONE: `puf`: 2 the PUF secret cannot be rebuilt, 3 the derived key differs from the certificate's. -/
def execBootRomDone (puf : BitVec 2) (s : State) : Host.Outcome State Fault Refusal :=
  let c := identityCause s puf.toNat
  guarded (!s.boot.hold && !s.boot.perst && !getReady s 0x10) s
    (let s := setRg s 0x000 0x40 (BitVec.ofNat 32 (s.flash.part.toNat + 256 * s.flash.dies.toNat + (if s.flash.ok then 2 ^ 31 else 0)))
     let s := setRg64 s 0x000 0x44 s.flash.id.toNat
     let s := setRgF (setRgF s 0x011 0x40 0 0 (if puf = 2 then 0 else 1)) 0x011 0x40 1 1 1
     let s := setReady (setReady s 0x000 true) 0x10 true
     if c = 0 then s else raise (goOos s) 0x000 1 c)

/-! Firmware (16 R567; 17 R574 to R579). -/

/-- A response of DOE instance 1: its result code is the first byte. -/
def doeResp (s : State) (code : Nat) (data : List Byte) : State :=
  { s with resp := { code := code, data := BitVec.ofNat 8 code :: data } }

/-- DOE requests are taken: the device is out of reset. -/
def doeServed (s : State) : Bool := !s.boot.hold && !s.boot.perst

/-- A length that `LENGTH` permits (R575). -/
def fwLengthOk (n : Nat) : Bool := n % 64 == 0 && decide (4096 ≤ n) && decide (n ≤ 8 * 2 ^ 20)

/-- BEGIN (16 R567; 17 R576, R582). -/
def execFwBegin (len : Word) (s : State) : Host.Outcome State Fault Refusal :=
  guarded (doeServed s) s
    (if !getReady s 0x10 then doeResp s rNOTREADY []
     else if s.oos then doeResp s rOOS []
     else if fwRunning s then doeResp s rBUSY []
     else if s.hif.fwLen.isSome || !fwLengthOk len.toNat then doeResp s rUNSUP []
     else doeResp (setRgF { s with hif := { s.hif with fwLen := some len.toNat, fwBytes := [] } } 0x010 0x40 2 0 1) rOK [])

/-- DATA (16 R567): bytes follow those stored without a gap. -/
def execFwData (off : Word) (bytes : List Byte) (s : State) : Host.Outcome State Fault Refusal :=
  guarded (doeServed s) s
    (if s.hif.fwLen.isNone || off.toNat != s.hif.fwBytes.length || decide (2 ^ 18 < bytes.length) then doeResp s rUNSUP []
     else doeResp { s with hif := { s.hif with fwBytes := s.hif.fwBytes ++ bytes } } rOK [])

/-- A public key held as x then y. -/
def splitKey (k : BitVec 512) : Nat × Nat := (k.toNat / 2 ^ 256, k.toNat % 2 ^ 256)

/-- The firmware bytes verify (R575, R576). -/
def fwGood (announced : Nat) (l : List Byte) : Bool :=
  l.length == announced && leAt l 0 4 == 0x57464847 && leAt l 8 4 == l.length && leAt l 0x10 0x30 == 0
    && ecdsaOk (splitKey Config.fwKey) (sha256 (l.take (l.length - 64))) (l.drop (l.length - 64))

/-- BOOT_STATUS after an END (R579). -/
def endStatus (s : State) (stage code : Nat) : State :=
  setRgF (setRgF (setRgF s 0x010 0x40 2 0 stage) 0x010 0x40 15 8 code) 0x010 0x40 23 16 (min 255 (rgF s 0x010 0x40 23 16 + 1))

/-- The digest registers of boot page 010h. -/
def setFwDigest (s : State) (d : List Byte) : State :=
  (List.range 8).foldl (fun s k => setRg s 0x010 (0x50 + 4 * k) (BitVec.ofNat 32 (leAt d (4 * k) 4))) s

/-- END (16 R567; 17 R576 to R579; 20 R680): `FW_DIGEST` is the SHA-256 of the whole held firmware. -/
def execFwEnd (s : State) : Host.Outcome State Fault Refusal :=
  guarded (doeServed s) s
    (match s.hif.fwLen with
     | none => doeResp s rUNSUP []
     | some n =>
       let l := s.hif.fwBytes
       let s := { s with hif := { s.hif with fwLen := none, fwBytes := [] } }
       if !fwGood n l then doeResp (endStatus s 4 rSIGBAD) rSIGBAD []
       else
         let s := endStatus { s with hif := { s.hif with fw := l } } 3 rOK
         let s := setRg (setRg s 0x010 0x44 (BitVec.ofNat 32 l.length)) 0x010 0x48 (BitVec.ofNat 32 (leAt l 4 4))
         doeResp (setRgF (setFwDigest s (sha256 l)) 0x002 0x4C 5 5 0) rOK [])

/-! Factory test mode (19 R670; 21 R699). -/

/-- The entropy source passes its health tests. -/
def trngOk (s : State) : Bool := rgF s 0x011 0x40 1 1 == 1

/-- Fresh bytes of the random generator (21 R699; log 8). -/
def fresh32 (s : State) : List Byte × State := (leBytes 32 (Config.freshRandom s.free).toNat, { s with free := s.free + 1 })

/-- TEST_CHALLENGE. -/
def execTestChallenge (s : State) : Host.Outcome State Fault Refusal :=
  guarded (doeServed s) s
    (if !getReady s 0x10 then doeResp s rNOTREADY []
     else if fwRunning s || !s.boot.testEn then doeResp s rUNSUP []
     else if !trngOk s then doeResp s rUNSUP []
     else
       let (c, s) := fresh32 s
       doeResp { s with hif := { s.hif with challenge := some c } } rOK c)

/-- TEST_UNLOCK: a signature over the digest of `DEVICE_ID` and the open challenge. -/
def execTestUnlock (sig : BitVec 512) (s : State) : Host.Outcome State Fault Refusal :=
  guarded (doeServed s) s
    (match s.hif.challenge with
     | none => doeResp s rUNSUP []
     | some c =>
       if fwRunning s || !s.boot.testEn then doeResp s rUNSUP []
       else
         let s := { s with hif := { s.hif with challenge := none } }
         let d := sha256 (leBytes 8 (rg64 s 0x000 0x44) ++ c)
         if ecdsaOk (splitKey Config.testKey) d (beBytes 64 sig.toNat) then
           doeResp { s with boot := { s.boot with testMode := true } } rOK []
         else doeResp s rSIGBAD [])

/-! JTAG (22 R723). -/

/-- An instruction is selected; `data` is what its register gives. -/
def jtagSelect (s : State) (i : Nat) (data : List Byte) : State :=
  { s with boot := { s.boot with jtag := i }, resp := { code := 0, data := data } }

/-- An instruction that is available only while PERST# is asserted after the power-on hold, and BYPASS at other times. -/
def jtagPins (s : State) (i : Nat) : State := jtagSelect s (if s.boot.perst && !s.boot.hold then i else 1) []

def execJtagBypass (s : State) : Host.Outcome State Fault Refusal := .next (jtagSelect s 1 [])
def execJtagIdcode (s : State) : Host.Outcome State Fault Refusal := .next (jtagSelect s 0 (leBytes 4 0x05684A5B))
def execJtagSamplePreload (s : State) : Host.Outcome State Fault Refusal := .next (jtagSelect s 2 [])
def execJtagExtest (s : State) : Host.Outcome State Fault Refusal := .next (jtagPins s 3)
def execJtagClamp (s : State) : Host.Outcome State Fault Refusal := .next (jtagPins s 4)
def execJtagHighz (s : State) : Host.Outcome State Fault Refusal := .next (jtagPins s 5)

end Sys2Proof.Machine
end

