-- ==== Sys2Proof/Machine/Power.lean ====
section
/-! DEFINITION. Power modes, ACLK stretching, power and heat samples and the SMBus target (18). -/

namespace Sys2Proof.Machine

/-! Modes (R605 to R608, R614). -/

/-- Cap in watts of a mode (R606). -/
def modeCap (m : Nat) : Nat := if m = 2 then 2000 else if m = 1 then 1500 else 1050
/-- The effective cap. -/
def effCap (s : State) : Nat := min (modeCap (powerMode s)) (rgF s 0x001 0x4C 11 0)
def updPower (s : State) (f : Power → Power) : State := { s with power := f s.power }

/-- The earliest count of a divider's change decided now: 200 ns later (R614). -/
def safeFrom (s : State) : Nat := now s + 210

/-- MODE_APPLY (R608): on OK the switch waits for its safe point. -/
def execModeApply (arg : Arg) (s : State) : Host.Outcome State Fault Refusal :=
  .next (command0 s 0x001 0x90 arg id (fun s =>
    let m := rgF s 0x001 0x40 1 0
    if m = 3 then postResult s 0x001 rUNSUP 0x90
    else if anyRunning s then postResult s 0x001 rBUSY 0x90
    else if rgF s 0x007 0x4C 11 0 + 10 < rgF s 0x001 0x48 11 0 then postResult s 0x001 rNOTREADY 0x90
    else postRunning (updPower s (fun w => { w with switch := some (modeDiv m, some m, safeFrom s) })) 0x001 0x90))

/-- PLL_UNLOCK (R605; 20 R679): the warm reset that follows loses memory (log 17). -/
def execPllUnlock (s : State) : Host.Outcome State Fault Refusal :=
  guarded (hostServed s) s
    (let s' := raiseOpen s 0x001 0
     if !warmActive s && warmActive s' then setRgF (loseMemory { s' with fc := { s'.fc with warmPll := true } }) 0x002 0x4C 4 4 1
     else s')

/-! Violations (R612, R613, R617, R619). -/

/-- Over-cap averages within the trailing second (R610). -/
def overRecent (s : State) : List Nat := s.power.overHist.filter (fun c => decide (now s < c + 1000 * msTicks))

/-- The release conditions of R617 that last hold, a violation of this sample aside. -/
def calm (s : State) : Bool :=
  decide (tjMax s + 12 < throttleAt s) && decide (s.power.excluded.length ≤ 8)
    && (match s.power.lastMs with | some m => decide (100 * m ≤ 95 * 400 * effCap s) | none => true)
    && decide ((overRecent s).length ≤ 2000)

/-- The count since which R617's conditions hold, after a sample that violates them or not. -/
def noteCalm (s : State) (violated : Bool) : State :=
  updPower s (fun w => { w with relSince := if violated || !calm s then none else some (w.relSince.getD (now s)) })

/-- A power violation occurs (R611). -/
def powerViol (s : State) : State := updPower (setRgF s 0x001 0x44 13 13 1) (fun w => { w with pwrViol := true })

/-! Samples and averages (R609 to R612, R632, R633). -/

/-- POWER_SAMPLE (R609, R612): package power in 1/4 W, VCORE in mV and the VCORE rail's current in A. -/
def execPowerSample (power : BitVec 16) (vcore current : BitVec 12) (s : State) : Host.Outcome State Fault Refusal :=
  guarded (!s.boot.hold && !s.boot.perst) s
    (let e := s.power.energy + power.toNat
     let s := updPower s (fun w => { w with samples := (power.toNat :: w.samples).take 10, energy := e % 400 })
     let s := setRg s 0x007 0x4C (BitVec.ofNat 32 (vcore.toNat + 65536 * current.toNat))
     let s := if e < 400 then s else countBy s 0x007 0 (e / 400)
     let low := decide (vcore.toNat + 15 < setpoint (powerMode s))
     let s := if low then updPower (setRgF (raiseOpen s 0x007 2) 0x001 0x44 14 14 1) (fun w => { w with voltViol := true }) else s
     noteCalm s (decide (vcore.toNat + 5 < setpoint (powerMode s))))

/-- A quotient whose rounding the spec does not state (log 15). -/
def openQuot (s : State) (a b : Nat) : Nat × State := let (k, s) := choose s 2; (a / b + (if a % b = 0 then 0 else k), s)

/-- POWER_AVERAGE_100US (R610, R611): ten samples form an average. -/
def execPowerAverage100us (s : State) : Host.Outcome State Fault Refusal :=
  let sum := s.power.samples.foldl (· + ·) 0
  guarded (s.power.samples.length == 10) s
    (let tooHigh := decide (4 * 2000 * 10 < sum)
     let run := if tooHigh then s.power.overRun + 1 else 0
     let s := updPower s (fun w => { w with
       samples := [], avgs := (sum :: w.avgs).take 10, overRun := run,
       overHist := if tooHigh then now s :: overRecent s else overRecent s })
     let (q, s) := openQuot s sum 10
     let s := setRgF s 0x007 0x40 15 0 (min 65535 q)
     let n := (overRecent s).length
     let (a, s) := openQuot s n 10
     let (b, s) := openQuot s run 10
     let s := setRg s 0x007 0x50 (BitVec.ofNat 32 (min 1023 a + 65536 * min 1023 b))
     let s := if run = 1 then count1 s 0x007 1 else s
     let squall := decide (4 * 2400 * 10 < sum) || (tooHigh && (decide (200 < run) || decide (2500 < n)))
     let s := if squall then raiseOpen s 0x007 1 else s
     let viol := squall && powerMode s == 2 && effCap s == 2000
     noteCalm (if viol then powerViol s else s) viol)

/-- POWER_AVERAGE_1MS (R609, R611): ten 100-µs averages form one, and a thousand of these the 1-s average. -/
def execPowerAverage1ms (s : State) : Host.Outcome State Fault Refusal :=
  let sum := s.power.avgs.foldl (· + ·) 0
  guarded (s.power.avgs.length == 10) s
    (let ms := sum :: s.power.msAvgs
     let s := updPower s (fun w => { w with avgs := [], lastMs := some sum, msAvgs := if ms.length < 1000 then ms else [] })
     let (q, s) := openQuot s sum 100
     let s := setRgF s 0x007 0x44 15 0 (min 65535 q)
     let s := if ms.length < 1000 then s
       else
         let (q, s) := openQuot s (ms.foldl (· + ·) 0) 100000
         setRgF s 0x007 0x48 15 0 (min 65535 q)
     let viol := !(powerMode s == 2 && effCap s == 2000) && decide (400 * effCap s < sum)
     noteCalm (if viol then powerViol s else s) viol)

/-- What one sensor gives: its number, its reading in quarters of a degree, and whether it passes its own check. -/
abbrev Reading := BitVec 8 × Int × Bool

/-- The sensor is excluded by its reading (R619). -/
def badReading (r : Reading) : Bool := decide (r.2.1 < 0) || decide (600 < r.2.1) || !r.2.2

/-- One sensor's sample. -/
def takeReading (s : State) (r : Reading) : State :=
  let k := r.1.toNat
  let was := s.power.excluded.contains k
  let s := updPower s (fun w => { w with
    temps := smSet (fun _ => 0) w.temps k (toBits 10 r.2.1)
    excluded := if badReading r then (if was then w.excluded else k :: w.excluded) else w.excluded.filter (· ≠ k) })
  if badReading r && !was then raiseOpen s 0x006 2 else s

/-- `TJ_MAX` of the included sensors: the hottest, the lowest-numbered of equals. -/
def findHottest (s : State) : Nat × Nat :=
  (List.range 152).foldl (fun (m : Nat × Nat) k =>
    let t := smGet (fun _ => 0) s.power.temps k
    if !s.power.excluded.contains k && decide (m.1 < t) then (t, k) else m) (0, 0)

/-- SENSOR_SAMPLE (R619, R622). -/
def execSensorSample (readings : List Reading) (s : State) : Host.Outcome State Fault Refusal :=
  guarded (!s.boot.hold && !s.boot.perst) s
    (let s := (readings.filter (fun r => decide (r.1.toNat < 152))).foldl takeReading s
     let m := findHottest s
     let hot := decide (380 < m.1)
     let s := setRg s 0x006 0x40 (BitVec.ofNat 32 (m.1 + 65536 * m.2))
     let s := setRgF (setRgF s 0x006 0x48 1 1 hot.toNat) 0x006 0x48 3 3 (!s.power.excluded.isEmpty).toNat
     let s := if hot then count1 s 0x006 0 else s
     noteCalm (showThermal (raiseLevel s 0x006 3 hot)) false)

/-- THERMTRIP (R621): the comparator acts on a sensor's reading in quarters of a degree. -/
def execThermtrip (temp : BitVec 10) (s : State) : Host.Outcome State Fault Refusal :=
  guarded (!s.boot.hold && !s.boot.perst && !s.boot.tripPin && decide (440 ≤ temp.toNat)) s
    (let s := { s with boot := { s.boot with tripPin := true }, free := s.free + 1,
                       mem := memBlank { s.mem with poison := [] } 0 (sBase + sSize s) (s.free + 1) }
     raiseOpen (goOos (setRgF s 0x006 0x48 2 2 1)) 0x006 1)

/-! Stretching (R613 to R618). -/

/-- STRETCH_STEP (R613): the decision; the step takes effect at its safe point. -/
def execStretchStep (s : State) : Host.Outcome State Fault Refusal :=
  let spaced := match s.power.lastStep with | none => true | some c => decide (c + msTicks ≤ now s)
  guarded (decide (divider s < 8) && s.power.switch.isNone && aclkOn s && spaced
      && (thermalViol s || s.power.pwrViol || s.power.voltViol)) s
    (updPower s (fun w => { w with switch := some (divider s + 1, none, safeFrom s) }))

/-- STRETCH_RELEASE (R617). -/
def execStretchRelease (s : State) : Host.Outcome State Fault Refusal :=
  guarded (stretch s != 0 && s.power.switch.isNone && aclkOn s
      && (match s.power.relSince with | some c => decide (c + 100 * msTicks ≤ now s) | none => false)) s
    (updPower s (fun w => { w with switch := some (divider s - 1, none, safeFrom s), relSince := some (now s) }))

/-- The new divider holds from now in every running schedule (R614, R618). -/
def setDivider (s : State) (d mode : Nat) : State :=
  let s := setRgF (setRgF s 0x001 0x44 7 4 d) 0x001 0x44 10 8 (d - modeDiv mode)
  (List.range 4).foldl (fun s p => if isRunning s p then updRun s p (fun r => { r with divs := r.divs ++ [(now s, d)] }) else s) s

/-- A stretch step takes effect (R616, R633). -/
def stretched (s : State) : State :=
  let pwr := s.power.pwrViol
  let hot := thermalViol s
  let s := (List.range 4).foldl (fun s p => if isRunning s p then tdcAdd s p 4 0x7F 0 else s) s
  let s := raiseOpen (count1 s 0x001 0x11) 0x001 1
  let s := if hot then count1 s 0x006 1 else s
  let s := if pwr then count1 s 0x007 2 else s
  let s := updPower s (fun w => { w with lastStep := some (now s), pwrViol := false, voltViol := false, pwrStretch := w.pwrStretch || pwr })
  raiseLevel s 0x007 0 s.power.pwrStretch

/-- A release takes effect (R617, R629). -/
def released (s : State) : State :=
  let s := setRgF (setRgF s 0x001 0x44 13 13 0) 0x001 0x44 14 14 0
  let s := updPower s (fun w => { w with pwrStretch := w.pwrStretch && stretch s != 0 })
  raiseLevel s 0x007 0 s.power.pwrStretch

/-- A mode change takes effect (R608, R613). -/
def modeChanged (s : State) (m : Nat) : State :=
  let s := setRgF (setRgF s 0x001 0x44 1 0 m) 0x001 0x48 11 0 (setpoint m)
  let s := updPower s (fun w => { w with lastStep := none, pwrViol := false, voltViol := false, pwrStretch := false })
  postDone (raiseLevel (count1 s 0x001 0x10) 0x007 0 false) 0x001 rOK 0x90

/-- The tick edge of R614: the first, from a count on, whose count is a multiple of the alignment steps of both dividers. -/
def switchEdge (s : State) (d from_ : Nat) : Bool :=
  let l := Nat.lcm (divAlign (divider s)) (divAlign d)
  now s % l == 0 && decide (from_ ≤ now s) && decide (now s < from_ + l)

/-- DIVIDER_SWITCH (R608, R614 to R617). -/
def execDividerSwitch (s : State) : Host.Outcome State Fault Refusal :=
  match s.power.switch with
  | none => skip s
  | some (d, m, from_) =>
    let old := divider s
    guarded (switchEdge s d from_ && aclkOn s) s
      (let s := setDivider (updPower s (fun w => { w with switch := none })) d (m.getD (powerMode s))
       match m with
       | some m => modeChanged s m
       | none => if old < d then stretched s else released s)

/-! The SMBus target (R636). -/

/-- The register a command code names. -/
def smbusReg (k : Nat) : Option (Nat × Nat) :=
  if k ≤ 4 then some (0x006, 0x40 + 4 * k) else if 0x40 ≤ k ∧ k ≤ 0x44 then some (0x007, 0x40 + 4 * (k - 0x40)) else none

/-- SMB_ALERT# is low. -/
def smbAlert (s : State) : Bool :=
  (getPage s 0x006).raw.getLsbD 0 || (getPage s 0x007).raw.getLsbD 0 || rgF s 0x006 0x48 2 2 == 1

/-- SMBUS_BLOCK_READ: code 1 for a command that is not acknowledged. -/
def execSmbusBlockRead (k : Byte) (s : State) : Host.Outcome State Fault Refusal :=
  guarded (!s.boot.hold) s
    (match smbusReg k.toNat with
     | some (p, o) => { s with resp := { code := 0, data := leBytes 4 (blockReg s p o).toNat } }
     | none => { s with resp := { code := 1, data := [] } })

end Sys2Proof.Machine
end

