-- ==== Sys2Proof/Machine/Security.lean ====
section
/-! DEFINITION. Identity, attestation, image-signing keys and link encryption (21). Message bytes and error codes around
what the manual states are those of SPDM (log 8): error 1 InvalidRequest, 2 InvalidSession, 3 Busy, 4 UnexpectedRequest,
5 Unspecified, 0Ah SessionLimitExceeded; code 0 is a response without error. -/

namespace Sys2Proof.Machine

/-! SPDM (R699 to R703). -/

def spdmResp (s : State) (data : List Byte) : State := { s with resp := { code := 0, data := data } }
def spdmErr (s : State) (code : Nat) : State := count1 { s with resp := { code := code, data := [] } } 0x011 1
def updSec (s : State) (f : Sec → Sec) : State := { s with sec := f s.sec }

/-- A request arrives (R703, R707). -/
def spdmReq (act : State → State) (s : State) : Host.Outcome State Fault Refusal :=
  guarded (doeServed s && getReady s 0x10) s
    (let s := count1 s 0x011 0
     if warmActive s then spdmErr s 3 else act s)

/-- A request that a negotiated connection serves. -/
def spdmNeg (act : State → State) (s : State) : Host.Outcome State Fault Refusal :=
  spdmReq (fun s => if s.sec.spdm < 3 then spdmErr s 4 else act s) s

/-- A request that needs randomness (R699). -/
def needTrng (s : State) (act : State → State) : State := if trngOk s then act s else spdmErr s 5

/-- A signature of the identity key over the digest of a transcript that the standard lays down (R695 to R697). -/
def signature (s : State) : List Byte × State :=
  (ecdsaSign (identityScalar Config.pufSecret) (Config.transcript s.free) (Config.freshRandom s.free), { s with free := s.free + 1 })

def execSpdmGetVersion (s : State) : Host.Outcome State Fault Refusal :=
  spdmReq (fun s => spdmResp (updSec s (fun c => { c with spdm := 1 })) [0x12]) s
def execSpdmGetCapabilities (s : State) : Host.Outcome State Fault Refusal :=
  spdmReq (fun s => if s.sec.spdm = 0 then spdmErr s 4 else spdmResp (updSec s (fun c => { c with spdm := max 2 c.spdm })) []) s
def execSpdmNegotiateAlgorithms (s : State) : Host.Outcome State Fault Refusal :=
  spdmReq (fun s => if s.sec.spdm < 2 then spdmErr s 4 else spdmResp (updSec s (fun c => { c with spdm := 3 })) []) s

/-- GET_DIGESTS: the digest of slot 0, the only slot (R698). -/
def execSpdmGetDigests (s : State) : Host.Outcome State Fault Refusal :=
  spdmNeg (fun s => spdmResp s ((List.range 32).map (Config.spdmByte 1))) s

/-- GET_CERTIFICATE (R698, R700): bytes of the chain of slot 0. -/
def execSpdmGetCertificate (slot : BitVec 4) (off len : BitVec 16) (s : State) : Host.Outcome State Fault Refusal :=
  spdmNeg (fun s => if slot ≠ 0 then spdmErr s 1
    else spdmResp s ((List.range len.toNat).map (fun i => Config.certByte (off.toNat + i)))) s

/-- CHALLENGE: a nonce and the identity key's signature. -/
def execSpdmChallenge (slot : BitVec 4) (s : State) : Host.Outcome State Fault Refusal :=
  spdmNeg (fun s => if slot ≠ 0 then spdmErr s 1
    else needTrng s (fun s =>
      let (n, s) := fresh32 s
      let (g, s) := signature s
      spdmResp s (n ++ g))) s

/-! Measurements (R701, R702). -/

/-- n registers of a page from an offset, as bytes. -/
def regBytes (s : State) (p o n : Nat) : List Byte := (List.range n).flatMap (fun k => leBytes 4 (rg s p (o + 4 * k)).toNat)

/-- The digest a partition measures by. -/
def imgMeasure (s : State) (p : Nat) : List Byte :=
  if p < nParts s ∧ 2 ≤ rgF s (0x2C + p) 0x44 1 0 then regBytes s (0x2C + p) 0x60 8 else List.replicate 32 0

/-- The device-mode block. -/
def modeMeasure (s : State) : List Byte :=
  regBytes s 0x001 0x44 1 ++ leBytes 1 (nParts s) ++ leBytes 1 (role s)
    ++ leBytes 1 (natOfBits [overcast s, s.boot.testMode, s.oos]) ++ [0]

/-- The content of measurement block i. -/
def measurement (s : State) (i : Nat) : List Byte :=
  match i with
  | 1 => (List.range 4).map (Config.spdmByte 2)
  | 2 => if fwRunning s then regBytes s 0x010 0x50 8 else List.replicate 32 0
  | 3 => regBytes s 0x000 0x40 3
  | 4 => imgMeasure s 0
  | 5 => imgMeasure s 1
  | 6 => imgMeasure s 2
  | 7 => imgMeasure s 3
  | 8 => modeMeasure s
  | 9 => regBytes s 0x011 0x44 1 ++ regBytes s 0x011 0x90 8
  | _ => []

/-- The DMTF type of block i, with bit 7 set where the content is no digest (R702; log 8). -/
def measureType (i : Nat) : Byte :=
  match i with
  | 1 => 0x80 | 3 => 0x82 | 8 => 0x85 | 9 => 0x83 | _ => 0x01

/-- A measurement block in the DMTF format: its index, the format, its size, then type, length and content (R702; log 8). -/
def measureBlock (s : State) (i : Nat) : List Byte :=
  let m := measurement s i
  BitVec.ofNat 8 i :: 1 :: leBytes 2 (m.length + 3) ++ measureType i :: leBytes 2 m.length ++ m

/-- The blocks a request names: all for FFh, none for 0 (the count is asked), else one. -/
def measured (s : State) (index : Nat) : List Byte :=
  if index = 0 then [9]
  else ((List.range 10).filter (fun i => i != 0 && (index == 0xFF || index == i))).flatMap (measureBlock s)

/-- GET_MEASUREMENTS (R701, R702, R707). -/
def execSpdmGetMeasurements (index : Byte) (sign : Bool) (s : State) : Host.Outcome State Fault Refusal :=
  spdmNeg (fun s =>
    let i := index.toNat
    if 9 < i ∧ i ≠ 0xFF then spdmErr s 1
    else if !sign then spdmResp s (measured s i)
    else needTrng s (fun s =>
      let m := measured s i
      let (n, s) := fresh32 s
      let (g, s) := signature s
      count1 (spdmResp s (m ++ n ++ g)) 0x011 3)) s

/-! Sessions (R700, R704). -/

/-- `SEC_STATUS.SESSIONS` follows the open sessions. -/
def showSessions (s : State) : State := setRgF s 0x011 0x40 4 2 s.sec.sessions.length

/-- KEY_EXCHANGE: at most four sessions. -/
def execSpdmKeyExchange (session : Word) (s : State) : Host.Outcome State Fault Refusal :=
  spdmNeg (fun s =>
    let n := session.toNat
    if s.sec.sessions.contains n || s.sec.opening.contains n then spdmErr s 1
    else if 4 ≤ s.sec.sessions.length + s.sec.opening.length then spdmErr s 0xA
    else needTrng s (fun s =>
      let (k, s) := fresh32 s
      let (g, s) := signature s
      spdmResp (updSec s (fun c => { c with opening := c.opening ++ [n] })) (k ++ g))) s

/-- FINISH. -/
def execSpdmFinish (session : Word) (s : State) : Host.Outcome State Fault Refusal :=
  spdmNeg (fun s =>
    let n := session.toNat
    if !s.sec.opening.contains n then spdmErr s 4
    else spdmResp (showSessions (updSec s (fun c => { c with
      opening := c.opening.filter (· ≠ n), sessions := c.sessions ++ [n], keyGen := smPut c.keyGen n 0 }))) []) s

/-- A request inside an open session. -/
def inSession (n : Nat) (act : State → State) (s : State) : Host.Outcome State Fault Refusal :=
  spdmNeg (fun s => if !s.sec.sessions.contains n then spdmErr s 2 else act s) s

def execSpdmEndSession (session : Word) (s : State) : Host.Outcome State Fault Refusal :=
  inSession session.toNat (fun s => spdmResp (showSessions (updSec s (fun c => { c with
    sessions := c.sessions.filter (· ≠ session.toNat), keyGen := smDel c.keyGen session.toNat }))) []) s
def execSpdmHeartbeat (session : Word) (s : State) : Host.Outcome State Fault Refusal :=
  inSession session.toNat (fun s => spdmResp s []) s
def execSpdmKeyUpdate (session : Word) (s : State) : Host.Outcome State Fault Refusal :=
  inSession session.toNat (fun s => spdmResp (updSec s (fun c => { c with
    keyGen := smPut c.keyGen session.toNat (smGet (fun _ => 0) c.keyGen session.toNat + 1) })) []) s

/-! Link encryption (R708, R709). -/

/-- Both directions of a stream hold a key of a key set. -/
def keysSet (l : List (Nat × Nat)) (stream set : Nat) : Bool :=
  (List.range 2).all (fun d => l.any (fun e => e.1 == 4 * stream + 2 * d + set))

/-- IDE_KEY_PROGRAM: a key of a stream (0 link, 1 CXL.cachemem), direction and key set, inside a session. -/
def execIdeKeyProgram (session : Word) (stream dir set : BitVec 1) (key : BitVec 256) (s : State) :
    Host.Outcome State Fault Refusal :=
  inSession session.toNat (fun s =>
    let s := updSec s (fun c => { c with ide := smPut c.ide (4 * stream.toNat + 2 * dir.toNat + set.toNat) key.toNat })
    spdmResp (if keysSet s.sec.ide stream.toNat set.toNat then setRgF s 0x020 0x40 (6 + stream.toNat) (6 + stream.toNat) 1 else s) []) s

/-- IDE_INTEGRITY_FAIL (R709; 16 R545). -/
def execIdeIntegrityFail (stream : BitVec 1) (s : State) : Host.Outcome State Fault Refusal :=
  let b := 6 + stream.toNat
  guarded (rgF s 0x020 0x40 b b == 1) s
    (linkLoss (updSec (setRgF s 0x020 0x40 b b 0) (fun c => { c with ide := c.ide.filter (fun e => e.1 / 4 ≠ stream.toNat) })))

/-- ENTROPY_HEALTH_TEST_FAIL (R699). -/
def execEntropyHealthTestFail (s : State) : Host.Outcome State Fault Refusal := .next (setRgF s 0x011 0x40 1 1 0)

/-! Image-signing keys (R704 to R706). -/

def keyLocked (s : State) : Bool := rgF s 0x011 0x44 1 1 == 1
def setKeyHash (s : State) (d : List Byte) : State :=
  (List.range 8).foldl (fun s k => setRg s 0x011 (0x90 + 4 * k) (BitVec.ofNat 32 (leAt d (4 * k) 4))) s

/-- KEY_ENABLE. -/
def execKeyEnable (arg : Arg) (s : State) : Host.Outcome State Fault Refusal :=
  .next (command0 s 0x011 0xA0 arg id (fun s =>
    if keyLocked s || !onCurve (stagedKey s) then postResult s 0x011 rUNSUP 0xA0
    else if anyImage s then postResult s 0x011 rBUSY 0xA0
    else postResult (setRgF (setKeyHash s (sha256 (regBytes s 0x011 0x50 16))) 0x011 0x44 0 0 1) 0x011 rOK 0xA0))

/-- KEY_DISABLE. -/
def execKeyDisable (arg : Arg) (s : State) : Host.Outcome State Fault Refusal :=
  .next (command0 s 0x011 0xA1 arg id (fun s =>
    if keyLocked s then postResult s 0x011 rUNSUP 0xA1
    else if anyImage s then postResult s 0x011 rBUSY 0xA1
    else postResult (setRgF (setKeyHash s []) 0x011 0x44 0 0 0) 0x011 rOK 0xA1))

/-- KEY_LOCK. -/
def execKeyLock (arg : Arg) (s : State) : Host.Outcome State Fault Refusal :=
  .next (command0 s 0x011 0xA2 arg id (fun s => postResult (setRgF s 0x011 0x44 1 1 1) 0x011 rOK 0xA2))

end Sys2Proof.Machine
end

