-- ==== Sys2Proof/Machine/Recovery.lean ====
section
/-! DEFINITION. Warm and partition resets, shadow verdicts, the rotating self-test and the end of a fault state (17 R594 to
R597; 19 R645 to R668; 20 R678 to R686). -/

namespace Sys2Proof.Machine

/-! Resets (20). -/

/-- WARM_RESET (R678, R681, R694). -/
def execWarmReset (arg : Arg) (s : State) : Host.Outcome State Fault Refusal :=
  .next (command0 s 0x002 0x98 arg id (fun s => postResult (warmBegin (count1 (count1 s 0x002 0) 0x002 1) 3) 0x002 rOK 0x98))

/-- PART_RESET (R684, R685, R694): the partition's number is the argument. -/
def execPartReset (arg : Arg) (s : State) : Host.Outcome State Fault Refusal :=
  .next (command s 0x002 0x99 arg false id (fun s =>
    if 4 ≤ arg.toNat then postResult s 0x002 rUNSUP 0x99
    else if nParts s ≤ arg.toNat then postResult s 0x002 rGEOM 0x99
    else postResult (count1 (partitionReset s arg.toNat) 0x002 2) 0x002 rOK 0x99))

/-- Sites, fabrics and slices that have power set READY again (R679). -/
def readyAgain (s : State) : State :=
  let pages := (List.range 136).map (0x100 + ·) ++ (List.range 4).map (0x80 + ·) ++ (List.range 16).map (0x30 + ·)
  (pages.filter (fun p => (getBlk s p).pwrOn && !(getBlk s p).failed && !isRetiredPage s p)).foldl (fun s p => setReady s p true) s

/-- The stack cache written back and invalid (R677, R679). -/
def flushCache (s : State) : State := { writeBacks s (s.cache.flatMap (·.2)) with cache := [] }

/-- The digest of the held firmware is `FW_DIGEST` (R680). -/
def fwHeld (s : State) : Bool := sha256 s.hif.fw == regBytes s 0x010 0x50 8

/-- WARM_RESET_COMPLETE (R679, R680, R682): `same`: the boot ROM reads the held firmware as it was sent; when its digest is not
`FW_DIGEST`, the reset waits for the firmware and completes after that. -/
def execWarmResetComplete (same : Bool) (s : State) : Host.Outcome State Fault Refusal :=
  guarded (warmActive s && rgF s 0x002 0x4C 5 5 == 0 && aclkOn s) s
    (if !(same && fwHeld s) then setRgF (setRgF s 0x002 0x4C 5 5 1) 0x010 0x40 2 0 0
     else
       let s := flushCache s
       let s := if s.fc.warmPll then loseMemory s else s
       let s := setRgF (readyAgain s) 0x002 0x4C 0 0 0
       let esc := s.fc.escalate
       let s := { s with fc := { s.fc with warmStart := none, escalate := false, warmPll := false } }
       if esc then goOos s else s)

/-! Verdicts and self-tests of free sites. -/

/-- DUP_VERDICT (19 R645, R668, R672): the comparators' verdict on the unit that a free site shadows: whether what the site
computed equals the primary result. `sound`: no fault of the site alters its result. -/
def execDupVerdict (site : SiteIx) (sound : Bool) (s : State) : Host.Outcome State Fault Refusal :=
  let x := site.toNat
  match s.fc.shadows.find? (fun h => h.site == x) with
  | none => skip s
  | some h =>
    let s' := { s with fc := { s.fc with shadows := s.fc.shadows.filter (fun k => k.site ≠ x) } }
    let (inj, s') := if fld s.fi.data 7 0 = x then fiTake s' 4 0x003 else (false, s')
    let s' := if sound && !h.differs && !inj then count1 s' 0x003 6
      else
        let first := rgF s' 0x003 0x68 31 31 == 0
        let s' := if first then setRg (setRg s' 0x003 0x68 (BitVec.ofNat 32 (h.op % 2 ^ 24 + 2 ^ 31))) 0x003 0x6C
            (BitVec.ofNat 32 (h.tile + 256 * x + 65536 * h.kind)) else s'
        let s' := tcountSite (count1 (chargeTile s' h.tile) 0x003 7) x
        raise (charge s' (256 + x)) 0x003 0 (h.tile + 256 * x)
    .next (answerCheck s' (partOf s h.tile))
where
  /-- A detection counts on the free site's own page too (19 R647, R669). -/
  tcountSite (s : State) (x : Nat) : State := count1 s (0x100 + x) 0x60

/-- The free site a quadrant tests next: the lowest above its last, else the lowest (17 R594). -/
def nextRot (s : State) (q : Nat) : Option Nat :=
  let fit := (freeSites s q).filter (fun x => (getBlk s (0x100 + x)).pwrOn && (getBlk s (0x100 + x)).testPage.isNone)
  match s.fc.rotLast.find? (fun r => r.1 == q) with
  | none => fit.head?
  | some (_, last, _) => (fit.find? (fun x => Nat.blt last x)).orElse (fun _ => fit.head?)

/-- A period has passed since the quadrant's last start. -/
def rotDue (s : State) (q : Nat) : Bool :=
  match s.fc.rotLast.find? (fun r => r.1 == q) with
  | none => true
  | some (_, _, c) => decide (c + rgF s 0x000 0x50 15 8 * 1000 * msTicks ≤ now s)

/-- ROT_SELFTEST_START (17 R594, R595). -/
def execRotSelftestStart (q : BitVec 2) (s : State) : Host.Outcome State Fault Refusal :=
  let q := q.toNat
  match nextRot s q with
  | none => skip s
  | some x =>
    guarded (rgF s 0x000 0x50 0 0 == 1 && fwRunning s && !warmActive s && aclkOn s && rotDue s q
        && !(s.fc.rot.any (fun (r : Nat × Nat) => r.1 == q))) s
      (setRgF { s with fc := { s.fc with
          rot := s.fc.rot ++ [(q, x)]
          rotLast := (q, x, now s) :: s.fc.rotLast.filter (fun r => r.1 ≠ q)
          shadows := s.fc.shadows.filter (fun h => h.site ≠ x) } } 0x000 0x54 (8 * q + 7) (8 * q) x)

/-- ROT_SELFTEST_DONE (17 R597; 05 R176): `ok` and `faults` as a requested self-test's. -/
def execRotSelftestDone (q : BitVec 2) (ok : Bool) (faults : List (BitVec 7 × BitVec 7)) (s : State) :
    Host.Outcome State Fault Refusal :=
  let q := q.toNat
  match s.fc.rot.find? (fun (r : Nat × Nat) => r.1 == q) with
  | none => skip s
  | some (_, x) =>
    let s := { s with fc := { s.fc with rot := s.fc.rot.filter (fun (r : Nat × Nat) => r.1 ≠ q) } }
    let s := setRgF s 0x000 0x54 (8 * q + 7) (8 * q) 0xFF
    let (pass, s) := testDone s (0x100 + x) ok faults
    .next (if pass then count1 s 0x000 1 else s)

/-! The fault collector's own steps (19 R661, R665, R668). -/

/-- LULL_END. -/
def execLullEnd (s : State) : Host.Outcome State Fault Refusal :=
  guarded (s.fc.active && !s.oos && decide (s.fc.lullEnd ≤ now s)) s
    (count1 (setRg (setRg { s with fc := { s.fc with active := false } } 0x003 0x60 0) 0x003 0x64 0) 0x003 5)

/-- INTERNAL_ERROR: the failing structure's code is the detail. -/
def execInternalError (code : Word) (s : State) : Host.Outcome State Fault Refusal :=
  guarded (hostServed s) s (raise s 0x003 3 code.toNat)

end Sys2Proof.Machine
end

