-- ==== Sys2Proof/Machine/Clock.lean ====
section
/-! DEFINITION. One tick of the counter clock, which is what the block does while no command waits (15 R499; 14 R470;
18 R633; 19 R661, R669; log 1). -/

namespace Sys2Proof.Machine

/-- A derating of R450 is in force at a controller (14 R470). -/
def derated (c : Ctrl) : Bool := c.refresh != 0 || c.throttled

/-- The fcycle counters of the derated controllers. -/
def countDerated : List Nat → State → State
  | [], s => s
  | k :: ks, s => countDerated ks (if derated (getCtrl s k) then count1 s (0x40 + k) 0xB else s)

/-- The millisecond counters, at each millisecond of the global counter. -/
def countMs (s : State) : State :=
  if now s % msTicks = 0 then
    let s := if stretch s = 0 then s else count1 s 0x001 0x12
    if s.fc.active then count1 s 0x003 9 else s
  else s

/-- The lull does not run while the device is out of service. -/
def holdLull (s : State) : State :=
  if s.oos && s.fc.active then { s with fc := { s.fc with lullEnd := s.fc.lullEnd + 1 } } else s

/-- A tick edge of the global counter (15 R499). -/
def counterTick (s : State) : State := countMs (holdLull { s with gcnt := s.gcnt + 1 })

/-- A cycle of FCLK, which stops when THERMTRIP# asserts (18 R603, R621). -/
def fclkCycle (s : State) : State :=
  if aclkOn s then countDerated (List.range 16) { s with fcyc := s.fcyc + 1 } else s

/-- Time passes: one tick and one fcycle, which have the same nominal period and are counted apart (00 R8; log 1); none
passes while the device is held in reset. -/
def tick (s : State) : State := if s.boot.hold || s.boot.perst then s else fclkCycle (counterTick s)

end Sys2Proof.Machine
end

