-- ==== Sys2Proof/Machine/Convert.lean ====
section
/-! DEFINITION. CVT, PACK and UNPACK (09 R297 to R301). -/

namespace Sys2Proof.Machine

/-- A floating-point value converted to an integer type: RNE, with the type's limits (R298). -/
def cvtToInt (ew : Nat) (uns : Bool) (v : XV) : Nat × KEv :=
  match v with
  | .nan => (0, { nanIn := true })
  | .inf n => (toBits ew (if n then kMin ew uns else kMax ew uns), { sat := true })
  | .fin s m =>
    let q := if s then -m else m
    if q < (kMin ew uns : Rat) then (toBits ew (kMin ew uns), { sat := true })
    else if (kMax ew uns : Rat) < q then (toBits ew (kMax ew uns), { sat := true })
    else
      let k : Int := rneNat m
      (toBits ew (if s then -k else k), {})

/-- One element of CVT: its code, exceptions, and whether a conversion to BF16 overflowed (R298). -/
def cvtElem (w : Nat) (src dst : Nat) (rnd : Rnd) (c : Nat) : Nat × KEv × Bool :=
  if kIsFp src then
    let v := decodeF (kFmt src) c
    if kIsFp dst then
      let (r, o) := encodeWide (kFmt dst) (if src = 0 ∧ dst = 1 then rnd else .rne) v
      (r, { nanIn := v.isNan, overflow := o }, o)
    else let (r, e) := cvtToInt (kWidth dst) (kUns w) v; (r, e, false)
  else
    let i := kInt (kWidth src) (kUns w) c
    if kIsFp dst then ((encodeWide (kFmt dst) .rne (xvInt i)).1, {}, false)
    else
      let narrow := kWidth dst < kWidth src
      let (r, e) := kFit (kWidth dst) (kUns w) (kSat w && narrow) i
      (r, e, false)

/-- The random bits of source element j (R299). -/
def vbRnd (w : Nat) (vb : BitVec 2048) (j : Nat) : Rnd :=
  if kRound w then .sr (bits (vElem vb 32 (j / 8)) (4 * (j % 8) + 3) (4 * (j % 8))) else .rne

/-- The source element of a destination element (R297); none where it is left unchanged. -/
def cvtSource (src dst p i : Nat) : Option Nat :=
  let sn := kElems src
  let dn := kElems dst
  if sn < dn then (if sn * p ≤ i ∧ i < sn * p + sn then some (i - sn * p) else none)
  else some (dn * (if dn < sn then p else 0) + i)

/-- What an issued CVT does: the converted elements go to VD, with the exceptions of those converted (R297 to R299). -/
def cvtAct (t acy : Nat) (e : BitVec 128) (s : State) : State :=
  let w := eWord e
  let x := getTile s t
  let src := kType w
  let dst := kImm w % 8
  let p := bits (kImm w) 4 3
  let va := vReg x (kVA w)
  let vb := vReg x (kVB w)
  let dw := kWidth dst
  let rs := (List.range (kElems dst)).map (fun i =>
    match (if kEnabled x w i then cvtSource src dst p i else none) with
    | some j => (true, cvtElem w src dst (vbRnd w vb j) (vElem va (kWidth src) j))
    | none => (false, (0, {}, false)))
  let res : Result := .vreg (kVD w) (elemSel dw (rs.map (fun r => r.1))) (vOfElems dw (rs.map (fun r => r.2.1)))
  let s := setTile s t (launchResult x (acy + 3) res)
  let s := skinkEvents s t (eOp e) 0x28 (acy + 3) (rs.map (fun r => r.2.2.1))
  let s := if kRound w && src == 0 && dst == 1 then tcount s t 0x51 (countP (fun r => r.1) rs) else s
  (rs.zipIdx).foldl (fun s r =>
    if r.1.2.2.2 && dst == 1 then
      arithEvent s t { op := eOp e, stage := 2, row := 0, col := r.2, kstep := 0, num := 0, order := offAt x e, acy := acy + 3 }
        { overflow := true }
    else s) s

/-- CVT (R289, R294, R297 to R299). -/
def execCvt (t : TileIx) (acy : Nat) (s : State) : Host.Outcome State Fault Refusal :=
  skinkIssue t.toNat acy 0x28 (cvtAct t.toNat) s

/-- PACK's line, its counts and whether it lost a block (R300). -/
def packLine (x : Tile) (w : Nat) (f : Fmt) : List Byte × Counts :=
  let imm := kImm w
  let n := f.perLine
  let elem := fun i => decodeF fFP32 (vElem (vReg x (kVA w + i / 64)) 32 (i % 64))
  let rs := if bit imm 17 then decodeF fFP32 (vElem (vReg x (kVC w)) 32 0) else .fin false 1
  let vb := vReg x (kVB w)
  let blocks := (List.range (n / 32)).map (fun g =>
    quantBlock f (bits imm 15 8) (dslot x) rs ((List.range 32).map (fun j =>
      ({ real := true, pad := false, x := elem (32 * g + j), rnd := vbRnd w vb (32 * g + j) } : QElem))))
  let tag := mkTag f.code false (bit imm 16) false (blocks.any (fun b => b.nonfinite)) false
  (mkLine (packElems f (blocks.flatMap (fun b => b.codes))) (blocks.map (fun b => BitVec.ofNat 8 b.exp)) tag false 0 0,
   blocks.foldl (fun c b => c.add b.cnt) {})

/-- PACK (R241 to R248, R281, R289, R300, R328): the mask governs the 32-bit elements of VD, the line is converted and counted
whole. -/
def execPack (t : TileIx) (acy : Nat) (s : State) : Host.Outcome State Fault Refusal :=
  let t := t.toNat
  skinkIssue t acy 0x29 (fun acy e s =>
    let w := eWord e
    let x := getTile s t
    match Fmt.ofCode (kImm w % 8) with
    | none => s
    | some f =>
      let (line, c) := packLine x w f
      let s := countConv (setTile s t (launchResult x (acy + 6) (maskedV x w (leNat line)))) t c true
      let s := if kRound w then tcount s t 0x51 f.perLine else s
      if c.zblk + c.sblk = 0 then s else traise s t 11 (eOp e)) s

/-- One value of UNPACK (R301). -/
def unpackElem (f : Fmt) (exp code : Nat) : Nat × KEv :=
  if exp = 255 then (0, { nanIn := true })
  else
    let v := (f.decode code).scale (blockFactor exp)
    let (c, o) := encodeWide fFP32 .rne v
    (c, { nanIn := v.isNan, overflow := o })

/-- UNPACK (R93, R289, R301). -/
def execUnpack (t : TileIx) (acy : Nat) (s : State) : Host.Outcome State Fault Refusal :=
  let t := t.toNat
  skinkIssue t acy 0x2A (fun acy e s =>
    let w := eWord e
    let x := getTile s t
    match Fmt.ofCode (kImm w % 8) with
    | none => s
    | some f =>
      let line := vBytes (vReg x (kVA w)) 72
      let tag := lineTag line
      let bad := bits tag 3 0 != f.code || bits tag 5 4 != 0
      let base := if f.width = 4 ∧ bit (kImm w) 3 then 64 else 0
      let rs := (List.range 64).map (fun j =>
        unpackElem f (if bad then 255 else lineExp line ((base + j) / 32)) (lineElem f line (base + j)))
      let s := setTile s t (launchResult x (acy + 4) (maskedV x w (vOfElems 32 (rs.map (fun r => r.1)))))
      let s := skinkEvents s t (eOp e) 0x2A (acy + 4) (laneEvents x w rs)
      if bad then traise s t 3 (eOp e) else s) s

end Sys2Proof.Machine
end

