-- ==== Sys2Proof/Machine/Reduce.lean ====
section
/-! DEFINITION. The reduction unit (09 R305 to R309). -/

namespace Sys2Proof.Machine

/-- A lane of VA: its code and whether it is not masked off (R309). -/
structure RLane where
  code : Nat
  live : Bool

/-- The tree of R307 over a list, in pairs from the left; `k` levels. -/
def treeLevel {α : Type} (f : α → α → α) : List α → List α
  | a :: b :: l => f a b :: treeLevel f l
  | l => l
def treeFold {α : Type} (f : α → α → α) : Nat → List α → List α
  | 0, l => l
  | k + 1, l => treeFold f k (treeLevel f l)

/-- One W40 addition with R122's rules, and its events (R308). -/
def sumW40 (a b : BitVec 40 × AEv) : BitVec 40 × AEv :=
  let (c, e) := cellStep a.1 [(decodeW40 b.1, .fin false 1)]
  (c, (a.2.or b.2).or e)

/-- The 64 lanes of an instruction. -/
def redLanes (x : Tile) (w : Nat) : List RLane :=
  let a := vReg x (kVA w)
  let m := mReg x (bits (kImm w) 6 4)
  (List.range 64).map (fun i => ⟨vElem a 32 i, !bit (kImm w) 7 || m.getLsbD i⟩)

/-- Some lane that is not masked off holds a NaN. -/
def redNan (w : Nat) (ls : List RLane) : Bool :=
  kType w == 0 && ls.any (fun l => l.live && (decodeF fFP32 l.code).isNan)

/-- A chain continued or started afresh (R306). -/
def redChain (x : Tile) (w : Nat) : Option RChain :=
  if bit (kImm w) 0 then none else smGet (fun _ => none) (x.chains.map (fun c => (c.1, some c.2))) (bits (kImm w) 3 2)

def setChain (x : Tile) (i : Nat) (c : Option RChain) : Tile :=
  { x with chains := match c with | some v => smPut x.chains i v | none => smDel x.chains i }

/-- A reduction: `f` gives the chain's new state and the exceptions of one vector, `out` the result's code and exceptions
from the chain at its end (R306, R311 to R313). -/
def redStep (t : TileIx) (acy opcode : Nat) (f : Nat → Option RChain → List RLane → RChain × KEv) (out : Nat → RChain → Nat × KEv)
    (s : State) : Host.Outcome State Fault Refusal :=
  let t := t.toNat
  skinkIssue t acy opcode (fun acy e s =>
    let w := eWord e
    let x := getTile s t
    let i := bits (kImm w) 3 2
    let ls := redLanes x w
    let (c, ev) := f w (redChain x w) ls
    let ev := { ev with nanIn := redNan w ls }
    if bit (kImm w) 1 then
      let (r, ev') := out w c
      let y := launchResult (setChain x i none) (acy + 8) (wholeV w (r % 2 ^ 32))
      skinkEvents (setTile s t y) t (eOp e) opcode (acy + 8) [{ ev with overflow := ev.overflow || ev'.overflow }]
    else skinkEvents (setTile s t (setChain x i (some c))) t (eOp e) opcode (acy + 8) [ev]) s

def newChain (opcode w : Nat) (old : Option RChain) (v : Int) : RChain :=
  { opcode := opcode, type := kType w, value := v, index := 0, found := false,
    vecs := match old with | some c => c.vecs + 1 | none => 1 }

/-- The exact W40 of a lane (R308). -/
def redToW40 (w : Nat) (l : RLane) : BitVec 40 :=
  if !l.live then 0
  else if kType w = 0 then encodeW40 (decodeF fFP32 l.code)
  else encodeW40 (xvInt (kInt 32 (kUns w) l.code))

def redSum (w : Nat) (old : Option RChain) (ls : List RLane) : RChain × KEv :=
  let l := treeFold sumW40 6 (ls.map (fun l => (redToW40 w l, ({} : AEv))))
  let n := l.headD (0, {})
  let r := match old with
    | some c => sumW40 (BitVec.ofNat 40 c.value.toNat, {}) n
    | none => n
  (newChain 0x40 w old r.1.toNat, { invalid := r.2.invalid, overflow := r.2.overflow })

def outSum (_ : Nat) (c : RChain) : Nat × KEv :=
  let (r, o) := encodeWide fFP32 .rne (decodeW40 (BitVec.ofNat 40 c.value.toNat))
  (r, { overflow := o })

/-- The larger or smaller of two FP32 codes or integers under R292. -/
def redPick (big : Bool) (ty : Nat) (a b : Int) : Int :=
  if ty = 0 then
    let x := decodeF fFP32 a.toNat
    let y := decodeF fFP32 b.toNat
    if x.isNan || y.isNan then nanCode fFP32
    else if xvLt x y = big then b else a
  else if decide (a < b) = big then b else a

/-- A lane's value as `redPick` takes it: an INT32 is signed or unsigned according to `UNSIGNED` (R285, R292, R308). -/
def redVal (w c : Nat) : Int := if kType w = 0 then c else kInt 32 (kUns w) c

/-- RED_MAX, RED_MIN and RED_AMAX by their order, identity and view of an element. -/
def redExt (opcode : Nat) (big : Bool) (ident : Nat → Int) (view : Nat → Int → Int) (w : Nat) (old : Option RChain)
    (ls : List RLane) : RChain × KEv :=
  let ty := kType w
  let vs := ls.map (fun l => if l.live then view ty (redVal w l.code) else ident w)
  let n := (treeFold (redPick big ty) 6 vs).headD 0
  (newChain opcode w old (match old with | some c => redPick big ty c.value n | none => n), {})

/-- The identities of RED_MAX and RED_MIN: an infinity, or the limit of the type (R309). -/
def maxIdent (w : Nat) : Int := if kType w = 0 then 0xFF800000 else kMin 32 (kUns w)
def minIdent (w : Nat) : Int := if kType w = 0 then 0x7F800000 else kMax 32 (kUns w)
/-- The magnitude of an element: an FP32 NaN stays NaN. -/
def absView (ty : Nat) (v : Int) : Int := if ty = 0 then v % 2147483648 else v.natAbs

/-- The result of a chain of RED_MAX or RED_MIN, and of RED_AMAX, which clamps an INT32 (R305). -/
def outExt (w : Nat) (c : RChain) : Nat × KEv := (if kType w = 0 then c.value.toNat else toBits 32 c.value, {})
def outAmax (w : Nat) (c : RChain) : Nat × KEv :=
  (if kType w = 0 then c.value.toNat else toBits 32 (min c.value 2147483647), {})

/-- The key by which RED_ARGMAX ranks an element: NaN above every value (R308). -/
def argAbove (ty : Nat) (a b : Int) : Bool :=
  if ty = 0 then
    let x := decodeF fFP32 a.toNat
    let y := decodeF fFP32 b.toNat
    if y.isNan then false else if x.isNan then true else xvLt y x
  else decide (b < a)

def redArg (w : Nat) (old : Option RChain) (ls : List RLane) : RChain × KEv :=
  let ty := kType w
  let c0 := newChain 0x43 w old 0
  let base := 64 * (c0.vecs - 1)
  let start := match old with | some c => (c.found, c.value, c.index) | none => (false, 0, 0)
  let (f, v, i) := (ls.zipIdx).foldl (fun a l =>
    if l.1.live && (!a.1 || argAbove ty (redVal w l.1.code) a.2.1) then (true, redVal w l.1.code, base + l.2) else a) start
  ({ c0 with found := f, value := v, index := i }, {})

def outArg (_ : Nat) (c : RChain) : Nat × KEv := (if c.found then c.index else 0xFFFFFFFF, {})

def redCnz (w : Nat) (old : Option RChain) (ls : List RLane) : RChain × KEv :=
  let n := countP (fun l => l.live && (if kType w = 0 then !(decodeF fFP32 l.code).isZero else l.code != 0)) ls
  (newChain 0x45 w old ((match old with | some c => c.value | none => 0) + n), {})

def outCnz (_ : Nat) (c : RChain) : Nat × KEv := (toBits 32 c.value, {})

def execRedSum (t : TileIx) (acy : Nat) (s : State) : Host.Outcome State Fault Refusal := redStep t acy 0x40 redSum outSum s
def execRedMax (t : TileIx) (acy : Nat) (s : State) : Host.Outcome State Fault Refusal :=
  redStep t acy 0x41 (redExt 0x41 true maxIdent (fun _ v => v)) outExt s
def execRedMin (t : TileIx) (acy : Nat) (s : State) : Host.Outcome State Fault Refusal :=
  redStep t acy 0x42 (redExt 0x42 false minIdent (fun _ v => v)) outExt s
def execRedArgmax (t : TileIx) (acy : Nat) (s : State) : Host.Outcome State Fault Refusal :=
  redStep t acy 0x43 redArg outArg s
def execRedAmax (t : TileIx) (acy : Nat) (s : State) : Host.Outcome State Fault Refusal :=
  redStep t acy 0x44 (redExt 0x44 true (fun _ => 0) absView) outAmax s
def execRedCnz (t : TileIx) (acy : Nat) (s : State) : Host.Outcome State Fault Refusal := redStep t acy 0x45 redCnz outCnz s

end Sys2Proof.Machine
end

