-- ==== Sys2Proof/Machine/Transc.lean ====
section
/-! DEFINITION. The transcendental instructions by the procedures of R303: W40 operations rounded once, tables of exact
quantities rounded to W40, and a final rounding into the type. -/

namespace Sys2Proof.Machine

/-- EXPT[j] = 2^(j/64), rounded RNE to W40 (R303). -/
def exptTab : List Nat :=
  [0x3F80000000, 0x3F8164D1F4, 0x3F82CD8699, 0x3F843A28C4, 0x3F85AAC368, 0x3F871F6197, 0x3F88980E81, 0x3F8A14D575] ++
  [0x3F8B95C1E4, 0x3F8D1ADF5B, 0x3F8EA4398B, 0x3F9031DC43, 0x3F91C3D374, 0x3F935A2B2F, 0x3F94F4EFA9, 0x3F96942D37] ++
  [0x3F9837F052, 0x3F99E04593, 0x3F9B8D39BA, 0x3F9D3ED9A7, 0x3F9EF53261, 0x3FA0B05110, 0x3FA2704303, 0x3FA43515AE] ++
  [0x3FA5FED6AA, 0x3FA7CD93B5, 0x3FA9A15AB5, 0x3FAB7A39B6, 0x3FAD583EEA, 0x3FAF3B78AD, 0x3FB123F582, 0x3FB311C413] ++
  [0x3FB504F334, 0x3FB6FD91E3, 0x3FB8FBAF47, 0x3FBAFF5AB2, 0x3FBD08A39F, 0x3FBF1799B6, 0x3FC12C4CCA, 0x3FC346CCDA] ++
  [0x3FC5672A11, 0x3FC78D74C9, 0x3FC9B9BD86, 0x3FCBEC14FF, 0x3FCE248C15, 0x3FD06333DB, 0x3FD2A81D92, 0x3FD4F35AAC] ++
  [0x3FD744FCCB, 0x3FD99D15C2, 0x3FDBFBB798, 0x3FDE60F482, 0x3FE0CCDEEC, 0x3FE33F8973, 0x3FE5B906E7, 0x3FE8396A50] ++
  [0x3FEAC0C6E8, 0x3FED4F301F, 0x3FEFE4B99C, 0x3FF281773C, 0x3FF5257D15, 0x3FF7D0DF73, 0x3FFA83B2DB, 0x3FFD3E0C0D]

/-- C_k = (ln 2)^k / k!, k = 1 to 5, rounded RNE to W40. -/
def expC : List Nat :=
  [0x3F317217F8, 0x3E75FDEFFC, 0x3D635846B8, 0x3C1D955B7E, 0x3AAEC3FF3C]

/-- D_k = (−1)^(k+1) / (k ln 2), k = 1 to 5, rounded RNE to W40. -/
def logD : List Nat :=
  [0x3FB8AA3B29, 0xBF38AA3B29, 0x3EF6384EE2, 0xBEB8AA3B29, 0x3E93BB6287]

/-- LOGT[c] = log₂(c), c = 48/64 to 96/64, rounded RNE to W40. -/
def logtTab : List Nat :=
  [0xBED47FCB8C, 0xBEC544C056, 0xBEB6587B43, 0xBEA7B7DD96, 0xBE995FF71C, 0xBE8B4E029B, 0xBE7AFEC548, 0xBE5FE33D40] ++
  [0xBE4544C056, 0xBE2B1EE150, 0xBE116D6E15, 0xBDF058D748, 0xBDBEB024B6, 0xBD8DD99530, 0xBD3B9CA64F, 0xBCBA1F7431] ++
  [0x0000000000, 0x3CB73CB42E, 0x3D35D69BAC, 0x3D8759C4FD, 0x3DB31FB7D6, 0x3DDE421205, 0x3E0462C467, 0x3E19574F14] ++
  [0x3E2E00D1D0, 0x3E42615E81, 0x3E567AF16E, 0x3E6A4F7262, 0x3E7DE0B5C8, 0x3E88983ED7, 0x3E92203D58, 0x3E9B892675] ++
  [0x3EA4D3C25E, 0x3EAE00D1D0, 0x3EB7110E6D, 0x3EC0052B19, 0x3EC8DDD449, 0x3ED19BB054, 0x3EDA3F5FBA, 0x3EE2C97D69] ++
  [0x3EEB3A9F02, 0x3EF393550F, 0x3EFBD42B46, 0x3F01FED45D, 0x3F06082807, 0x3F0A064FD5, 0x3F0DF988F5, 0x3F11E20EA1] ++
  [0x3F15C01A3A]

/-- ⌊√n⌋, bit by bit from bit `k` down. -/
def isqrtFrom : Nat → Nat → Nat → Nat
  | 0, r, _ => r
  | k + 1, r, n => let r' := r + 2 ^ k; isqrtFrom k (if r' * r' ≤ n then r' else r) n

/-- SEED_R[j] = 1 / (1 + (j + 0.5)/256) rounded to 16 significand bits. -/
def seedR (j : Nat) : Rat := (rneNat (mkRat (512 * 65536) (513 + 2 * j)) : Rat) / 65536

/-- SEED_Q[j] = 1/√(midpoint of interval j) rounded to 16 significand bits: the high bit of j says 2 ≤ m < 4. -/
def seedQ (j : Nat) : Rat :=
  let den := (257 + 2 * (j % 128)) * (if j < 128 then 1 else 2)
  let r := isqrtFrom 18 0 (256 * 2 ^ 34 / den)
  (((r + 1) / 2 : Nat) : Rat) / 65536

/-- One W40 operation: an exact rational rounded once (its range is never left inside these procedures). -/
def w40 (q : Rat) : Rat := (roundTo fW40 (xvRat q)).toRat
def tabRat (l : List Nat) (i : Nat) : Rat := (decodeF fW40 (l.getD i 0)).toRat

/-- A finite value with its binary exponent: |x| = m × 2^e, 1 ≤ m < 2. -/
def normOf (m : Rat) : Rat × Int := let e := floorLog2 m; (m * pow2 (-e), e)

/-- FIN: the final rounding into the type, with OVERFLOW when it gives an infinity (R303, R304; log 23). -/
def fin (ty : Nat) (neg : Bool) (m : Rat) : Nat × KEv := kRoundTo ty (.fin neg m)

def rcpMag (m : Rat) : Rat :=
  let j := ((m - 1) * 256).floor.toNat
  let step := fun (y : Rat) => let t := w40 (2 - m * y); w40 (y * t)
  step (step (seedR j))

def rsqrtMag (m : Rat) : Rat :=
  let j := if m < 2 then ((m - 1) * 128).floor.toNat else 128 + ((m / 2 - 1) * 128).floor.toNat
  let step := fun (y : Rat) =>
    let a := w40 (m * y)
    let t := w40 (3 - a * y)
    w40 (w40 (y * t) * mkRat 1 2)
  step (step (seedQ j))

/-- The polynomial of EXP2 after its table: p. -/
def exp2Poly (r : Rat) : Rat :=
  let p := [3, 2, 1, 0].foldl (fun p k => w40 (tabRat expC k + w40 (r * p))) (tabRat expC 4)
  w40 (1 + w40 (r * p))

/-- RCP (R303, R304). -/
def elRcp (w : Nat) (_ : Bool) (a _ _ : Nat) : Nat × KEv :=
  let ty := kType w
  match kDec w a with
  | .nan => (nanCode (kFmt ty), { nanIn := true })
  | .inf s => (s.toNat * signBit (kFmt ty), {})
  | .fin s m =>
    if m = 0 then (infCode (kFmt ty) + s.toNat * signBit (kFmt ty), { divzero := true })
    else let (n, e) := normOf m; fin ty s (rcpMag n * pow2 (-e))

/-- RSQRT. -/
def elRsqrt (w : Nat) (_ : Bool) (a _ _ : Nat) : Nat × KEv :=
  let ty := kType w
  match kDec w a with
  | .nan => (nanCode (kFmt ty), { nanIn := true })
  | .inf s => if s then (nanCode (kFmt ty), { invalid := true }) else (0, {})
  | .fin s m =>
    if m = 0 then (infCode (kFmt ty) + s.toNat * signBit (kFmt ty), { divzero := true })
    else if s then (nanCode (kFmt ty), { invalid := true })
    else
      let (n, e) := normOf m
      let k := Int.fdiv e 2
      fin ty false (rsqrtMag (if e - 2 * k = 1 then 2 * n else n) * pow2 (-k))

/-- EXP2. -/
def elExp2 (w : Nat) (_ : Bool) (a _ _ : Nat) : Nat × KEv :=
  let ty := kType w
  match kDec w a with
  | .nan => (nanCode (kFmt ty), { nanIn := true })
  | .inf s => (if s then 0 else infCode (kFmt ty), {})
  | .fin s m =>
    let x := if s then -m else m
    if 128 ≤ x then (infCode (kFmt ty), { overflow := true })
    else if x < -160 then (0, {})
    else
      let n := x.floor
      let f := x - (n : Rat)
      let j := (64 * f).floor.toNat
      let r := f - mkRat j 64
      fin ty false (w40 (tabRat exptTab j * exp2Poly r) * pow2 n)

/-- LOG2 of a positive finite value. -/
def log2Pos (m : Rat) : Rat :=
  let (n0, e0) := normOf m
  let (n, e) := if mkRat 3 2 ≤ n0 then (n0 / 2, e0 + 1) else (n0, e0)
  let c := (64 * n + mkRat 1 2).floor.toNat
  let t := w40 (n * w40 (mkRat 64 c) - 1)
  let q := [3, 2, 1, 0].foldl (fun q k => w40 (tabRat logD k + w40 (t * q))) (tabRat logD 4)
  let q := w40 (t * q)
  w40 (w40 ((e : Rat) + tabRat logtTab (c - 48)) + q)

/-- LOG2. -/
def elLog2 (w : Nat) (_ : Bool) (a _ _ : Nat) : Nat × KEv :=
  let ty := kType w
  match kDec w a with
  | .nan => (nanCode (kFmt ty), { nanIn := true })
  | .inf s => if s then (nanCode (kFmt ty), { invalid := true }) else (infCode (kFmt ty), {})
  | .fin s m =>
    if m = 0 then (infCode (kFmt ty) + signBit (kFmt ty), { divzero := true })
    else if s then (nanCode (kFmt ty), { invalid := true })
    else kRoundTo ty (xvRat (log2Pos m))

def execExp2 (t : TileIx) (acy : Nat) (s : State) : Host.Outcome State Fault Refusal := laneStep t acy 0x30 8 elExp2 s
def execLog2 (t : TileIx) (acy : Nat) (s : State) : Host.Outcome State Fault Refusal := laneStep t acy 0x31 8 elLog2 s
def execRcp (t : TileIx) (acy : Nat) (s : State) : Host.Outcome State Fault Refusal := laneStep t acy 0x32 8 elRcp s
def execRsqrt (t : TileIx) (acy : Nat) (s : State) : Host.Outcome State Fault Refusal := laneStep t acy 0x33 8 elRsqrt s

end Sys2Proof.Machine
end

