-- ==== Sys2Proof/Machine/Dispatch.lean ====
section
/-! DEFINITION. The dispatcher: one arm for each command, one direct call of its meaning. -/

namespace Sys2Proof.Machine

/-- The effect of a command on everything but the queue. -/
def exec (i : Instr) (s : State) : Host.Outcome State Fault Refusal :=
  match i with
  | .nop page arg => Sys2Proof.Machine.execNop page arg s
  | .undefinedCommand page code arg => Sys2Proof.Machine.execUndefinedCommand page code arg s
  | .siteMapApply arg => Sys2Proof.Machine.execSiteMapApply arg s
  | .partSet arg => Sys2Proof.Machine.execPartSet arg s
  | .modeApply arg => Sys2Proof.Machine.execModeApply arg s
  | .descCreate p arg => Sys2Proof.Machine.execDescCreate p arg s
  | .descDestroy p arg => Sys2Proof.Machine.execDescDestroy p arg s
  | .descRead p arg => Sys2Proof.Machine.execDescRead p arg s
  | .imageLoad p arg => Sys2Proof.Machine.execImageLoad p arg s
  | .imageLoadComplete p => Sys2Proof.Machine.execImageLoadComplete p s
  | .imageUnload p arg => Sys2Proof.Machine.execImageUnload p arg s
  | .ctxSave p arg => Sys2Proof.Machine.execCtxSave p arg s
  | .ctxRestore p arg => Sys2Proof.Machine.execCtxRestore p arg s
  | .allocCreate p arg => Sys2Proof.Machine.execAllocCreate p arg s
  | .allocZeroComplete p => Sys2Proof.Machine.execAllocZeroComplete p s
  | .allocRelease p arg => Sys2Proof.Machine.execAllocRelease p arg s
  | .allocQuery p arg => Sys2Proof.Machine.execAllocQuery p arg s
  | .remapAdd k arg => Sys2Proof.Machine.execRemapAdd k arg s
  | .remapRead k arg => Sys2Proof.Machine.execRemapRead k arg s
  | .sliceClean n arg => Sys2Proof.Machine.execSliceClean n arg s
  | .linkTrain n arg => Sys2Proof.Machine.execLinkTrain n arg s
  | .linkDisable n arg => Sys2Proof.Machine.execLinkDisable n arg s
  | .timeAlign arg => Sys2Proof.Machine.execTimeAlign arg s
  | .chorusStart arg => Sys2Proof.Machine.execChorusStart arg s
  | .chorusStop arg => Sys2Proof.Machine.execChorusStop arg s
  | .chorusAbort arg => Sys2Proof.Machine.execChorusAbort arg s
  | .hostSyncAdd up => Sys2Proof.Machine.execHostSyncAdd up s
  | .hostSyncSet up => Sys2Proof.Machine.execHostSyncSet up s
  | .hostSyncClear up => Sys2Proof.Machine.execHostSyncClear up s
  | .hostSyncWaitGe up => Sys2Proof.Machine.execHostSyncWaitGe up s
  | .hostSyncWaitSet up => Sys2Proof.Machine.execHostSyncWaitSet up s
  | .hostSyncWaitClear up => Sys2Proof.Machine.execHostSyncWaitClear up s
  | .fetchAdd up => Sys2Proof.Machine.execFetchAdd up s
  | .acquire up => Sys2Proof.Machine.execAcquire up s
  | .hostSyncWrite up => Sys2Proof.Machine.execHostSyncWrite up s
  | .hostSyncRead up => Sys2Proof.Machine.execHostSyncRead up s
  | .cqReset arg => Sys2Proof.Machine.execCqReset arg s
  | .nbArm arg => Sys2Proof.Machine.execNbArm arg s
  | .nbDisarm arg => Sys2Proof.Machine.execNbDisarm arg s
  | .warmReset arg => Sys2Proof.Machine.execWarmReset arg s
  | .partReset arg => Sys2Proof.Machine.execPartReset arg s
  | .keyEnable arg => Sys2Proof.Machine.execKeyEnable arg s
  | .keyDisable arg => Sys2Proof.Machine.execKeyDisable arg s
  | .keyLock arg => Sys2Proof.Machine.execKeyLock arg s
  | .enable page v => Sys2Proof.Machine.execEnable page v s
  | .quiesce page v => Sys2Proof.Machine.execQuiesce page v s
  | .quiesceIdle page => Sys2Proof.Machine.execQuiesceIdle page s
  | .selftest page v => Sys2Proof.Machine.execSelftest page v s
  | .selftestEnd page ok faults => Sys2Proof.Machine.execSelftestEnd page ok faults s
  | .pwrReq page v => Sys2Proof.Machine.execPwrReq page v s
  | .powerDomainOn page => Sys2Proof.Machine.execPowerDomainOn page s
  | .powerDomainOff page => Sys2Proof.Machine.execPowerDomainOff page s
  | .evtStickyClear page v again => Sys2Proof.Machine.execEvtStickyClear page v again s
  | .counterClear page v inc => Sys2Proof.Machine.execCounterClear page v inc s
  | .lowerWordRead page acc => Sys2Proof.Machine.execLowerWordRead page acc s
  | .upperWordWrite page off v => Sys2Proof.Machine.execUpperWordWrite page off v s
  | .partialRegisterWrite page off => Sys2Proof.Machine.execPartialRegisterWrite page off s
  | .registerWrite page off v => Sys2Proof.Machine.execRegisterWrite page off v s
  | .launchAtWrite p bar2 hi lo => Sys2Proof.Machine.execLaunchAtWrite p bar2 hi lo s
  | .dbCopyTail p v => Sys2Proof.Machine.execDbCopyTail p v s
  | .rngSeedWrite site hi lo => Sys2Proof.Machine.execRngSeedWrite site hi lo s
  | .skinkFirstClear site v => Sys2Proof.Machine.execSkinkFirstClear site v s
  | .faultInjectArm v => Sys2Proof.Machine.execFaultInjectArm v s
  | .siteMapStageWrite off v => Sys2Proof.Machine.execSiteMapStageWrite off v s
  | .arrayRepairWrite site v => Sys2Proof.Machine.execArrayRepairWrite site v s
  | .modeReqWrite v => Sys2Proof.Machine.execModeReqWrite v s
  | .syncObjectDefine n field v => Sys2Proof.Machine.execSyncObjectDefine n field v s
  | .hostMemRead decoder offset hold err1 err2 => Sys2Proof.Machine.execHostMemRead decoder offset hold err1 err2 s
  | .hostMemWrite decoder offset data be hold => Sys2Proof.Machine.execHostMemWrite decoder offset data be hold s
  | .bisnpResponse line => Sys2Proof.Machine.execBisnpResponse line s
  | .bisnpTimeout line => Sys2Proof.Machine.execBisnpTimeout line s
  | .copyEntry p entry done => Sys2Proof.Machine.execCopyEntry p entry done s
  | .fetchEntry p entry lines done => Sys2Proof.Machine.execFetchEntry p entry lines done s
  | .copyEntryComplete p => Sys2Proof.Machine.execCopyEntryComplete p s
  | .fwBegin len => Sys2Proof.Machine.execFwBegin len s
  | .fwData off bytes => Sys2Proof.Machine.execFwData off bytes s
  | .fwEnd => Sys2Proof.Machine.execFwEnd s
  | .testChallenge => Sys2Proof.Machine.execTestChallenge s
  | .testUnlock sig => Sys2Proof.Machine.execTestUnlock sig s
  | .spdmGetVersion => Sys2Proof.Machine.execSpdmGetVersion s
  | .spdmGetCapabilities => Sys2Proof.Machine.execSpdmGetCapabilities s
  | .spdmNegotiateAlgorithms => Sys2Proof.Machine.execSpdmNegotiateAlgorithms s
  | .spdmGetDigests => Sys2Proof.Machine.execSpdmGetDigests s
  | .spdmGetCertificate slot off len => Sys2Proof.Machine.execSpdmGetCertificate slot off len s
  | .spdmChallenge slot => Sys2Proof.Machine.execSpdmChallenge slot s
  | .spdmGetMeasurements index sign => Sys2Proof.Machine.execSpdmGetMeasurements index sign s
  | .spdmKeyExchange session => Sys2Proof.Machine.execSpdmKeyExchange session s
  | .spdmFinish session => Sys2Proof.Machine.execSpdmFinish session s
  | .spdmEndSession session => Sys2Proof.Machine.execSpdmEndSession session s
  | .spdmHeartbeat session => Sys2Proof.Machine.execSpdmHeartbeat session s
  | .spdmKeyUpdate session => Sys2Proof.Machine.execSpdmKeyUpdate session s
  | .ideKeyProgram session stream dir set key => Sys2Proof.Machine.execIdeKeyProgram session stream dir set key s
  | .ideIntegrityFail stream => Sys2Proof.Machine.execIdeIntegrityFail stream s
  | .smbusBlockRead k => Sys2Proof.Machine.execSmbusBlockRead k s
  | .jtagBypass => Sys2Proof.Machine.execJtagBypass s
  | .jtagIdcode => Sys2Proof.Machine.execJtagIdcode s
  | .jtagSamplePreload => Sys2Proof.Machine.execJtagSamplePreload s
  | .jtagExtest => Sys2Proof.Machine.execJtagExtest s
  | .jtagClamp => Sys2Proof.Machine.execJtagClamp s
  | .jtagHighz => Sys2Proof.Machine.execJtagHighz s
  | .powerOnHoldEnd testEn => Sys2Proof.Machine.execPowerOnHoldEnd testEn s
  | .perstAssert => Sys2Proof.Machine.execPerstAssert s
  | .perstDeassert => Sys2Proof.Machine.execPerstDeassert s
  | .supplyExcursion => Sys2Proof.Machine.execSupplyExcursion s
  | .supplyGlitch => Sys2Proof.Machine.execSupplyGlitch s
  | .pllUnlock => Sys2Proof.Machine.execPllUnlock s
  | .bootRomDone puf => Sys2Proof.Machine.execBootRomDone puf s
  | .hostLinkUp rate width below => Sys2Proof.Machine.execHostLinkUp rate width below s
  | .hostLinkDown => Sys2Proof.Machine.execHostLinkDown s
  | .blockReady page ok faults => Sys2Proof.Machine.execBlockReady page ok faults s
  | .thermtrip temp => Sys2Proof.Machine.execThermtrip temp s
  | .sensorSample readings => Sys2Proof.Machine.execSensorSample readings s
  | .powerSample power vcore current => Sys2Proof.Machine.execPowerSample power vcore current s
  | .powerAverage100us => Sys2Proof.Machine.execPowerAverage100us s
  | .powerAverage1ms => Sys2Proof.Machine.execPowerAverage1ms s
  | .stretchStep => Sys2Proof.Machine.execStretchStep s
  | .stretchRelease => Sys2Proof.Machine.execStretchRelease s
  | .dividerSwitch => Sys2Proof.Machine.execDividerSwitch s
  | .stackTemperatureReport tierS stack temp => Sys2Proof.Machine.execStackTemperatureReport tierS stack temp s
  | .lineRead line hint part err => Sys2Proof.Machine.execLineRead line hint part err s
  | .lineWrite line hint part data parity => Sys2Proof.Machine.execLineWrite line hint part data parity s
  | .scrubLine k err => Sys2Proof.Machine.execScrubLine k err s
  | .remapCopyDone k channel row errs => Sys2Proof.Machine.execRemapCopyDone k channel row errs s
  | .launchStart p => Sys2Proof.Machine.execLaunchStart p s
  | .segmentStart p => Sys2Proof.Machine.execSegmentStart p s
  | .scheduleFetch t stream acy errs => Sys2Proof.Machine.execScheduleFetch t stream acy errs s
  | .feed t feeder acy => Sys2Proof.Machine.execFeed t feeder acy s
  | .feedPresent t feeder lane acy => Sys2Proof.Machine.execFeedPresent t feeder lane acy s
  | .kpass t acy => Sys2Proof.Machine.execKpass t acy s
  | .arrayStep t r c acy => Sys2Proof.Machine.execArrayStep t r c acy s
  | .outlierStep t r c acy => Sys2Proof.Machine.execOutlierStep t r c acy s
  | .arraySwap t r acy => Sys2Proof.Machine.execArraySwap t r acy s
  | .drainRowEnter t r acy => Sys2Proof.Machine.execDrainRowEnter t r acy s
  | .drainRowWrite t r acy => Sys2Proof.Machine.execDrainRowWrite t r acy s
  | .checksumVerdict t acy => Sys2Proof.Machine.execChecksumVerdict t acy s
  | .statsWrite t feeder acy => Sys2Proof.Machine.execStatsWrite t feeder acy s
  | .fallbackDecision t acy => Sys2Proof.Machine.execFallbackDecision t acy s
  | .repeatStart t acy => Sys2Proof.Machine.execRepeatStart t acy s
  | .fadd t acy => Sys2Proof.Machine.execFadd t acy s
  | .fsub t acy => Sys2Proof.Machine.execFsub t acy s
  | .fmul t acy => Sys2Proof.Machine.execFmul t acy s
  | .fma t acy => Sys2Proof.Machine.execFma t acy s
  | .vmin t acy => Sys2Proof.Machine.execVmin t acy s
  | .vmax t acy => Sys2Proof.Machine.execVmax t acy s
  | .cmpEq t acy => Sys2Proof.Machine.execCmpEq t acy s
  | .cmpLt t acy => Sys2Proof.Machine.execCmpLt t acy s
  | .cmpLe t acy => Sys2Proof.Machine.execCmpLe t acy s
  | .cmpNe t acy => Sys2Proof.Machine.execCmpNe t acy s
  | .sel t acy => Sys2Proof.Machine.execSel t acy s
  | .iadd t acy => Sys2Proof.Machine.execIadd t acy s
  | .isub t acy => Sys2Proof.Machine.execIsub t acy s
  | .imul t acy => Sys2Proof.Machine.execImul t acy s
  | .shl t acy => Sys2Proof.Machine.execShl t acy s
  | .shrl t acy => Sys2Proof.Machine.execShrl t acy s
  | .shra t acy => Sys2Proof.Machine.execShra t acy s
  | .rotl t acy => Sys2Proof.Machine.execRotl t acy s
  | .vand t acy => Sys2Proof.Machine.execVand t acy s
  | .vor t acy => Sys2Proof.Machine.execVor t acy s
  | .vxor t acy => Sys2Proof.Machine.execVxor t acy s
  | .vnot t acy => Sys2Proof.Machine.execVnot t acy s
  | .vandn t acy => Sys2Proof.Machine.execVandn t acy s
  | .cvt t acy => Sys2Proof.Machine.execCvt t acy s
  | .pack t acy => Sys2Proof.Machine.execPack t acy s
  | .unpack t acy => Sys2Proof.Machine.execUnpack t acy s
  | .exp2 t acy => Sys2Proof.Machine.execExp2 t acy s
  | .log2 t acy => Sys2Proof.Machine.execLog2 t acy s
  | .rcp t acy => Sys2Proof.Machine.execRcp t acy s
  | .rsqrt t acy => Sys2Proof.Machine.execRsqrt t acy s
  | .vload t acy => Sys2Proof.Machine.execVload t acy s
  | .vstore t acy => Sys2Proof.Machine.execVstore t acy s
  | .vstoreLine t acy => Sys2Proof.Machine.execVstoreLine t acy s
  | .rand t acy => Sys2Proof.Machine.execRand t acy s
  | .redSum t acy => Sys2Proof.Machine.execRedSum t acy s
  | .redMax t acy => Sys2Proof.Machine.execRedMax t acy s
  | .redMin t acy => Sys2Proof.Machine.execRedMin t acy s
  | .redArgmax t acy => Sys2Proof.Machine.execRedArgmax t acy s
  | .redAmax t acy => Sys2Proof.Machine.execRedAmax t acy s
  | .redCnz t acy => Sys2Proof.Machine.execRedCnz t acy s
  | .outlierSelect t acy => Sys2Proof.Machine.execOutlierSelect t acy s
  | .moveIn t acy => Sys2Proof.Machine.execMoveIn t acy s
  | .moveOut t acy => Sys2Proof.Machine.execMoveOut t acy s
  | .linkSend t acy => Sys2Proof.Machine.execLinkSend t acy s
  | .lineArrival t tag ix acy before parity err => Sys2Proof.Machine.execLineArrival t tag ix acy before parity err s
  | .tableLoad t acy => Sys2Proof.Machine.execTableLoad t acy s
  | .scaleSet t acy => Sys2Proof.Machine.execScaleSet t acy s
  | .occLoad t acy => Sys2Proof.Machine.execOccLoad t acy s
  | .slotBind t acy => Sys2Proof.Machine.execSlotBind t acy s
  | .slotDispatch t acy => Sys2Proof.Machine.execSlotDispatch t acy s
  | .tileSyncAdd t acy => Sys2Proof.Machine.execTileSyncAdd t acy s
  | .tileSyncSet t acy => Sys2Proof.Machine.execTileSyncSet t acy s
  | .tileSyncClear t acy => Sys2Proof.Machine.execTileSyncClear t acy s
  | .tileSyncWaitGe t acy => Sys2Proof.Machine.execTileSyncWaitGe t acy s
  | .tileSyncWaitSet t acy => Sys2Proof.Machine.execTileSyncWaitSet t acy s
  | .tileSyncWaitClear t acy => Sys2Proof.Machine.execTileSyncWaitClear t acy s
  | .epochPointMark t stream acy => Sys2Proof.Machine.execEpochPointMark t stream acy s
  | .scheduleEnd p => Sys2Proof.Machine.execScheduleEnd p s
  | .contractViolation t stream acy => Sys2Proof.Machine.execContractViolation t stream acy s
  | .hangDetected t stream => Sys2Proof.Machine.execHangDetected t stream s
  | .resumeStep p => Sys2Proof.Machine.execResumeStep p s
  | .dupVerdict site sound => Sys2Proof.Machine.execDupVerdict site sound s
  | .siteMove t => Sys2Proof.Machine.execSiteMove t s
  | .rotSelftestStart q => Sys2Proof.Machine.execRotSelftestStart q s
  | .rotSelftestDone q ok faults => Sys2Proof.Machine.execRotSelftestDone q ok faults s
  | .lullEnd => Sys2Proof.Machine.execLullEnd s
  | .warmResetComplete same => Sys2Proof.Machine.execWarmResetComplete same s
  | .dataPacketSend n => Sys2Proof.Machine.execDataPacketSend n s
  | .dataPacketReceive n flit data next => Sys2Proof.Machine.execDataPacketReceive n flit data next s
  | .idleFlit n body crc => Sys2Proof.Machine.execIdleFlit n body crc s
  | .retry n flit => Sys2Proof.Machine.execRetry n flit s
  | .linkCodewordBad n lanes => Sys2Proof.Machine.execLinkCodewordBad n lanes s
  | .timeFlit n flit frac => Sys2Proof.Machine.execTimeFlit n flit frac s
  | .timeFlitSend n frac => Sys2Proof.Machine.execTimeFlitSend n frac s
  | .trainFlit n flit => Sys2Proof.Machine.execTrainFlit n flit s
  | .linkTrainTimeout n => Sys2Proof.Machine.execLinkTrainTimeout n s
  | .laneDegraded n lane cw => Sys2Proof.Machine.execLaneDegraded n lane cw s
  | .laneSwitch n cw => Sys2Proof.Machine.execLaneSwitch n cw s
  | .syncOp n flit => Sys2Proof.Machine.execSyncOp n flit s
  | .syncUpdate n flit => Sys2Proof.Machine.execSyncUpdate n flit s
  | .groupResult n flit => Sys2Proof.Machine.execGroupResult n flit s
  | .linkAnnounce n flit => Sys2Proof.Machine.execLinkAnnounce n flit s
  | .syncLaunch n flit => Sys2Proof.Machine.execSyncLaunch n flit s
  | .chorusRound => Sys2Proof.Machine.execChorusRound s
  | .slotAnswer slot code all => Sys2Proof.Machine.execSlotAnswer slot code all s
  | .memberSilent slot => Sys2Proof.Machine.execMemberSilent slot s
  | .chorusAllDisagree => Sys2Proof.Machine.execChorusAllDisagree s
  | .roundWord word => Sys2Proof.Machine.execRoundWord word s
  | .annContinue check low => Sys2Proof.Machine.execAnnContinue check low s
  | .annEpoch check low => Sys2Proof.Machine.execAnnEpoch check low s
  | .annReplay check low => Sys2Proof.Machine.execAnnReplay check low s
  | .annAbandon check low => Sys2Proof.Machine.execAnnAbandon check low s
  | .managerLost => Sys2Proof.Machine.execManagerLost s
  | .ctxSaveComplete p => Sys2Proof.Machine.execCtxSaveComplete p s
  | .ctxRestoreComplete p => Sys2Proof.Machine.execCtxRestoreComplete p s
  | .sliceCleanComplete n => Sys2Proof.Machine.execSliceCleanComplete n s
  | .internalError code => Sys2Proof.Machine.execInternalError code s
  | .entropyHealthTestFail => Sys2Proof.Machine.execEntropyHealthTestFail s
  | .linkSignalLost n => Sys2Proof.Machine.execLinkSignalLost n s

end Sys2Proof.Machine
end

