-- ==== Sys2Proof/Machine/Pins.lean ====
section
/-! DEFINITION. What the outputs show in a state (15 R507, R511, R513; 18 R621, R636; 22 R720, R721, R726, R727): functions of
State, which no command stores. -/

namespace Sys2Proof.Machine

/-- The columns of R726. -/
inductive PinColumn where
  | unpowered | perst | tripped | warmReset | outOfService | inService
  deriving DecidableEq, Repr

/-- The leftmost column that applies (R726, R727). -/
def pinColumn (s : State) : PinColumn :=
  if s.boot.hold then .unpowered
  else if s.boot.perst then .perst
  else if s.boot.tripPin then .tripped
  else if warmActive s then .warmReset
  else if s.oos then .outOfService
  else .inService

/-- CROAK: released, low through its pull-down; driven low; at the level of its last edge; or 1 MHz (R720). -/
inductive Croak where
  | released | low | held | toggling
  deriving DecidableEq, Repr

/-- Firmware has started since the last start: the device holds it (17 R577; 20 R679). -/
def fwStarted (s : State) : Bool := !s.hif.fw.isEmpty

/-- CROAK (R720; 19 R664). Out of service the fault state lasts (19 R661). -/
def croak (s : State) : Croak :=
  match pinColumn s with
  | .unpowered => .released
  | .perst => .low
  | .tripped => if fwStarted s then .held else .low
  | _ =>
    if !fwStarted s then .low
    else if s.oos || s.fc.active || rgF s 0x002 0x4C 5 5 == 1 then .held
    else .toggling

/-- The differential transmitters of a port (R725, R726). -/
inductive Transmitter where
  | noDrive | electricalIdle | active
  deriving DecidableEq, Repr

/-- The CXL and the Brekeger transmitters. -/
def transmitters (s : State) : Transmitter :=
  match pinColumn s with
  | .unpowered => .noDrive
  | .perst => .electricalIdle
  | .tripped => .electricalIdle
  | _ => .active

/-- SYNCCLK and CHORUS_Q: released, or driven with IDLE words or with rounds. -/
inductive BusDrive where
  | released | idleWords | rounds
  deriving DecidableEq, Repr

/-- What a manager that runs the bus drives; every other device releases the lines (R507, R716). -/
def busDrive (s : State) : BusDrive :=
  match pinColumn s with
  | .unpowered => .released
  | .perst => .released
  | .inService => if drivesBus s then .rounds else .released
  | _ => if drivesBus s then .idleWords else .released

/-- The code the device drives on CHORUS_A in its own slot; none where it leaves the lines released: a worker that is not locked
answers in no slot (R510, R511). -/
def chorusA (s : State) : Option Nat :=
  match pinColumn s with
  | .unpowered => none
  | .perst => none
  | _ => if role s = 0 ∨ (role s = 1 ∧ rgF s 0x071 0x04C 1 1 = 0) then none else some (ownAnswer s)

/-- CHORUS_ALL is held low (R513). -/
def chorusAllLow (s : State) : Bool :=
  match pinColumn s with
  | .unpowered => false
  | .perst => false
  | .tripped => false
  | _ => holdsAll s

/-- THERMTRIP# is low (18 R621, R721). -/
def tripLow (s : State) : Bool := s.boot.tripPin && !s.boot.hold

/-- SMB_ALERT# is low: the SMBus pins serve from the end of the power-on hold (18 R636, R722). -/
def smbAlertLow (s : State) : Bool := !s.boot.hold && smbAlert s

end Sys2Proof.Machine
end

