-- ==== Sys2Proof/Safety.lean ====
section
/-! DEFINITION. What claims mean by a sound state, a state in ordinary service, and a command or an instruction that the
device takes. -/

namespace Sys2Proof.Machine

/-- Memory is in its canonical form: addresses strictly rising, no entry at what an unlisted address reads as, and the
poisoned lines listed once each, rising. -/
def State.memSound (s : State) : Bool := s.mem.wf

/-- Every map of the state is in its one canonical form, so that equal contents are equal data. -/
def State.canon (s : State) : Bool :=
  s.mem.wf && smWf regReset s.regs && smWf pageReset s.pages && smWf (fun _ => ({} : Blk)) s.blks
    && smWf (fun _ => false) s.ready && smWf (fun _ => ({} : Counter)) s.cnt && smWf (fun _ => ({} : Part)) s.parts
    && smWf (fun _ => ({} : Tile)) s.tiles && smWf (fun _ => ({} : SyncObj)) s.sync && smWf (fun _ => (0 : BitVec 1024)) s.descs
    && smWf (fun _ => ({} : Ctrl)) s.ctrls && smWf (fun _ => ({} : LinkSt)) s.links && smWf (fun _ => ([] : List CLine)) s.cache

/-- Every logical tile is carried by a site of its own quadrant, and no two by one site (01 R12, R13). -/
def State.sitesOk (s : State) : Prop :=
  ∀ t, t < 128 → siteOf s t / 34 = t / 32 ∧ ∀ u, u < 128 → siteOf s u = siteOf s t → u = t

/-- Every line of the stack cache lies in the set of its address, is a whole line of memory, holds 72 bytes, and is there
once (14 R442). -/
def State.cacheOk (s : State) : Prop :=
  ∀ k, (∀ x ∈ getSet s k, setKey x.addr = k ∧ inMem s x.addr = true ∧ isLineAddr x.addr = true ∧
      lineIx x.addr < tierLines s (isS x.addr) ∧ x.data.length = 72) ∧
    ((getSet s k).map (·.addr)).Nodup

/-- In a state in canonical form, a command that only ends work reaches a page that need not be READY: it is served, no command
runs on it, and neither a device out of service nor a warm reset refuses it (02 R47 to R51, 20 R686). -/
def reachesPage (s : State) (p : Nat) : Bool :=
  s.canon && pageServed s p && !cmdBusy s p && !s.oos && !warmActive s

/-- Any command does: the block takes new work (02 R42). -/
def takesUnready (s : State) (p : Nat) : Bool := reachesPage s p && !refusesWork s p

/-- The block takes a command that only ends work on a page, which is READY (17 R584). -/
def takesEnding (s : State) (p : Nat) : Bool := reachesPage s p && getReady s p

/-- The block takes a command on a page, which is READY (17 R584). -/
def takesCommand (s : State) (p : Nat) : Bool := takesUnready s p && getReady s p

/-- The state a command that is taken acts on: the write shows in `BLK_CMD`, and the page's snapshot and held word are
discarded (02 R47, R58). -/
def taken (s : State) (p code : Nat) (arg : Arg) : State :=
  setPage (noteWrite s p) p { getPage (noteWrite s p) p with cmd := BitVec.ofNat 32 (code + 256 * arg.toNat) }

/-- The page and code of every command that the host writes to `BLK_CMD` (02 R47), code 00h aside. -/
def hostCommand : Instr → Option (Nat × Nat)
  | .undefinedCommand page code _ =>
    if code = 0 ∨ (cmdDefined page.toNat).contains code.toNat then none else some (page.toNat, code.toNat)
  | .siteMapApply _ => some (0x004, 0x01)
  | .partSet _ => some (0x001, 0x91)
  | .modeApply _ => some (0x001, 0x90)
  | .descCreate p _ => some (0x28 + p.toNat, 0x10)
  | .descDestroy p _ => some (0x28 + p.toNat, 0x11)
  | .descRead p _ => some (0x28 + p.toNat, 0x12)
  | .imageLoad p _ => some (0x2C + p.toNat, 0x20)
  | .imageUnload p _ => some (0x2C + p.toNat, 0x21)
  | .ctxSave p _ => some (0x2C + p.toNat, 0x22)
  | .ctxRestore p _ => some (0x2C + p.toNat, 0x23)
  | .allocCreate p _ => some (0x24 + p.toNat, 0x30)
  | .allocRelease p _ => some (0x24 + p.toNat, 0x31)
  | .allocQuery p _ => some (0x24 + p.toNat, 0x32)
  | .remapAdd k _ => some (0x40 + k.toNat, 0x40)
  | .remapRead k _ => some (0x40 + k.toNat, 0x41)
  | .sliceClean n _ => some (0x30 + n.toNat, 0x50)
  | .linkTrain n _ => some (0x50 + n.toNat, 0x60)
  | .linkDisable n _ => some (0x50 + n.toNat, 0x61)
  | .timeAlign _ => some (0x070, 0x68)
  | .chorusStart _ => some (0x071, 0x70)
  | .chorusStop _ => some (0x071, 0x71)
  | .chorusAbort _ => some (0x071, 0x73)
  | .hostSyncAdd _ => some (0x072, 0x72)
  | .hostSyncSet _ => some (0x072, 0x72)
  | .hostSyncClear _ => some (0x072, 0x72)
  | .hostSyncWaitGe _ => some (0x072, 0x72)
  | .hostSyncWaitSet _ => some (0x072, 0x72)
  | .hostSyncWaitClear _ => some (0x072, 0x72)
  | .fetchAdd _ => some (0x072, 0x72)
  | .acquire _ => some (0x072, 0x72)
  | .hostSyncWrite _ => some (0x072, 0x72)
  | .hostSyncRead _ => some (0x072, 0x72)
  | .cqReset _ => some (0x021, 0x80)
  | .nbArm _ => some (0x022, 0x84)
  | .nbDisarm _ => some (0x022, 0x85)
  | .warmReset _ => some (0x002, 0x98)
  | .partReset _ => some (0x002, 0x99)
  | .keyEnable _ => some (0x011, 0xA0)
  | .keyDisable _ => some (0x011, 0xA1)
  | .keyLock _ => some (0x011, 0xA2)
  | _ => none

/-- Entry `e` is the next of a tile's stream, is no mark, carries an opcode, and can issue at an acycle of its segment, its unit
accepting it from the acycle `from_` of the launch on (11 R345 to R350). -/
def mayIssueFrom (s : State) (t stream acy : Nat) (e : BitVec 128) (opcode : Nat) (from_ : Option Nat) : Bool :=
  front s t stream == some e && !eMark e && eOpcode e == opcode && canIssue s t stream (absAcy s t acy) e true from_

/-- The same of an instruction whose unit always accepts. -/
def mayIssue (s : State) (t stream acy : Nat) (e : BitVec 128) (opcode : Nat) : Bool := mayIssueFrom s t stream acy e opcode (some 0)

/-- The state an instruction that issues acts on: it has left its stream, and the results due have reached their
registers (11 R346, R350, R351). -/
def issued (s : State) (t stream acy : Nat) (e : BitVec 128) : State :=
  updTile (issueEntry s t stream (absAcy s t acy) e) t (landDue (absAcy s t acy))

/-- A state with the Skink copies of the site that shadows a tile, where the launch that the tile runs samples (19 R644). -/
def withTwin (s : State) (t : Nat) (y : SkinkTwin) : State :=
  if samples s t then updTile s t (fun x => { x with twin := y }) else s

/-- The commands through which a byte of memory can change as a reader sees it: they write a line, meet a bad codeword, or
end the contents of a range or of all of memory. -/
def reachesMemory : Instr → Bool
  | .hostMemRead .. | .hostMemWrite .. | .copyEntry .. | .fetchEntry .. | .copyEntryComplete .. | .lineRead .. | .lineWrite ..
  | .scrubLine .. | .remapCopyDone .. | .scheduleFetch .. | .moveIn .. | .lineArrival .. | .moveOut .. | .linkSend .. | .dataPacketReceive .. | .allocCreate ..
  | .allocZeroComplete .. | .allocRelease .. | .descCreate .. | .imageLoadComplete .. | .ctxSave .. | .ctxRestore .. | .ctxSaveComplete ..
  | .ctxRestoreComplete .. | .sliceCleanComplete .. | .powerDomainOff .. | .selftestEnd .. | .blockReady .. | .thermtrip ..
  | .pllUnlock .. | .warmResetComplete .. | .powerOnHoldEnd .. | .perstAssert .. | .perstDeassert .. | .supplyExcursion .. => true
  | _ => false

end Sys2Proof.Machine
end

