-- ==== Sys2Proof/Certificates/Slice0/Obligations.lean ====
section
/-! DEFINITION. Statements about the model, from the spec's numbered rules. Where a next state is given by the model's own
operations (`postResult`, `setRg`, `count1`, `raise`, ...), the laws of those operations are statements of their own here. -/

open Sys2Proof Sys2Proof.Machine

/-! The machine as a whole. -/

/-- With a command at the front of the queue, a step is that command's effect on the state with the queue's rest. -/
def Obligations.StepRunsFront : Prop :=
  ∀ (s : State) (c : Instr) (cs : List Instr), s.pending = c :: cs → step s = exec c { s with pending := cs }

/-- With no command waiting one tick passes (the model's choice, log 1): out of reset the global counter goes up by one, and
no byte of memory changes (15 R499). -/
def Obligations.IdleStepIsATick : Prop :=
  ∀ s : State, s.pending = [] → s.boot.hold = false → s.boot.perst = false →
    ∃ t, step s = .next t ∧ t.gcnt = s.gcnt + 1 ∧ t.pending = [] ∧ ∀ a, peekByte t a = peekByte s a

/-- 17 R581: no step writes the identity flash. -/
def Obligations.FlashNeverWritten : Prop := ∀ s t : State, step s = .next t → t.flash = s.flash

/-- A command leaves the queue of waiting commands as it is. -/
def Obligations.CommandsLeaveTheQueue : Prop := ∀ (c : Instr) (s t : State), exec c s = .next t → t.pending = s.pending

/-- Every command completes with a next state, but for a host memory access outside its tier (16 R550), which is the one
fault. -/
def Obligations.EveryCommandCompletes : Prop :=
  ∀ (c : Instr) (s : State), (∃ t, exec c s = .next t) ∨
    (exec c s = .fault .noSuchAddress ∧
      ((∃ d o h e f, c = .hostMemRead d o h e f ∧ hdmInside s d o.toNat = false) ∨
       (∃ d o w b h, c = .hostMemWrite d o w b h ∧ hdmInside s d o.toNat = false)))

/-- Every step keeps every map of the state, memory and its poisoned lines among them, in its one canonical form. -/
def Obligations.CanonicalFormKept : Prop := ∀ s t : State, s.canon = true → step s = .next t → t.canon = true

/-- The state after reset is in canonical form, with an empty queue and the counter at 0. -/
def Obligations.CanonicalFormAtReset : Prop :=
  State.reset.canon = true ∧ State.reset.pending = [] ∧ State.reset.gcnt = 0

/-- 01 R13: whatever happens, a logical tile stays on a site of its own quadrant, and no two share a site. -/
def Obligations.TilesKeepTheirQuadrant : Prop := ∀ s t : State, s.sitesOk → step s = .next t → t.sitesOk

/-- Values at reset that the spec gives: a header page's `BLK_CMD_RESULT` shows DONE (R47), `BLK_CONTROL` reads 9 (R42),
every counter is 0 (R74), the role is STANDALONE (R537) and the partition count 1 (R25); every event that a page defines is
enabled (R60); logical tile t is at site 34⌊t/32⌋ + t mod 32, so that the free sites are the last two of each quadrant (R12). -/
def Obligations.ResetValues : Prop :=
  (∀ p, p < 0x188 → hasHeader p = true →
    (getPage State.reset p).result = 0x100 ∧ readReg State.reset p 0x0C = 9 ∧ (∀ i, getCnt State.reset p i = {}) ∧
    (∀ e, e < 16 → (getPage State.reset p).enable.getLsbD e = evDefined p e)) ∧
  role State.reset = 0 ∧ nParts State.reset = 1 ∧
  State.reset.sitesOk ∧ (∀ t, t < 128 → siteOf State.reset t = 34 * (t / 32) + t % 32) ∧
  (List.range 4).flatMap (freeSites State.reset) = [32, 33, 66, 67, 100, 101, 134, 135]

/-- A command whose effect does not reach memory leaves every byte of memory as it is, read through the stack cache. -/
def Obligations.MemoryFrame : Prop :=
  ∀ (c : Instr) (s t : State), reachesMemory c = false → exec c s = .next t → ∀ a, peekByte t a = peekByte s a

/-! The gate of `BLK_CMD`. -/

/-- 02 R48: code 00h does nothing and returns OK on every served page; an undefined code returns UNSUPPORTED. -/
def Obligations.NopAndUndefinedCodes : Prop :=
  (∀ (page : PageIx) (arg : Arg) (s : State), s.canon = true → pageServed s page.toNat = true →
    cmdBusy s page.toNat = false → exec (.nop page arg) s = .next (postResult (taken s page.toNat 0 arg) page.toNat 0 0)) ∧
  (∀ (page : PageIx) (code : Byte) (arg : Arg) (s : State), takesCommand s page.toNat = true → code ≠ 0 →
    code.toNat ∉ cmdDefined page.toNat →
    exec (.undefinedCommand page code arg) s = .next (postResult (taken s page.toNat code.toNat arg) page.toNat 9 code.toNat))

/-- 02 R49: a command written while the page's DONE is 0 is ignored, and the running command's result stands. -/
def Obligations.BusyPageIgnoresCommands : Prop :=
  ∀ (c : Instr) (s : State) (p code : Nat), s.canon = true → hostCommand c = some (p, code) → pageServed s p = true →
    isDone s p = false →
    exec c s = .next (noteWrite s p) ∧ (getPage (noteWrite s p) p).result = (getPage s p).result

/-- 02 R51: out of service every command but code 00h returns OUT_OF_SERVICE, with its code echoed. -/
def Obligations.OutOfServiceRefusesCommands : Prop :=
  ∀ (c : Instr) (s : State) (p code : Nat), s.canon = true → hostCommand c = some (p, code) → pageServed s p = true →
    cmdBusy s p = false → s.oos = true → ∃ t, exec c s = .next t ∧ (getPage t p).result = BitVec.ofNat 32 (8 + 256 + 65536 * code)

/-! The operations that the statements below name. -/

/-- What a posted result is (02 R47): CODE, DONE and CMD_ECHO of its own page, and nothing else of the state. -/
def Obligations.PostedResult : Prop :=
  ∀ (s : State) (p code echo : Nat), s.canon = true → code < 256 → echo < 256 →
    fld (getPage (postResult s p code echo) p).result 7 0 = code ∧ isDone (postResult s p code echo) p = true ∧
    echoOf (postResult s p code echo) p = echo ∧
    getPage (postResult s p code echo) p = { getPage s p with result := (getPage (postResult s p code echo) p).result } ∧
    (∀ q, q ≠ p → getPage (postResult s p code echo) q = getPage s q) ∧
    postResult s p code echo = { s with pages := (postResult s p code echo).pages }

/-- A register written reads back, and no other register, and nothing else, changes; a field written reads back, and the
bits outside it keep their values. -/
def Obligations.RegistersHoldWrites : Prop :=
  (∀ (s : State) (p o : Nat) (v : Word), s.canon = true →
    rg (setRg s p o v) p o = v ∧ (∀ k, k ≠ p * 4096 + o → smGet regReset (setRg s p o v).regs k = smGet regReset s.regs k) ∧
    setRg s p o v = { s with regs := (setRg s p o v).regs }) ∧
  (∀ (s : State) (p o hi lo v : Nat), s.canon = true → lo ≤ hi → hi < 32 → v < 2 ^ (hi + 1 - lo) →
    rgF (setRgF s p o hi lo v) p o hi lo = v ∧
    ∀ i, i < 32 → (i < lo ∨ hi < i) → (rg (setRgF s p o hi lo v) p o).getLsbD i = (rg s p o).getLsbD i)

/-- Counters (02 R70 to R73): a count below the maximum adds and changes nothing else; a saturated counter stays. A counter
that reaches its maximum stays there with SAT, and `COUNTER_SATURATED` is raised on its page. -/
def Obligations.CountersCount : Prop :=
  (∀ (s : State) (p i n : Nat), s.canon = true → (getCnt s p i).sat = false → (getCnt s p i).value.toNat + n < 2 ^ 48 - 1 →
    (getCnt (countBy s p i n) p i).value.toNat = (getCnt s p i).value.toNat + n ∧
    (getCnt (countBy s p i n) p i).sat = false ∧ countBy s p i n = { s with cnt := (countBy s p i n).cnt } ∧
    ∀ k, k ≠ p * 256 + i → smGet (fun _ => ({} : Counter)) (countBy s p i n).cnt k = smGet (fun _ => {}) s.cnt k) ∧
  (∀ (s : State) (p i n : Nat), s.canon = true → (getCnt s p i).sat = true → getCnt (countBy s p i n) p i = getCnt s p i) ∧
  (∀ (s : State) (p i n : Nat), (getCnt s p i).sat = false → 0 < n → 2 ^ 48 - 1 ≤ (getCnt s p i).value.toNat + n →
    ∃ u v, countBy s p i n = raiseWith (countN 3) u p 15 v (ownersOf u p 15 v) ∧
      u.cnt = (setCnt s p i { value := BitVec.ofNat 48 (2 ^ 48 - 1), sat := true }).cnt)

/-- Events (02 R61, R66, R67, and R62's silence): an event sets its sticky bit, whether or not it is enabled; the first to become
sticky, and of those of one fcycle the lowest, is recorded with its index, the count and its detail; one already sticky, or
disabled, is not reported and changes nothing but its page. -/
def Obligations.EventsLatch : Prop :=
  ∀ (s : State) (p e info : Nat), s.canon = true → e < 16 →
    (∀ owners, (getPage s p).sticky.getLsbD e = true ∨ (getPage s p).enable.getLsbD e = false →
      raiseOwned s p e info owners = latch s p e info) ∧
    (getPage (latch s p e info) p).sticky.getLsbD e = true ∧
    (∀ f, f ≠ e → (getPage (latch s p e info) p).sticky.getLsbD f = (getPage s p).sticky.getLsbD f) ∧
    (((getPage s p).sticky = 0 ∨ ((getPage s p).sticky.getLsbD e = false ∧ (getPage s p).errAt = s.fcyc ∧
        e < fld (getPage s p).errFirst 3 0)) → fld (getPage (latch s p e info) p).errFirst 3 0 = e ∧
      fld (getPage (latch s p e info) p).errFirst 7 4 = 0 ∧
      fld (getPage (latch s p e info) p).errFirst 31 31 = 1 ∧
      fld (getPage (latch s p e info) p).errFirst 30 8 = now s % 2 ^ 23 ∧
      (getPage (latch s p e info) p).errInfo = BitVec.ofNat 32 info) ∧
    ((getPage s p).sticky ≠ 0 → ((getPage s p).sticky.getLsbD e = true ∨ (getPage s p).errAt ≠ s.fcyc ∨
        fld (getPage s p).errFirst 3 0 ≤ e) → (getPage (latch s p e info) p).errFirst = (getPage s p).errFirst ∧
      (getPage (latch s p e info) p).errInfo = (getPage s p).errInfo) ∧
    latch s p e info = { s with pages := (latch s p e info).pages }

/-- What a partition reset clears (01 R29, 20 R684) and what it leaves: the partition has no image, launch or live
descriptor; the other partitions' tiles, descriptors and runs, every byte of memory and the allocations' places stay. -/
def Obligations.PartitionResetClears : Prop :=
  ∀ (s : State) (p : Nat), s.canon = true → p < nParts s →
    (getPart (partitionReset s p) p).img = none ∧ (getPart (partitionReset s p) p).run = none ∧
    (getPart (partitionReset s p) p).armed = none ∧ (∀ n, n < 2 ^ 20 → getDesc (partitionReset s p) p n = none) ∧
    (∀ q, q ≠ p → (getPart (partitionReset s p) q).run = (getPart s q).run ∧
      (getPart (partitionReset s p) q).img = (getPart s q).img ∧
      ∀ n, n < 2 ^ 20 → getDesc (partitionReset s p) q n = getDesc s q n) ∧
    (∀ t, t < 128 → partOf s t ≠ p → getTile (partitionReset s p) t = getTile s t) ∧
    (∀ t, t < 128 → partOf s t = p → (getTile (partitionReset s p) t).store = (getTile s t).store ∧
      (getTile (partitionReset s p) t).streams = [{}, {}, {}, {}, {}]) ∧
    (∀ a, peekByte (partitionReset s p) a = peekByte s a)

/-- Memory reads back what was written (14 R443, R463, R465): after a device write of a line, under any hint, the line reads
as the bytes written and is not poisoned, and every byte of every other line reads as before. -/
def Obligations.MemoryHoldsWrites : Prop :=
  ∀ (s : State) (a hint part : Nat) (d : List Byte), s.canon = true → s.cacheOk → isLine s a = true → d.length = 72 →
    (∀ i, i < 72 → peekByte (writeLine s a d hint part) (a + i) = d.getD i 0) ∧
    isPoison (writeLine s a d hint part).mem a = false ∧
    (∀ b, lineAddr b ≠ a → peekByte (writeLine s a d hint part) b = peekByte s b)

/-- The lines of the stack cache stay where they belong under the accesses that name lines. -/
def Obligations.CacheLinesStayInTheirSets : Prop :=
  State.reset.cacheOk ∧
  ∀ (s t : State), s.canon = true → s.cacheOk →
    (∀ line hint part err, exec (.lineRead line hint part err) s = .next t → t.cacheOk) ∧
    (∀ line hint part data par, exec (.lineWrite line hint part data par) s = .next t → t.cacheOk) ∧
    (∀ d o h e f, exec (.hostMemRead d o h e f) s = .next t → t.cacheOk) ∧
    (∀ d o w b h, exec (.hostMemWrite d o w b h) s = .next t → t.cacheOk)

/-! What the commands of the host do when nothing refuses them. Each statement gives the next state: `taken` (what the write
of the command itself leaves) with the command's own effect and its posted result. -/

/-- SITE_MAP_APPLY (01 R16, and R17's BUSY): a staged map that names a site of its own quadrant for every logical tile, no site
twice and none marked retired returns OK, and every logical tile is at its staged site; any other returns GEOMETRY_MISMATCH,
one staged beside a loaded image BUSY, and the map in force stays. -/
def Obligations.SiteMapApplied : Prop :=
  ∀ (s : State) (arg : Arg) (good : Prop), takesCommand s 0x004 = true →
    (good ↔ ∀ t, t < 128 → stagedSite s t / 34 = t / 32 ∧ stagedRetired s (stagedSite s t) = false ∧
      ∀ v, v < 128 → stagedSite s v = stagedSite s t → v = t) →
    (anyImage s = false → good →
      ∃ u, exec (.siteMapApply arg) s = .next u ∧ u = postResult (reloadMap (applyMap (taken s 0x004 0x01 arg))) 0x004 rOK 0x01 ∧
        ∀ t, t < 128 → siteOf u t = stagedSite s t) ∧
    (anyImage s = false → ¬good →
      ∃ u, exec (.siteMapApply arg) s = .next u ∧ u = postResult (reloadMap (taken s 0x004 0x01 arg)) 0x004 rGEOM 0x01 ∧
        u.map = s.map) ∧
    (anyImage s = true →
      ∃ u, exec (.siteMapApply arg) s = .next u ∧ u = postResult (reloadMap (taken s 0x004 0x01 arg)) 0x004 rBUSY 0x01 ∧
        u.map = s.map)

/-- PART_SET and PART_RESET (01 R25; 20 R684): with no image and no allocation, the count is set, every descriptor table
cleared and every seed 0, and else the first condition of R25's table that holds is the result; a reset of an existing partition acts and is counted, and other numbers are refused. -/
def Obligations.PartitionCommands : Prop :=
  (∀ (s : State) (arg : Arg), takesCommand s 0x001 = true → arg.toNat < 3 → anyImage s = false → s.allocs = [] →
    (arg = 0 ∨ role s = 0) →
    ∃ u, exec (.partSet arg) s = .next u ∧ nParts u = 2 ^ arg.toNat ∧
      (∀ p, p < 4 → (getPart u p).seed = 0 ∧ (getPart u p).heldSeed = none) ∧
      (∀ k, k ≠ 0x001 * 4096 + 0x060 → smGet regReset u.regs k = smGet regReset s.regs k) ∧
      u = postResult { taken s 0x001 0x91 arg with descs := [], parts := u.parts, regs := u.regs } 0x001 rOK 0x91) ∧
  (∀ (s u : State) (arg : Arg), takesCommand s 0x001 = true → u = taken s 0x001 0x91 arg →
    (3 ≤ arg.toNat → exec (.partSet arg) s = .next (postResult u 0x001 rUNSUP 0x91)) ∧
    (arg.toNat < 3 → (anyImage s = true ∨ s.allocs ≠ []) → exec (.partSet arg) s = .next (postResult u 0x001 rBUSY 0x91)) ∧
    (arg.toNat < 3 → anyImage s = false → s.allocs = [] → arg ≠ 0 → role s ≠ 0 →
      exec (.partSet arg) s = .next (postResult u 0x001 rGEOM 0x91))) ∧
  (∀ (s : State) (arg : Arg), takesEnding s 0x002 = true →
    (arg.toNat < nParts s →
      exec (.partReset arg) s =
        .next (postResult (count1 (partitionReset (taken s 0x002 0x99 arg) arg.toNat) 0x002 2) 0x002 rOK 0x99)) ∧
    (nParts s ≤ arg.toNat → arg.toNat < 4 →
      exec (.partReset arg) s = .next (postResult (taken s 0x002 0x99 arg) 0x002 rGEOM 0x99)) ∧
    (4 ≤ arg.toNat → exec (.partReset arg) s = .next (postResult (taken s 0x002 0x99 arg) 0x002 rUNSUP 0x99)))

/-- DESC_CREATE, DESC_DESTROY, DESC_READ (06 R197 to R203): a record that passes becomes live under its number; a
descriptor that nothing holds ends; a live one is copied into the staging registers. Every other descriptor stays. -/
def Obligations.DescriptorCommands : Prop :=
  ∀ (s : State) (p : PartIx) (arg : Arg), takesCommand s (dpage p.toNat) = true → arg.toNat < 2 ^ 20 → p.toNat < nParts s →
    ((hasImage s p.toNat && (getDesc s p.toNat arg.toNat).isSome) = false →
      validate (getDesc s p.toNat) (getAlloc s p.toNat) (descStage s p.toNat) = none →
      ∃ u, exec (.descCreate p arg) s = .next u ∧ getDesc u p.toNat arg.toNat = some (descStage s p.toNat) ∧
        rg u (dpage p.toNat) 0xC4 = 0 ∧
        (∀ q n, n < 2 ^ 20 → (q, n) ≠ (p.toNat, arg.toNat) → getDesc u q n = getDesc s q n) ∧
        u = postResult { taken s (dpage p.toNat) 0x10 arg with descs := u.descs, regs := u.regs, mem := u.mem, cache := u.cache }
          (dpage p.toNat) rOK 0x10) ∧
    (hasImage s p.toNat = false → isIndexOf s p.toNat arg.toNat = false → copyNames s p.toNat arg.toNat = false →
      ∃ u, exec (.descDestroy p arg) s = .next u ∧ getDesc u p.toNat arg.toNat = none ∧
        (∀ q n, n < 2 ^ 20 → (q, n) ≠ (p.toNat, arg.toNat) → getDesc u q n = getDesc s q n) ∧
        u = postResult { taken s (dpage p.toNat) 0x11 arg with descs := u.descs } (dpage p.toNat) rOK 0x11) ∧
    (∀ d, getDesc s p.toNat arg.toNat = some d →
      ∃ u, exec (.descRead p arg) s = .next u ∧ descStage u p.toNat = d ∧
        u = postResult { taken s (dpage p.toNat) 0x12 arg with regs := u.regs } (dpage p.toNat) rOK 0x12)

/-- IMAGE_LOAD, IMAGE_LOAD_COMPLETE, IMAGE_UNLOAD (12 R387, R388, R390): a load that can begin seals the named allocation
and runs with STATE 01b; its completion loads an image whose stages all pass, and else refuses it with the first failing
stage's result; an unload that nothing holds empties the partition's image state. -/
def Obligations.ImageCommands : Prop :=
  (∀ (s : State) (p : PartIx), takesCommand s (imgPage p.toNat) = true → p.toNat < nParts s →
    (hasImage s p.toNat = false → partReady s p.toNat = true →
      ∃ u, exec (.imageLoad p 0#24) s = .next u ∧ hasImage u p.toNat = true ∧ isDone u (imgPage p.toNat) = false ∧
        rgF u (imgPage p.toNat) 0x44 1 0 = 1 ∧ u.allocs = (sealAlloc s p.toNat (rg s (imgPage p.toNat) 0x40).toNat true).allocs ∧
        u = { taken s (imgPage p.toNat) 0x20 0#24 with allocs := u.allocs, parts := u.parts, regs := u.regs, pages := u.pages }) ∧
    (isRunning s p.toNat = false → (getPart s p.toNat).armed = none →
      ∃ u, exec (.imageUnload p 0#24) s = .next u ∧ hasImage u p.toNat = false ∧
        u = postResult (dropImage (taken s (imgPage p.toNat) 0x21 0#24) p.toNat) (imgPage p.toNat) rOK 0x21)) ∧
  (∀ (s : State) (p : PartIx) (i0 : Img) (a : Alloc), (getPart s p.toNat).img = some i0 → i0.loading = true →
    cmdRuns s (imgPage p.toNat) 0x20 = true → getAlloc s p.toNat i0.handle = some a →
    exec (.imageLoadComplete p) s = .next
      (match imgCheck s p.toNat (readHeader s a.base) a.size (imgMade s i0.handle (readHeader s a.base)) with
       | none => acceptLoad s p.toNat (readHeader s a.base) (imgMade s i0.handle (readHeader s a.base))
       | some (stage, item, code) => refuseLoad s p.toNat i0.handle stage item code))

/-- CTX_SAVE, CTX_RESTORE and their completions (12 R397 to R402): a save into a large enough allocation writes the context and
its SHA-256 digest from the allocation's base, and a restore that passes every stage has the partition take the saved context,
both at the command's start (the model's choice, log 40); one that fails gives the failing stage's result. A completion is
counted and gives OK. -/
def Obligations.ContextCommands : Prop :=
  ∀ (s u : State) (p : PartIx) (a : Alloc) (h : Nat),
    (takesCommand s (imgPage p.toNat) = true → p.toNat < nParts s → u = taken s (imgPage p.toNat) 0x22 0#24 →
      launchBusy u p.toNat = false → imgReady u p.toNat = true → getAlloc u p.toNat (ctxHandle u p.toNat) = some a →
      ctxSize u p.toNat ≤ a.size →
      exec (.ctxSave p 0#24) s = .next (postRunning (updPart
        (pokeLong u a.base (ctxBytes u p.toNat ++ sha256 (ctxBytes u p.toNat))) p.toNat
        (fun x => { x with saving := some (ctxHandle u p.toNat) })) (imgPage p.toNat) 0x22)) ∧
    (takesCommand s (imgPage p.toNat) = true → p.toNat < nParts s → u = taken s (imgPage p.toNat) 0x23 0#24 →
      launchBusy u p.toNat = false → imgReady u p.toNat = true →
      (∀ stage item code, ctxCheck u p.toNat = some (stage, item, code) →
        exec (.ctxRestore p 0#24) s = .next (postResult (imgFail u p.toNat stage item) (imgPage p.toNat) code 0x23)) ∧
      (ctxCheck u p.toNat = none → getAlloc u p.toNat (ctxHandle u p.toNat) = some a →
        exec (.ctxRestore p 0#24) s = .next (postRunning (updPart (ctxApply u p.toNat (readCtx u a.base)) p.toNat
          (fun x => { x with restoring := some (ctxHandle u p.toNat) })) (imgPage p.toNat) 0x23))) ∧
    (u = updPart s p.toNat (fun x => { x with saving := none }) → (getPart s p.toNat).saving = some h →
      exec (.ctxSaveComplete p) s = .next (postDone (count1 u (imgPage p.toNat) 3) (imgPage p.toNat) rOK 0x22)) ∧
    (u = updPart s p.toNat (fun x => { x with restoring := none }) → (getPart s p.toNat).restoring = some h →
      exec (.ctxRestoreComplete p) s = .next (postDone (count1 u (imgPage p.toNat) 4) (imgPage p.toNat) rOK 0x23))

/-- ALLOC_CREATE, ALLOC_ZERO_COMPLETE, ALLOC_RELEASE, ALLOC_QUERY (14 R432 to R435): a request that passes every check adds
the allocation; with ZERO the command runs until every line of the range reads 00h; a release that nothing holds removes it; a query gives
its tier, base and size. -/
def Obligations.AllocationCommands : Prop :=
  ∀ (s : State) (p : PartIx),
    (takesCommand s (apage p.toNat) = true →
      (tierReady s (allocTierS s p.toNat) = true → allocCheck s p.toNat = none →
        ∃ u, exec (.allocCreate p 0#24) s = .next u ∧
          u.allocs = s.allocs ++ [allocAsked s p.toNat] ∧
          rg u (apage p.toNat) 0x5C = 0 ∧
          isDone u (apage p.toNat) = !(rg s (apage p.toNat) 0x44).getLsbD 1 ∧
          u = { taken s (apage p.toNat) 0x30 0#24 with allocs := u.allocs, parts := u.parts, regs := u.regs, pages := u.pages, mem := u.mem, cache := u.cache, free := u.free }) ∧
      (∀ a, getAlloc s p.toNat (allocHandle s p.toNat) = some a → a.sealed = false → allocNamed s p.toNat a.handle = false →
        ∃ u, exec (.allocRelease p 0#24) s = .next u ∧ getAlloc u p.toNat a.handle = none ∧
          (∀ q h, (q, h) ≠ (p.toNat, a.handle) → getAlloc u q h = getAlloc s q h) ∧
          (getPage u (apage p.toNat)).result = 0x310100) ∧
      (∀ a, getAlloc s p.toNat (allocHandle s p.toNat) = some a → a.base < 2 ^ 64 → a.size < 2 ^ 64 →
        ∃ u, exec (.allocQuery p 0#24) s = .next u ∧ rg64 u (apage p.toNat) 0x48 = a.base ∧ rg64 u (apage p.toNat) 0x50 = a.size ∧
          rgF u (apage p.toNat) 0x44 0 0 = a.tierS.toNat ∧
          u = postResult { taken s (apage p.toNat) 0x32 0#24 with regs := u.regs } (apage p.toNat) rOK 0x32)) ∧
    (∀ h a, s.canon = true → (getPart s p.toNat).zeroing = some h → getAlloc s p.toNat h = some a →
      ∃ u, exec (.allocZeroComplete p) s = .next u ∧ (getPart u p.toNat).zeroing = none ∧
        (∀ b, a.base ≤ b → b < a.base + a.size → peekByte u b = 0) ∧
        (∀ b, rangesMeet (lineAddr b) 72 a.base (72 * ceilDiv a.size 72) = false → peekByte u b = peekByte s b) ∧
        (getPage u (apage p.toNat)).result = 0x300100)

/-- REMAP_ADD, REMAP_READ, REMAP_COPY_DONE (14 R454, R459, R460): a record that passes joins the controller's field records;
record k of those it holds is copied into the stage; a finished row copy is over, and each codeword of the row has been read,
corrected or poisoned, and written. -/
def Obligations.RemapCommands : Prop :=
  ∀ (s u : State) (k : CtrlIx) (arg : Arg) (r : DWord) (channel : BitVec 6) (row : BitVec 24),
    (takesCommand s (0x40 + k.toNat) = true → u = taken s (0x40 + k.toNat) 0x40 0#24 → r.toNat = rg64 u (0x40 + k.toNat) 0x60 →
      remapCheck u k.toNat r = none →
      exec (.remapAdd k 0#24) s = .next (postResult
        (setCtrl u k.toNat { getCtrl u k.toNat with field := (getCtrl u k.toNat).field ++ [r] }) (0x40 + k.toNat) rOK 0x40)) ∧
    (takesCommand s (0x40 + k.toNat) = true → arg.toNat < 65536 → (remaps (getCtrl s k.toNat))[arg.toNat]? = some r →
      ∃ v, exec (.remapRead k arg) s = .next v ∧ rg64 v (0x40 + k.toNat) 0x60 = r.toNat ∧
        v = postResult { taken s (0x40 + k.toNat) 0x41 arg with regs := v.regs } (0x40 + k.toNat) rOK 0x41) ∧
    ((getCtrl s k.toNat).copies.contains (channel.toNat * 2 ^ 24 + row.toNat) = true → ∀ errs,
      u = setCtrl s k.toNat { getCtrl s k.toNat with
        copies := (getCtrl s k.toNat).copies.filter (· ≠ channel.toNat * 2 ^ 24 + row.toNat) } →
      exec (.remapCopyDone k channel row errs) s = .next (((List.range 32).filter (fun j => decide
          (lineIx (rowLine k.toNat channel.toNat row.toNat j) < tierLines s (decide (8 ≤ k.toNat))))).foldl
        (fun s j => copyCodeword s (rowLine k.toNat channel.toNat row.toNat j)
          (((errs.find? (fun e => e.1.toNat == j)).map (·.2)).getD [])) u))

/-- SLICE_CLEAN, SLICE_CLEAN_COMPLETE, SCRUB_LINE, STACK_TEMPERATURE_REPORT (14 R441, R448, R450): a clean begins and, complete,
leaves the slice the lines it held and none of them dirty; the scrubber visits its next line, unless it is poisoned, counts it,
and begins again after its last, which counts the pass; a report sets the controller's temperature, its refresh code or its throttling,
and its two events. -/
def Obligations.ControllerSteps : Prop :=
  ∀ (s u v : State),
    (∀ (n : BitVec 4) (arg : Arg), takesCommand s (0x30 + n.toNat) = true → u = taken s (0x30 + n.toNat) 0x50 arg →
      v = setBlk (postRunning u (0x30 + n.toNat) 0x50) (0x30 + n.toNat) { getBlk u (0x30 + n.toNat) with cleaning := true } →
      exec (.sliceClean n arg) s = .next v ∧ isDone v (0x30 + n.toNat) = false ∧ ∃ w, exec (.sliceCleanComplete n) v = .next w ∧
        isDone w (0x30 + n.toNat) = true) ∧
    (∀ (n : BitVec 4), (getBlk s (0x30 + n.toNat)).cleaning = true → u = cleanSlice s n.toNat →
      exec (.sliceCleanComplete n) s = .next (postDone
        (setBlk u (0x30 + n.toNat) { getBlk s (0x30 + n.toNat) with cleaning := false }) (0x30 + n.toNat) rOK 0x50) ∧
      (∀ l ∈ sliceLines u n.toNat, l.dirty = false) ∧
      (sliceLines u n.toNat).map (fun l => (l.addr, l.data)) = (sliceLines s n.toNat).map (fun l => (l.addr, l.data))) ∧
    (∀ (k : CtrlIx) err a, a = scrubAddr k.toNat (getCtrl s k.toNat).scrub →
      (isPoison s.mem a = true → v = s) → (isPoison s.mem a = false → v = count1 (memRead s a 1 err).2 (0x40 + k.toNat) 9) →
      (8 * ((getCtrl s k.toNat).scrub + 1) + k.toNat % 8 < tierLines s (decide (8 ≤ k.toNat)) →
        exec (.scrubLine k err) s = .next (setCtrl v k.toNat { getCtrl v k.toNat with scrub := (getCtrl s k.toNat).scrub + 1 })) ∧
      (tierLines s (decide (8 ≤ k.toNat)) ≤ 8 * ((getCtrl s k.toNat).scrub + 1) + k.toNat % 8 →
        exec (.scrubLine k err) s =
          .next (count1 (setCtrl v k.toNat { getCtrl v k.toNat with scrub := 0 }) (0x40 + k.toNat) 0xA))) ∧
    (∀ (tierS : Bool) (stack : BitVec 3) (k : Nat) (temp : Byte) (refresh : Nat) (throttled crit : Bool),
      k = (if tierS then 8 else 0) + stack →
      (crit = true ↔ 105 ≤ temp.toNat ∨ ((getCtrl s k).crit = true ∧ 102 ≤ temp.toNat)) →
      (k < 8 → throttled = false ∧
        refresh = if 85 < temp.toNat ∨ ((getCtrl s k).refresh ≠ 0 ∧ 82 ≤ temp.toNat) then 1 else 0) →
      (8 ≤ k → s.flash.part ≠ 0 → throttled = false ∧
        refresh = if 95 < temp.toNat ∨ ((getCtrl s k).refresh = 2 ∧ 92 ≤ temp.toNat) then 2
          else if 85 < temp.toNat ∨ ((getCtrl s k).refresh ≠ 0 ∧ 82 ≤ temp.toNat) then 1 else 0) →
      (8 ≤ k → s.flash.part = 0 → refresh = 0 ∧
        (throttled = true ↔ rgF s (0x40 + k) 0x40 31 24 < temp.toNat)) →
      exec (.stackTemperatureReport tierS stack temp) s = .next (raiseLevel (raiseLevel
        (setCtrl s k { getCtrl s k with temp := temp.toNat, refresh := refresh, throttled := throttled, crit := crit })
        (0x40 + k) 6 (refresh != 0 || throttled)) (0x40 + k) 7 crit))

/-! The Brekeger links (15 R472 to R505). -/

/-- Control flits (15 R474 to R478, R488, R502): one that is verified delivers its CREDIT and ACK; one that fails its CRC counts,
one that breaks the layout is PROTOCOL_BAD too, and on an up link either makes the receiver send RETRY. A RETRY received has every
unacknowledged packet sent again, and the eighth in a row takes the link down. A codeword received is corrected and counted, or
counted as lost, with RETRY sent. A TIME flit gives the link's delay and a comparison with the parent; one sent carries the
device's time. A control flit that a link sends has its kind, number, acknowledgement, credits and body, and a CRC that holds at
the far end. -/
def Obligations.FlitsReceived : Prop :=
  (∀ (s u g : State) (n : LinkIx) (body : BitVec 224) (crc : BitVec 32) (flit : BitVec 256), flit = crc ++ body →
    lkUp s n.toNat = true → u = count1 s (lkPage n.toNat) 1 →
    g = goodCtl u n.toNat flit →
    (flitGood (lk u n.toNat) flit = true →
      (fKind flit = 0 → exec (.idleFlit n body crc) s = .next (flushAll g)) ∧
      (fKind flit = 2 → retryRuns g n.toNat flit < 8 → exec (.retry n flit) s = .next (flushAll (resend g n.toNat flit))) ∧
      (fKind flit = 2 → 8 ≤ retryRuns g n.toNat flit → exec (.retry n flit) s = .next (flushAll (linkDown g n.toNat))) ∧
      (fKind flit = 4 → ∀ frac, exec (.timeFlit n flit frac) s = .next (flushAll
        (driftSeen (delaySeen g n.toNat flit (timeOf s frac)) n.toNat flit (timeOf s frac))))) ∧
    (flitGood (lk s n.toNat) flit = false → flitGood (lk u n.toNat) flit = false →
      ∀ c v frac data next, c ∈ [Instr.idleFlit n body crc, .retry n flit, .timeFlit n flit frac, .dataPacketReceive n flit data next,
        .syncOp n flit, .syncUpdate n flit, .groupResult n flit, .linkAnnounce n flit, .syncLaunch n flit] →
      v = count1 (if crcGood (lk u n.toNat) flit then raiseOpen u (lkPage n.toNat) 7 else u) (lkPage n.toNat) 6 →
      lkUp v n.toNat = true → exec c s = .next (flushAll (sendRetry v n.toNat))) ∧
    (∀ lanes, (∀ l, flitsOfLanes lanes = some (0, l) → exec (.linkCodewordBad n lanes) s = .next s) ∧
      (∀ k l, flitsOfLanes lanes = some (k + 1, l) →
        exec (.linkCodewordBad n lanes) s = .next (count1 s (lkPage n.toNat) 4)) ∧
      (flitsOfLanes lanes = none → lkUp (count1 s (lkPage n.toNat) 5) n.toNat = true →
        exec (.linkCodewordBad n lanes) s = .next (sendRetry (count1 s (lkPage n.toNat) 5) n.toNat))) ∧
    (∀ frac, ∃ turn free, turn < 2 ^ 16 ∧ (((timeOf s frac : Int) - (lk s n.toNat).farAt).toNat < 2 ^ 16 →
        turn = ((timeOf s frac : Int) - (lk s n.toNat).farAt).toNat ∧ free = s.free) ∧
      exec (.timeFlitSend n frac) s = .next (emit (setLk { s with free := free } n.toNat
        { lk s n.toNat with ownTx := some (timeOf s frac) }) n.toNat 4 0 (timeBody s n.toNat (timeOf s frac) turn)))) ∧
  ∀ (l m : LinkSt) (kind seq : Nat) (body : BitVec 160) (f : BitVec 256), f = controlBody l kind seq body →
    kind < 16 → seq < 2 ^ 16 → l.freed < 2 ^ 16 →
    fKind f = kind ∧ fSeq f = seq ∧ fCredit f = l.freed ∧ fBody f = body ∧
    fAck f = (if l.rxAny then some ((l.rxNext + 4095) % 4096) else none) ∧
    fB f 28 4 = crc32 (bodyBytes l.txData ++ leBytes 28 f.toNat) ∧ (m.rxData = l.txData → crcGood m f = true)

/-- DATA packets (15 R478, R483, R486, R487, R497): the next packet queued goes out when credits cover it, no SYNC message waits
and fewer than 2,048 are unacknowledged; a packet next in order whose data flits the next control flit verifies is consumed by
the device it names or goes on along its route; one out of order is not accepted, and data flits that fail are discarded with RETRY. -/
def Obligations.DataPackets : Prop :=
  ∀ (s v w : State) (n : LinkIx) (flit next : BitVec 256) (data : List (BitVec 256)) (p : TxPkt) (ps : List TxPkt),
    lkUp s n.toNat = true →
    ((lk s n.toNat).dataQ = p :: ps → (lk s n.toNat).syncQ = [] → flitsOf p.payload ≤ (lk s n.toNat).credits →
      (lk s n.toNat).unacked.length < 2048 →
      exec (.dataPacketSend n) s = .next (flushAll (transmit (setLk s n.toNat { lk s n.toNat with dataQ := ps }) n.toNat p))) ∧
    (flitGood (lk (count1 s (lkPage n.toNat) 1) n.toNat) flit = true → fKind flit = 1 → data.length = fB flit 12 1 →
      v = recvData (goodCtl (count1 s (lkPage n.toNat) 1) n.toNat flit) n.toNat data →
      w = setLk v n.toNat { lk v n.toNat with ackDue := true } →
      (flitGood (lk v n.toNat) next = true → fSeq flit = (lk w n.toNat).rxNext →
        (bB (fBody flit) 8 2 = devNum (accepted w n.toNat) →
          exec (.dataPacketReceive n flit data next) s = .next (flushAll (consume (accepted w n.toNat) n.toNat (fBody flit)
            (slice (bodyBytes data) 0 (72 * packetLines (bB (fBody flit) 12 1)))))) ∧
        (bB (fBody flit) 8 2 ≠ devNum (accepted w n.toNat) →
          exec (.dataPacketReceive n flit data next) s = .next (flushAll (forward (accepted w n.toNat) n.toNat
            (bB (fBody flit) 8 2) (bits (bB (fBody flit) 26 1) 7 4)
            { data := true, body := BitVec.ofNat 160 ((fBody flit).toNat - 16 * 2 ^ 144),
              payload := slice (bodyBytes data) 0 (72 * packetLines (bB (fBody flit) 12 1)), src := some n.toNat })))) ∧
      (flitGood (lk v n.toNat) next = true → fSeq flit ≠ (lk w n.toNat).rxNext →
        exec (.dataPacketReceive n flit data next) s = .next (flushAll w)) ∧
      (flitGood (lk v n.toNat) next = false →
        exec (.dataPacketReceive n flit data next) s = .next (flushAll (badCtl (count1 v (lkPage n.toNat) 1) n.toNat next))))

/-- Training and going down (15 R491 to R495, R535): LINK_TRAIN starts training on a link that is not up, with a TRAIN flit sent;
a TRAIN flit that matches the declaration is answered with MATCH, and brings the link up when the far end says that it matches;
one that does not match is a mismatch; 100 ms without a match end the command with NOT_READY; LINK_DISABLE and a lost signal
take the link down. A degraded lane of an up link asks for a move 256 codewords on, is counted and raised, and at that codeword
is carried on the spare. -/
def Obligations.LinkTraining : Prop :=
  ∀ (s u g x : State) (n : LinkIx) (flit : BitVec 256) (lane : BitVec 3) (cw : Word),
    (lkUp s n.toNat = true → rgF s (lkPage n.toNat) 0x44 2 2 = 0 → (lk s n.toNat).rxMove = none →
      exec (.laneDegraded n lane cw) s = .next (raiseOpen (count1 (sendTrain
        (setLk s n.toNat { lk s n.toNat with rxMove := some (lane.toNat, (cw + 256).toNat) }) n.toNat)
        (lkPage n.toNat) 9) (lkPage n.toNat) 3)) ∧
    (s.canon = true → (lk s n.toNat).rxMove = some (lane.toNat, cw.toNat) → (lk s n.toNat).txMove = none →
      ∃ u, exec (.laneSwitch n cw) s = .next u ∧ rgF u (lkPage n.toNat) 0x44 2 2 = 1 ∧
        rgF u (lkPage n.toNat) 0x44 7 4 = lane.toNat ∧ (lk u n.toNat).rxMove = none ∧
        u = { s with regs := u.regs, links := u.links }) ∧
    (takesUnready s (lkPage n.toNat) = true → lkUp s n.toNat = false → u = taken s (lkPage n.toNat) 0x60 0#24 →
      exec (.linkTrain n 0#24) s = .next (postRunning (sendTrain (setLkState (setLk u n.toNat {}) n.toNat 1) n.toNat)
        (lkPage n.toNat) 0x60)) ∧
    (reachesPage s (lkPage n.toNat) = true → lkState s n.toNat ≠ 0 → u = taken s (lkPage n.toNat) 0x61 0#24 →
      exec (.linkDisable n 0#24) s = .next (postResult (linkDown u n.toNat) (lkPage n.toNat) rOK 0x61)) ∧
    (lkState s n.toNat = 1 → cmdRuns s (lkPage n.toNat) 0x60 = true →
      exec (.linkTrainTimeout n) s = .next (postDone s (lkPage n.toNat) rNOTREADY 0x60)) ∧
    (lkState s n.toNat = 2 → exec (.linkSignalLost n) s = .next (linkDown s n.toNat)) ∧
    (u = count1 (setLk s n.toNat { lk s n.toNat with locked := true }) (lkPage n.toNat) 1 → g = goodCtl u n.toNat flit →
      lkState s n.toNat ≠ 0 → aclkOn s = true → fKind flit = 5 → flitGood (lk u n.toNat) flit = true →
      (lkState g n.toNat = 2 → exec (.trainFlit n flit) s = .next (flushAll (spareAsked g n.toNat flit))) ∧
      (lkState g n.toNat = 1 → x = trainSeen g n.toNat flit →
        (rgF x (lkPage n.toNat) 0x48 31 31 = 0 → exec (.trainFlit n flit) s = .next (flushAll (sendTrain x n.toNat))) ∧
        (rgF x (lkPage n.toNat) 0x48 31 31 = 1 → trainMatches x n.toNat flit = true →
          ∀ y, y = sendTrain (setLk x n.toNat { lk x n.toNat with ownMatch := true }) n.toNat →
          ((lk y n.toNat).farMatch = true → exec (.trainFlit n flit) s = .next (flushAll (raiseOpen
            (endTrain (setReady (setLkState y n.toNat 2) (lkPage n.toNat) true) n.toNat rOK) (lkPage n.toNat) 0))) ∧
          ((lk y n.toNat).farMatch = false → exec (.trainFlit n flit) s = .next (flushAll y))) ∧
        (rgF x (lkPage n.toNat) 0x48 31 31 = 1 → trainMatches x n.toNat flit = false →
          exec (.trainFlit n flit) s = .next (flushAll (sendTrain (raiseOpen (endTrain
            (setLkState (setLk x n.toNat { lk x n.toNat with ownMatch := false }) n.toNat 3) n.toNat rNEIGH)
            (lkPage n.toNat) 2) n.toNat)))))

/-! Device time and the Chorus bus (15 R501 to R522). -/

/-- TIME_ALIGN, CHORUS_START, CHORUS_STOP, CHORUS_ABORT (15 R501, R503, R504, R507, R537; 20 R688): on a device that is
not the root, with the parent link up, its delay known and its far end aligned above depth 7, the counter takes the root's count and the depth is the parent's plus 1; on
a manager with no image SYNCCLK starts and stops; with a check open the abort announces ABANDON for it, with R at least 2,048
counts off. -/
def Obligations.TimeAndChorusCommands : Prop :=
  (∀ (s u : State) (d : Int), takesCommand s 0x070 = true → u = taken s 0x070 0x68 0#24 → anyImage u = false →
    timeRoot u = false → linkDelay u (parentLink s) = some d → lkUp u (parentLink s) = true → bit (lk u (parentLink s)).farDepth 7 = true →
    (lk u (parentLink s)).farDepth % 16 < 7 →
    exec (.timeAlign 0#24) s = .next (postResult (alignTo u (rootCount u (lk u (parentLink s)) d)
      ((lk u (parentLink s)).farDepth % 16 + 1)) 0x070 rOK 0x68)) ∧
  ∀ (s u : State) (j : Nat), role s = 2 →
    (takesCommand s 0x071 = true → anyImage s = false → u = taken s 0x071 0x70 0#24 →
      exec (.chorusStart 0#24) s = .next (postResult (setRgF u 0x071 0x04C 0 0 1) 0x071 rOK 0x70)) ∧
    (takesEnding s 0x071 = true → anyImage s = false → u = taken s 0x071 0x71 0#24 →
      exec (.chorusStop 0#24) s = .next (postResult (updChorus (setRgF u 0x071 0x04C 0 0 0)
        (fun c => { c with ann := none, copies := 0, openChk := none })) 0x071 rOK 0x71)) ∧
    (takesEnding s 0x071 = true → s.chorus.openChk = some j → u = taken s 0x071 0x73 0#24 →
      exec (.chorusAbort 0#24) s = .next (postRunning (updChorus u (fun c => { c with
        ann := some (4, j, now u + 2048 + (if isSysMgr u then sysLead u else 0)), annFrom := now u + 11, copies := 3 })) 0x071 0x73))

/-- CHORUS_ROUND (15 R508, R509, R517): a round is counted and its word is the response: IDLE with nothing to announce, else
the announcement, of which one copy fewer is left. -/
def Obligations.ChorusRounds : Prop :=
  ∀ (s u : State) (type j r : Nat), drivesBus s = true →
    u = updChorus (count1 s 0x071 0) (fun c => { c with rounds := c.rounds + 1 }) → warmActive u = false → u.oos = false →
    (s.chorus.ann = none → exec .chorusRound s = .next { u with resp := { code := 0, data := leBytes 8 (mkWord 0 0 0).toNat } }) ∧
    (s.chorus.ann = some (type, j, r) → 0 < s.chorus.copies → s.chorus.annFrom ≤ now u → s.chorus.openChk = none →
      exec .chorusRound s = .next { updChorus u (fun c => { c with copies := c.copies - 1, openChk := none }) with
        resp := { code := 0, data := leBytes 8 (mkWord type j r).toNat } })

/-- ROUND_WORD, MANAGER_LOST and the announcements (15 R510, R518 to R520; 20 R690): a worker counts every word; a good word
after a good one locks it; a bad one counts and raises an event, and the second in a row loses the lock; a lost manager shows.
A member on the bus that waits at the named check takes a copy that is not late, counts it and shows its type. -/
def Obligations.WorkerWords : Prop :=
  (∀ (s u : State) (w : DWord), role s = 1 →
    (goodWord w = true → u = updChorus (count1 s 0x071 0) (fun c => { c with good := c.good + 1, bad := 0 }) →
      exec (.roundWord w) s = .next (if 1 ≤ s.chorus.good then setRgF u 0x071 0x04C 2 1 1 else u)) ∧
    (goodWord w = false → u = raiseOpen (count1 (updChorus (count1 s 0x071 0) (fun c => { c with good := 0, bad := c.bad + 1 })) 0x071 3) 0x071 2 →
      exec (.roundWord w) s = .next (if rgF s 0x071 0x04C 1 1 = 1 ∧ 1 ≤ s.chorus.bad then
        raiseOpen (setRgF u 0x071 0x04C 1 1 0) 0x071 1 else u)) ∧
    (exec .managerLost s = .next (updChorus (raiseOpen (setRgF s 0x071 0x04C 2 2 1) 0x071 0) (fun c => { c with good := 0 })))) ∧
  ∀ (s u : State) (j : BitVec 8) (low : BitVec 36) (r : Run) (res : Nat), onBus s = true → waitsAt s j.toNat = some r →
    res = resumeCount s low.toNat →
    (u = count1 s 0x071 2 → now u < res → (r.epochs ≠ 0 ∨ res ≤ expectedAt u 0 r + 2048) →
      exec (.annContinue j low) s = .next (setRgF (takeContinue u 0 res) 0x071 0x04C 11 8 1) ∧
      exec (.annEpoch j low) s = .next (setRgF (takeEpoch u 0 res) 0x071 0x04C 11 8 2) ∧
      exec (.annReplay j low) s = .next (setRgF (takeReplay u 0 res) 0x071 0x04C 11 8 3)) ∧
    (u = count1 (setRgF s 0x071 0x04C 11 8 4) 0x071 2 → now u < res → (r.epochs ≠ 0 ∨ res ≤ expectedAt u 0 r + 2048) →
      exec (.annAbandon j low) s = .next (takeAbandon u 0 res))

/-- Slots (15 R511, R514 to R516): a manager records a sampled answer; with a check open an answer that counts is noted; a slot
silent for 16 rounds, and CHORUS_ALL low for a round after every answer, are reported. -/
def Obligations.ChorusSlots : Prop :=
  ∀ (s : State) (slot : BitVec 6) (code : BitVec 4) (all : Bool), s.canon = true → drivesBus s = true →
    (s.chorus.openChk = none → code.toNat ≠ 0 → inRoster s slot.toNat = true →
      exec (.slotAnswer slot code all) s =
        .next (setRgF s 0x071 (0xE0 + 4 * (slot.toNat / 8)) (4 * (slot.toNat % 8) + 3) (4 * (slot.toNat % 8)) code.toNat)) ∧
    (∀ j k, s.chorus.openChk = some j → 2 ≤ code.toNat → code.toNat ≤ 5 → inRoster s slot.toNat = true →
      inRoster s k = true → k ≠ slot.toNat → k < 64 → k ∉ s.chorus.counted →
      ∃ u, exec (.slotAnswer slot code all) s = .next u ∧ slot.toNat ∈ u.chorus.counted ∧ u.chorus.openChk = some j ∧
        u = { s with regs := u.regs, chorus := u.chorus }) ∧
    (∀ j, s.chorus.openChk = some j → inRoster s slot.toNat = true → 16 ≤ missingRun s slot.toNat →
      missingRun s slot.toNat < reportedRun →
      exec (.memberSilent slot) s = .next (raise (setMissing s slot.toNat reportedRun) 0x071 3 slot.toNat)) ∧
    (∀ j, s.chorus.openChk = some j → 65 ≤ s.chorus.lowRounds →
      exec .chorusAllDisagree s = .next (raiseOpen (updChorus s (fun c => { c with lowRounds := 0 })) 0x071 6))

/-! Synchronisation objects (15 R523 to R532), doorbells, copy queues and bindings (16). -/

/-- 15 R527, for the host and an object at home here: each operation's effect on the value and its result in `SYNC_RES`. The
object is LOCAL and unwatched, so that nothing else follows; what follows a change elsewhere is the next statement's. -/
def Obligations.HostSyncOperations : Prop :=
  ∀ (s : State) (n : Nat) (o : SyncObj) (arg : DWord), takesCommand s 0x072 = true → n = rgF s 0x072 0x040 15 0 →
    o = syncObj s n → oScope o = 0 → s.hif.binds = [] → (getCnt s 0x072 0).sat = false →
    (getCnt s 0x072 0).value.toNat < 2 ^ 48 - 2 → arg.toNat = rg64 s 0x072 0x044 →
    ∀ (c : Instr) (v : DWord) (r : Option DWord),
      ((c = .hostSyncAdd 0#20 ∧ oType o = 1 ∧ v = o.value + arg ∧ r = none) ∨
       (c = .hostSyncAdd 0#20 ∧ oType o = 2 ∧ v = BitVec.ofNat 64 (min (o.value.toNat + arg.toNat) o.limit.toNat) ∧ r = none) ∨
       (c = .hostSyncSet 0#20 ∧ oType o = 3 ∧ v = 1 ∧ r = none) ∨
       (c = .hostSyncClear 0#20 ∧ oType o = 3 ∧ v = 0 ∧ r = none) ∨
       (c = .hostSyncWaitGe 0#20 ∧ (oType o = 1 ∨ oType o = 2) ∧ v = o.value ∧ r = some (if arg.toNat ≤ o.value.toNat then 1 else 0)) ∨
       (c = .hostSyncWaitSet 0#20 ∧ oType o = 3 ∧ v = o.value ∧ r = some (if o.value = 1 then 1 else 0)) ∨
       (c = .hostSyncWaitClear 0#20 ∧ oType o = 3 ∧ v = o.value ∧ r = some (if o.value = 0 then 1 else 0)) ∨
       (c = .fetchAdd 0#20 ∧ oType o = 1 ∧ v = o.value + arg ∧ r = some o.value) ∨
       (c = .acquire 0#20 ∧ oType o = 2 ∧ 1 ≤ o.value.toNat ∧ v = o.value - 1 ∧ r = some 1) ∨
       (c = .acquire 0#20 ∧ oType o = 2 ∧ o.value = 0 ∧ v = 0 ∧ r = some 0) ∨
       (c = .hostSyncWrite 0#20 ∧ 1 ≤ oType o ∧ oType o ≤ 3 ∧ v = arg ∧ r = none) ∨
       (c = .hostSyncRead 0#20 ∧ 1 ≤ oType o ∧ oType o ≤ 4 ∧ v = o.value ∧ r = some o.value)) →
      ∃ u, exec c s = .next u ∧ (syncObj u n).value = v ∧ (∀ x, r = some x → rg64 u 0x072 0x04C = x.toNat) ∧
        (∀ m, m ≠ n → syncObj u m = syncObj s m) ∧ (getPage u 0x072).result = 0x720100 ∧
        u = { s with pages := u.pages, regs := u.regs, cnt := u.cnt, sync := u.sync }

/-- 15 R528, R529: a tile's operation issues and is applied at the home, or goes there as a message; a wait issues once the
object's value, or its shadow, satisfies it; one that does not yet, on a GROUP or SYSTEM object, stays in its stream. -/
def Obligations.TileSyncOperations : Prop :=
  ∀ (s u : State) (t : TileIx) (acy op : Nat) (e : BitVec 128), wOp (eWord e) = op → u = issued s t.toNat 4 acy e →
    (mayIssue s t.toNat 4 acy e 9 = true →
      ∀ c, (c, op) ∈ [(Instr.tileSyncAdd t acy, 1), (.tileSyncSet t acy, 2), (.tileSyncClear t acy, 3)] →
      exec c s = .next (tileOp u (wObj (eWord e)) op (wSyncArg u t.toNat (eWord e)))) ∧
    (mayIssueFrom s t.toNat 4 acy e 9 none = true →
      ∀ c, (c, op) ∈ [(Instr.tileSyncWaitGe t acy, 4), (.tileSyncWaitSet t acy, 5), (.tileSyncWaitClear t acy, 6)] →
      (waitOk s t.toNat op e = true → exec c s = .next (waitOver u t.toNat (partOf s t.toNat) e)) ∧
      (waitOk s t.toNat op e = false → oScope (syncObj s (wObj (eWord e))) ≠ 0 → exec c s = .next (waitOn s t.toNat e)))

/-- SYNC messages (15 R497, R522, R526, R529, R531): one next in order that names this device is applied here, whichever it is;
one that names another goes on along its route with one hop less; one out of order is not accepted. -/
def Obligations.SyncMessages : Prop :=
  ∀ (s g w : State) (n : LinkIx) (flit : BitVec 256) (b : BitVec 160), lkUp s n.toNat = true → fKind flit = 3 →
    flitGood (lk (count1 s (lkPage n.toNat) 1) n.toNat) flit = true → b = fBody flit →
    g = goodCtl (count1 s (lkPage n.toNat) 1) n.toNat flit →
    (fSeq flit = (lk (setLk g n.toNat { lk g n.toNat with ackDue := true }) n.toNat).rxNext →
      w = accepted (setLk g n.toNat { lk g n.toNat with ackDue := true }) n.toNat →
      (bB b 10 2 = devNum w →
        (bB b 8 1 % 16 = 0 → isHome w (syncObj w (bB b 14 2)) = true →
          opAllowed (oType (syncObj w (bB b 14 2))) (bB b 9 1) = true →
          exec (.syncOp n flit) s = .next (flushAll (applyOp w (bB b 14 2) (bB b 9 1) (BitVec.ofNat 64 (bB b 16 8))).2)) ∧
        (bB b 8 1 % 16 = 1 → oType (syncObj w (bB b 14 2)) ≠ 0 → oScope (syncObj w (bB b 14 2)) ≠ 2 →
          exec (.syncUpdate n flit) s = .next (flushAll (notify (setSync w (bB b 14 2)
            { syncObj w (bB b 14 2) with value := BitVec.ofNat 64 (bB b 16 8) }) (bB b 14 2)))) ∧
        (∀ k, bB b 8 1 % 16 = 2 → isSysMgr w = true → (groups w).find? (fun k => groupMgr w k == bB b 12 2) = some k →
          exec (.groupResult n flit) s = .next (flushAll (noteGroup w k (bB b 9 1) (bB b 24 2)))) ∧
        (bB b 8 1 % 16 = 3 → role w = 2 →
          exec (.linkAnnounce n flit) s = .next (flushAll (setAnn w (bB b 9 1) (bB b 24 2) (bB b 16 8)))) ∧
        (bB b 8 1 % 16 = 4 →
          exec (.syncLaunch n flit) s = .next (flushAll (launchObject w (bB b 14 2) (bB b 16 8) (bB b 24 4 % 4) false)))) ∧
      (bB b 10 2 ≠ devNum w →
        ∀ c m, (c, m) ∈ [(Instr.syncOp n flit, 0), (.syncUpdate n flit, 1), (.groupResult n flit, 2), (.linkAnnounce n flit, 3),
          (.syncLaunch n flit, 4)] → bB b 8 1 % 16 = m →
        exec c s = .next (flushAll (forward w n.toNat (bB b 10 2) (bB b 8 1 / 16)
          { data := false, body := BitVec.ofNat 160 (b.toNat - 16), src := none })))) ∧
    (fSeq flit ≠ (lk (setLk g n.toNat { lk g n.toNat with ackDue := true }) n.toNat).rxNext →
      ∀ c m, (c, m) ∈ [(Instr.syncOp n flit, 0), (.syncUpdate n flit, 1), (.groupResult n flit, 2), (.linkAnnounce n flit, 3),
        (.syncLaunch n flit, 4)] → bB b 8 1 % 16 = m →
      exec c s = .next (flushAll (setLk g n.toNat { lk g n.toNat with ackDue := true })))

/-- Copy queues (16 R556 to R564): CQ_RESET of a queue at rest sets head and tail to 0 and runs it; a tail below the size is
taken, another raises an event; an entry that passes runs, one that fails stops the queue; a finished entry advances the head
and is counted, with its vector when IRQ is set. -/
def Obligations.CopyQueues : Prop :=
  ∀ (s u : State) (p : PartIx) (entry : BitVec 512) (e : List Byte) (done : Nat),
    (takesCommand s 0x021 = true → (getPart s p.toNat).cqBusy = none → u = taken s 0x021 0x80 (p.setWidth 24) →
      exec (.cqReset (p.setWidth 24)) s = .next (postResult (setRgF (setRg (setRg u 0x021 (cq p.toNat 0x0C) 0) 0x021 (cq p.toNat 0x10) 0)
        0x021 (cq p.toNat 0x14) 1 0 0) 0x021 rOK 0x80)) ∧
    (∀ v : Word, hostServed s = true → (getPage s 0x07C).held = none →
      (v.toNat < cqSize s p.toNat → exec (.dbCopyTail p v) s = .next (setRg s 0x021 (cq p.toNat 0x0C) v)) ∧
      (cqSize s p.toNat ≤ v.toNat → exec (.dbCopyTail p v) s = .next (raiseOpen s 0x020 5))) ∧
    (queueRuns s p.toNat = true → e = leBytes 64 entry.toNat → u = count1 s 0x020 5 →
      (∀ check code, copyCheck u p.toNat e = some (check, code) → isFetch e = false →
        exec (.copyEntry p entry done) s = .next (queueFail u p.toNat check code)) ∧
      (copyCheck u p.toNat e = none → isFetch e = false → ∀ r,
        r = copyWrites u p.toNat e ((getDesc u p.toNat (eSrc e)).getD 0) ((getDesc u p.toNat (eDst e)).getD 0) →
        exec (.copyEntry p entry done) s = .next (queueExec r.1 p.toNat e done r.2)) ∧
      (∀ check code lines, copyCheck u p.toNat e = some (check, code) → isFetch e = true →
        exec (.fetchEntry p entry lines done) s = .next (queueFail u p.toNat check code)) ∧
      (copyCheck u p.toNat e = none → isFetch e = true → ∀ w lines, w = countBy u 0x020 5 (ceilDiv (72 * eLineCount e) 64) →
        exec (.fetchEntry p entry lines done) s =
          .next (queueExec w p.toNat e done (fetchWrites w e ((getDesc w p.toNat (eDst e)).getD 0) lines)))) ∧
    ((getPart s p.toNat).cqBusy = some e →
      u = updPart (makeWrites s p.toNat (eHint e) (getPart s p.toNat).cqLeft) p.toNat (fun x => { x with cqBusy := none, cqLeft := [] }) →
      ∀ w, w = count1 (setRg u 0x021 (cq p.toNat 0x10)
        (BitVec.ofNat 32 (((rg u 0x021 (cq p.toNat 0x10)).toNat + 1) % cqSize u p.toNat))) 0x020 6 →
      exec (.copyEntryComplete p) s = .next (if bit (leAt e 1 1) 0 then sendMsix w (16 + p.toNat) else w))

/-- NB_ARM, NB_DISARM and SYNC_OBJECT_DEFINE (16 R562, R565; 15 R525): a binding armed on a defined object fires at once when
the object satisfies it, and else waits armed; a disarmed one is gone; with no image in its partition, a LOCAL definition
through the window is taken, its value as one 64-bit write or as an upper word held for the lower. -/
def Obligations.BindingsAndDefinitions : Prop :=
  (∀ (s : State) (arg : Arg) (b : Binding), takesCommand s 0x022 = true → arg.toNat < 1984 →
    (b.obj = rgF s 0x022 0x40 15 0 → b.op = rgF s 0x022 0x40 19 16 → b.arg.toNat = rg64 s 0x022 0x44 →
      oType (syncObj s b.obj) ≠ 0 → 4 ≤ b.op → b.op ≤ 6 → ∀ w,
      w = setArmed { taken s 0x022 0x84 arg with hif := { s.hif with binds := smPut s.hif.binds arg.toNat b } } arg.toNat true →
      exec (.nbArm arg) s = .next (postResult
        (if satisfied b.op (syncObj s b.obj).value b.arg then fireBinding w arg.toNat else w) 0x022 rOK 0x84)) ∧
    exec (.nbDisarm arg) s = .next (postResult (setArmed
      { taken s 0x022 0x85 arg with hif := { s.hif with binds := smDel s.hif.binds arg.toNat } } arg.toNat false) 0x022 rOK 0x85)) ∧
  ∀ (s : State) (n : BitVec 16) (v hi : Word) (page : Nat), s.canon = true → fwRunning s = true → hostServed s = true →
    page = 0x200 + n.toNat / 256 → hasImage s (oPart (syncObj s n.toNat)) = false →
    (fld v 4 3 = 0 → fld v 2 0 ≤ 4 → hasImage s (fld v 6 5) = false →
      ∃ u, exec (.syncObjectDefine n 0 (.word v)) s = .next u ∧ syncObj u n.toNat = { syncObj s n.toNat with ctl := v &&& 0x7F } ∧
        u = { noteWrite s page with sync := u.sync }) ∧
    (oScope (syncObj s n.toNat) = 0 → oType (syncObj s n.toNat) ≤ 4 →
      (∃ u, exec (.syncObjectDefine n 1 (.word v)) s = .next u ∧ syncObj u n.toNat = { syncObj s n.toNat with limit := v } ∧
        u = { noteWrite s page with sync := u.sync }) ∧
      (∃ u, exec (.syncObjectDefine n 3 (.word hi)) s = .next u ∧ u = { s with pages := u.pages } ∧
        ∃ w, exec (.syncObjectDefine n 2 (.word v)) u = .next w ∧ syncObj w n.toNat = { syncObj s n.toNat with value := hi ++ v }) ∧
      (∃ u, exec (.syncObjectDefine n 2 (.wide v hi)) s = .next u ∧ syncObj u n.toNat = { syncObj s n.toNat with value := hi ++ v } ∧
        u = { noteWrite s page with sync := u.sync }))

/-- Memory accesses (14 R439, R440, R443; 16 R550 to R555; 12 R389): a host read inside its tier answers the 64 bytes of its
lines in turn; a host write makes one line operation of each whole line it touches; a snoop that is waited for ends with its
response, or after 10 ms with an event; outside the tier both accesses stop. The device reads and writes whole lines, and the
line's bytes are the read's response. -/
def Obligations.MemoryAccesses : Prop :=
  (∀ (s : State) (d : BitVec 1) (o : BitVec 52) (e f : List (BitVec 7 × Byte)) (w : BitVec 512) (be : BitVec 64) (l : BitVec 52),
    (hdmInside s d o.toNat = true → fwRunning s = true → hostServed s = true → aclkOn s = true → ∀ a r,
      a = hdmAddr d o.toNat → r = hostReads ((touched s a).zip [e, f]) s → r.2.1 = false →
      exec (.hostMemRead d o false e f) s = .next { r.2.2 with
        resp := { code := 0, data := (List.range 64).map (fun i => pickByte r.1 (a + i)) } }) ∧
    (hdmInside s d o.toNat = true → fwRunning s = true → hostServed s = true → aclkOn s = true → ∀ a, a = hdmAddr d o.toNat →
      exec (.hostMemWrite d o w be false) s = .next ((touched s a).foldl (fun s l => hostLineWrite s l ((List.range 72).map (fun i =>
        if decide (a ≤ l + i ∧ l + i < a + 64) && be.getLsbD (l + i - a) then some ((leBytes 64 w.toNat).getD (l + i - a) 0)
        else none))) s)) ∧
    (hdmInside s d o.toNat = false → ∀ h, exec (.hostMemRead d o h e f) s = .fault .noSuchAddress ∧
      exec (.hostMemWrite d o w be h) s = .fault .noSuchAddress) ∧
    (s.hif.snoops.contains l.toNat = true →
      exec (.bisnpResponse l) s = .next (snoopDone s l.toNat) ∧
      exec (.bisnpTimeout l) s = .next (raiseOpen (snoopDone s l.toNat) 0x020 3))) ∧
  ∀ (s : State) (l : BitVec 52) (hint : BitVec 2) (p : PartIx), isLine s l.toNat = true →
    (∀ err r, r = devRead s l.toNat hint.toNat p.toNat err →
      exec (.lineRead l hint p err) s = .next { r.2 with resp := { code := 0, data := r.1 } }) ∧
    (∀ data, exec (.lineWrite l hint p data none) s = .next (devWrite s l.toNat (leBytes 72 data.toNat) hint.toNat p.toNat)) ∧
    (∀ data (q : BitVec 2), exec (.lineWrite l hint p data (some q)) s = .next (parityLine s l.toNat q.toNat)) ∧
    (s.canon = true → s.cacheOk → s.fi.left = 0 → isPoison s.mem l.toNat = false →
      ∀ u, exec (.lineRead l hint p []) s = .next u → ∀ i, i < 72 → u.resp.data.getD i 0 = peekByte s (l.toNat + i))

/-! Starts, resets, firmware, test mode and security (17, 20, 21, 22). -/

/-- Starts and resets (17 R570 to R572, R605; 20 R677 to R682): the end of the power-on hold, PERST# and a supply excursion
leave every register, counter and map of the device at its reset value; a glitch is counted; a warm reset clears what R677
says and completes once firmware's digest agrees. -/
def Obligations.ResetsFromOutside : Prop :=
  ∀ (s : State) (u v : State) (en : Bool) (b : Boot),
    ((coldState s b).regs = [] ∧ (coldState s b).pages = [] ∧ (coldState s b).cnt = [] ∧ (coldState s b).tiles = [] ∧
      (coldState s b).parts = [] ∧ (coldState s b).descs = [] ∧ (coldState s b).allocs = [] ∧ (coldState s b).cache = [] ∧
      (coldState s b).boot = b ∧ (coldState s b).flash = s.flash ∧ (coldState s b).pending = s.pending) ∧
    (s.boot.hold = true → exec (.powerOnHoldEnd en) s =
      .next (coldState s { s.boot with hold := false, testEn := en, testMode := false, tripPin := false })) ∧
    (s.boot.perst = false → exec .perstAssert s = .next (coldState s { s.boot with perst := true, testMode := false })) ∧
    (s.boot.perst = true → s.boot.hold = false → b.perst = false → b.testMode = false → b.tripPin = false →
      b.jtag = jtagOutside s.boot.jtag → b.hold = false → b.testEn = s.boot.testEn →
      exec .perstDeassert s = .next (coldState s b)) ∧
    (s.boot.hold = false → exec .supplyExcursion s = .next (coldState s { perst := s.boot.perst, hold := true })) ∧
    (s.boot.hold = false → s.boot.perst = false → exec .supplyGlitch s = .next (count1 s 0x000 0)) ∧
    (hostServed s = true → u = raiseOpen s 0x001 0 →
      (warmActive s = true ∨ warmActive u = false → exec .pllUnlock s = .next u) ∧
      (warmActive s = false → warmActive u = true → exec .pllUnlock s =
        .next (setRgF (loseMemory { u with fc := { u.fc with warmPll := true } }) 0x002 0x4C 4 4 1))) ∧
    (takesEnding s 0x002 = true → u = taken s 0x002 0x98 0#24 →
      exec (.warmReset 0#24) s = .next (postResult (warmBegin (count1 (count1 u 0x002 0) 0x002 1) 3) 0x002 rOK 0x98)) ∧
    (warmActive s = true → rgF s 0x002 0x4C 5 5 = 0 → aclkOn s = true →
      exec (.warmResetComplete false) s = .next (setRgF (setRgF s 0x002 0x4C 5 5 1) 0x010 0x40 2 0 0) ∧
      (fwHeld s = true → u = flushCache s → u.fc.warmPll = false → v = setRgF (readyAgain u) 0x002 0x4C 0 0 0 → v.fc.escalate = false →
        exec (.warmResetComplete true) s =
          .next { v with fc := { v.fc with warmStart := none, escalate := false, warmPll := false } }))

/-- Start-up (17 R573 to R587; 16 R544, R545, R567; 21 R709): the boot ROM shows the identity and sets the two pages READY; a
firmware transfer begins, takes bytes without a gap, and starts the firmware when it verifies; a block that passed its steps
is READY; the host link comes up with its rate, and its loss stops the copy queues. -/
def Obligations.StartUp : Prop :=
  ∀ (s u : State),
    (s.boot.hold = false → s.boot.perst = false → getReady s 0x10 = false → s.flash.ok = true → s.canon = true →
      ∃ v, exec (.bootRomDone 0) s = .next v ∧ getReady v 0x000 = true ∧ getReady v 0x10 = true ∧
        rg64 v 0x000 0x44 = s.flash.id.toNat ∧ rgF v 0x011 0x40 1 1 = 1 ∧ v = { s with regs := v.regs, ready := v.ready }) ∧
    (doeServed s = true →
      (∀ len, getReady s 0x10 = true → s.oos = false → fwRunning s = false → s.hif.fwLen = none → fwLengthOk len.toNat = true →
        exec (.fwBegin len) s = .next (doeResp (setRgF
          { s with hif := { s.hif with fwLen := some len.toNat, fwBytes := [] } } 0x010 0x40 2 0 1) rOK [])) ∧
      (∀ off bytes n, s.hif.fwLen = some n → off.toNat = s.hif.fwBytes.length → bytes.length ≤ 2 ^ 18 →
        exec (.fwData off bytes) s = .next (doeResp { s with hif := { s.hif with fwBytes := s.hif.fwBytes ++ bytes } } rOK [])) ∧
      (∀ n, s.hif.fwLen = some n → u = { s with hif := { s.hif with fwLen := none, fwBytes := [] } } →
        s.canon = true → ∃ v, exec .fwEnd s = .next v ∧ v = { s with hif := v.hif, regs := v.regs, resp := v.resp } ∧
          (fwGood n s.hif.fwBytes = false → v = doeResp (endStatus u 4 rSIGBAD) rSIGBAD []) ∧
          (fwGood n s.hif.fwBytes = true → fwRunning v = true ∧ v.hif.fw = s.hif.fwBytes ∧
            rg v 0x010 0x44 = BitVec.ofNat 32 s.hif.fwBytes.length ∧ v.resp = { code := 0, data := [0] }))) ∧
    (∀ (page : PageIx) ok f p v, p = page.toNat → startsUp p = true → fwRunning s = true → (getBlk s p).pwrOn = true →
      getReady s p = false → (getBlk s p).testPage = none → (getBlk s p).failed = false → isRetiredPage s p = false →
      (isTilePage p = true → v = if warmActive s then s else factoryRepair s (p - 0x100)) →
      (isCtrlPage p = true → v = setCtrl s (p - 0x40) { getCtrl s (p - 0x40) with
        factory := smGet (fun _ => ([] : List DWord)) s.flash.remaps (p - 0x40) }) →
      (isTilePage p = false → isCtrlPage p = false → v = s) →
      (hasTest p = false → exec (.blockReady page ok f) s = .next (setReady s p true)) ∧
      (hasTest p = true → exec (.blockReady page ok f) s =
        .next (if (testDone v p ok f).1 then setReady (testDone v p ok f).2 p true else (testDone v p ok f).2))) ∧
    (∀ rate width, u = { s with hif := { s.hif with noService := false } } →
      exec (.hostLinkUp rate width false) s = .next (raiseLevel (setReady (setRgF (setRgF (setRgF u 0x020 0x40 1 0 rate.toNat)
        0x020 0x40 3 2 width.toNat) 0x020 0x40 8 8 1) 0x020 true) 0x020 0 (rate != 2 || width != 2))) ∧
    (∀ rate width, exec (.hostLinkUp rate width true) s =
      .next (raiseLevel { s with hif := { s.hif with noService := true } } 0x020 0 true)) ∧
    (rgF s 0x020 0x40 8 8 = 1 →
      exec .hostLinkDown s = .next (linkLoss (raiseLevel (setRgF s 0x020 0x40 8 8 0) 0x020 0 false))) ∧
    (∀ (k : BitVec 1), rgF s 0x020 0x40 (6 + k.toNat) (6 + k.toNat) = 1 →
      exec (.ideIntegrityFail k) s = .next (linkLoss (updSec (setRgF s 0x020 0x40 (6 + k.toNat) (6 + k.toNat) 0)
        (fun c => { c with ide := c.ide.filter (fun e => e.1 / 4 ≠ k.toNat) }))))

/-- Factory test mode, JTAG, SMBus and the entropy source (16 R567; 18 R636; 19 R670; 21 R699; 22 R723): a challenge is fresh
bytes, and a good signature over it and `DEVICE_ID` opens test mode once; JTAG selects an instruction, the pin instructions
only under PERST#; an SMBus read answers a thermal or power register. -/
def Obligations.TestPorts : Prop :=
  ∀ (s : State),
    (doeServed s = true → s.boot.testEn = true → fwRunning s = false →
      (getReady s 0x10 = true → trngOk s = true → exec .testChallenge s = .next (doeResp { (fresh32 s).2 with
        hif := { (fresh32 s).2.hif with challenge := some (fresh32 s).1 } } rOK (fresh32 s).1)) ∧
      (∀ c sig u, s.hif.challenge = some c → u = { s with hif := { s.hif with challenge := none } } →
        exec (.testUnlock sig) s =
          .next (if ecdsaOk (splitKey Config.testKey) (sha256 (leBytes 8 (rg64 s 0x000 0x44) ++ c)) (beBytes 64 sig.toNat) then
            doeResp { u with boot := { u.boot with testMode := true } } rOK [] else doeResp u rSIGBAD []))) ∧
    exec .jtagBypass s = .next { s with boot := { s.boot with jtag := 1 }, resp := { code := 0, data := [] } } ∧
    exec .jtagIdcode s = .next { s with boot := { s.boot with jtag := 0 }, resp := { code := 0, data := [0x5B, 0x4A, 0x68, 0x05] } } ∧
    exec .jtagSamplePreload s = .next { s with boot := { s.boot with jtag := 2 }, resp := { code := 0, data := [] } } ∧
    (∀ c i, (c, i) ∈ [(Instr.jtagExtest, 3), (.jtagClamp, 4), (.jtagHighz, 5)] → exec c s =
      .next { s with boot := { s.boot with jtag := if s.boot.perst ∧ s.boot.hold = false then i else 1 }, resp := { code := 0, data := [] } }) ∧
    (s.boot.hold = false →
      (∀ k : Byte, k.toNat ≤ 4 → exec (.smbusBlockRead k) s =
        .next { s with resp := { code := 0, data := leBytes 4 (blockReg s 0x006 (0x40 + 4 * k.toNat)).toNat } }) ∧
      (∀ k : Byte, 0x40 ≤ k.toNat → k.toNat ≤ 0x44 → exec (.smbusBlockRead k) s =
        .next { s with resp := { code := 0, data := leBytes 4 (blockReg s 0x007 (0x40 + 4 * (k.toNat - 0x40))).toNat } }) ∧
      (∀ k : Byte, 4 < k.toNat → (k.toNat < 0x40 ∨ 0x44 < k.toNat) →
        exec (.smbusBlockRead k) s = .next { s with resp := { code := 1, data := [] } })) ∧
    exec .entropyHealthTestFail s = .next (setRgF s 0x011 0x40 1 1 0)

/-- Attestation and keys (21 R698 to R709): each request of a ready device is counted and answered; the session limit of R700
holds; `SEC_STATUS` follows; the staged image key is enabled with its SHA-256, disabled, and locked. -/
def Obligations.SecurityCommands : Prop :=
  (∀ (s u : State) (n : Word), u = count1 s 0x011 0 → doeServed s = true → getReady s 0x10 = true → warmActive u = false →
    exec .spdmGetVersion s = .next (spdmResp (updSec u (fun c => { c with spdm := 1 })) [0x12]) ∧
    (u.sec.spdm ≠ 0 → exec .spdmGetCapabilities s = .next (spdmResp (updSec u (fun c => { c with spdm := max 2 c.spdm })) [])) ∧
    (2 ≤ u.sec.spdm → exec .spdmNegotiateAlgorithms s = .next (spdmResp (updSec u (fun c => { c with spdm := 3 })) [])) ∧
    (3 ≤ u.sec.spdm →
      exec .spdmGetDigests s = .next (spdmResp u ((List.range 32).map (Config.spdmByte 1))) ∧
      (∀ off len, exec (.spdmGetCertificate 0 off len) s =
        .next (spdmResp u ((List.range len.toNat).map (fun i => Config.certByte (off.toNat + i))))) ∧
      (∀ i : Byte, (i.toNat ≤ 9 ∨ i.toNat = 0xFF) → exec (.spdmGetMeasurements i false) s = .next (spdmResp u (measured u i.toNat))) ∧
      (trngOk u = true →
        exec (.spdmChallenge 0) s = .next (spdmResp (signature (fresh32 u).2).2 ((fresh32 u).1 ++ (signature (fresh32 u).2).1)) ∧
        (u.sec.sessions.contains n.toNat = false → u.sec.opening.contains n.toNat = false →
          u.sec.sessions.length + u.sec.opening.length < 4 →
          exec (.spdmKeyExchange n) s = .next (spdmResp (updSec (signature (fresh32 u).2).2
            (fun c => { c with opening := c.opening ++ [n.toNat] })) ((fresh32 u).1 ++ (signature (fresh32 u).2).1)))) ∧
      (4 ≤ u.sec.sessions.length + u.sec.opening.length → u.sec.sessions.contains n.toNat = false →
        u.sec.opening.contains n.toNat = false → exec (.spdmKeyExchange n) s = .next (spdmErr u 0xA)) ∧
      (u.sec.opening.contains n.toNat = true → exec (.spdmFinish n) s = .next (spdmResp (showSessions (updSec u (fun c => { c with
        opening := c.opening.filter (· ≠ n.toNat), sessions := c.sessions ++ [n.toNat], keyGen := smPut c.keyGen n.toNat 0 }))) [])) ∧
      (u.sec.sessions.contains n.toNat = true →
        exec (.spdmEndSession n) s = .next (spdmResp (showSessions (updSec u (fun c => { c with
          sessions := c.sessions.filter (· ≠ n.toNat), keyGen := smDel c.keyGen n.toNat }))) []) ∧
        exec (.spdmHeartbeat n) s = .next (spdmResp u []) ∧
        exec (.spdmKeyUpdate n) s = .next (spdmResp (updSec u (fun c => { c with
          keyGen := smPut c.keyGen n.toNat (smGet (fun _ => 0) c.keyGen n.toNat + 1) })) []) ∧
        (∀ (k d q : BitVec 1) (key : BitVec 256) v,
          v = updSec u (fun c => { c with ide := smPut c.ide (4 * k.toNat + 2 * d.toNat + q.toNat) key.toNat }) →
          exec (.ideKeyProgram n k d q key) s = .next (spdmResp (if keysSet v.sec.ide k.toNat q.toNat then
            setRgF v 0x020 0x40 (6 + k.toNat) (6 + k.toNat) 1 else v) []))) ∧
      (u.sec.sessions.contains n.toNat = false → exec (.spdmHeartbeat n) s = .next (spdmErr u 2)))) ∧
  (∀ (s w : State),
    (takesCommand s 0x011 = true → keyLocked s = false → anyImage s = false →
      (onCurve (stagedKey s) = true → w = taken s 0x011 0xA0 0#24 → exec (.keyEnable 0#24) s =
        .next (postResult (setRgF (setKeyHash w (sha256 (regBytes w 0x011 0x50 16))) 0x011 0x44 0 0 1) 0x011 rOK 0xA0)) ∧
      (w = taken s 0x011 0xA1 0#24 → exec (.keyDisable 0#24) s =
        .next (postResult (setRgF (setKeyHash w []) 0x011 0x44 0 0 0) 0x011 rOK 0xA1))) ∧
    (takesCommand s 0x011 = true →
      (w = taken s 0x011 0xA2 0#24 → exec (.keyLock 0#24) s = .next (postResult (setRgF w 0x011 0x44 1 1 1) 0x011 rOK 0xA2)) ∧
      (keyLocked s = true → w = taken s 0x011 0xA0 0#24 → exec (.keyEnable 0#24) s = .next (postResult w 0x011 rUNSUP 0xA0))))

/-! Registers and the blocks' control (02, 16, 17 R590 to R593, 18 R623 to R628). -/

/-- BLK_CONTROL and power (02 R42 to R45; 17 R590, R591; 18 R624 to R628): a write that R45 does not refuse sets the bit it
names; a self-test that may start runs, READY 0, and ends with the verdict; a block's domain goes off with its contents and
comes on. A command written while one runs whose DONE a result of R43 or R45 has set meanwhile is ignored (the model's choice,
log 51). -/
def Obligations.BlockControl : Prop :=
  ∀ (s u : State) (page : PageIx) (p : Nat) (v : Word), p = page.toNat →
    (∀ c code, s.canon = true → hostCommand c = some (p, code) → pageServed s p = true → (getPage s p).run.isSome = true →
      exec c s = .next (noteWrite s p) ∧ (getPage (noteWrite s p) p).result = (getPage s p).result) ∧
    (hubServed s p = true → u = noteWrite s p →
      (keepsBlock u p v = false → exec (.enable page v) s = .next (setCtl u p 0 (v.getLsbD 0))) ∧
      (keepsBlock u p v = true → exec (.enable page v) s = .next (postControl u p rBUSY)) ∧
      (exec (.quiesce page v) s = .next (setBlk (setCtl u p 1 (v.getLsbD 1)) p
        { getBlk (setCtl u p 1 (v.getLsbD 1)) p with busy := v.getLsbD 1 && workInFlight (setCtl u p 1 (v.getLsbD 1)) p })) ∧
      (v.getLsbD 2 = true → blkBusy u p = true → exec (.selftest page v) s = .next (postControl (setCtl u p 2 false) p rBUSY)) ∧
      (v.getLsbD 2 = true → blkBusy u p = false → hasTest p = false →
        exec (.selftest page v) s = .next (postControl (setCtl u p 2 false) p rUNSUP)) ∧
      (v.getLsbD 2 = true → blkBusy u p = false → hasTest p = true → (getBlk u p).pwrOn = true → testRefused u p = false →
        exec (.selftest page v) s = .next (setReady (setBlk (setCtl u p 2 true) p
          { getBlk (setCtl u p 2 true) p with testPage := some p }) p false)) ∧
      (hasDomain p = true → isRetiredPage u p = false →
        (v.getLsbD 3 = true → keepsBlock u p v = false → exec (.pwrReq page v) s = .next (setCtl u p 3 true)) ∧
        (v.getLsbD 3 = false → keepsBlock u p v = false → powerRefused u p = false →
          exec (.pwrReq page v) s = .next (setCtl u p 3 false)))) ∧
    (hasHeader p = true → ctl s p 1 = true → workInFlight s p = false →
      exec (.quiesceIdle page) s = .next (setBlk s p { getBlk s p with busy := false })) ∧
    (∀ ok f q r, (getBlk s p).testPage = some q → hasTest p = true →
      u = setBlk (setCtl s p 2 false) p { getBlk (setCtl s p 2 false) p with testPage := none } → r = testDone u p ok f →
      exec (.selftestEnd page ok f) s =
        .next (if r.1 then setReady (setBlk (postControl r.2 q rOK) p { getBlk (postControl r.2 q rOK) p with failed := false }) p true
          else postControl r.2 q rSELFTEST)) ∧
    (hasDomain p = true → ctl s p 3 = false → (getBlk s p).pwrOn = true → u = domainOff (loseContents s p) p →
      (isTilePage p = false → exec (.powerDomainOff page) s = .next u) ∧
      (isTilePage p = true → exec (.powerDomainOff page) s =
        .next { u with map := { u.map with fixed := smDel u.map.fixed (p - 0x100) } })) ∧
    (hasDomain p = true → ctl s p 3 = true → (getBlk s p).pwrOn = false → isRetiredPage s p = false →
      u = setBlk s p { getBlk s p with pwrOn := true } → exec (.powerDomainOn page) s =
        .next (countSwitches s (if isTilePage p && fwRunning s then factoryRepair u (p - 0x100) else u) 1))

/-- Reads and writes of registers (02 R52 to R58, R61, R72; 12 R393; 10 R324; 16 R548): a read answers the register, that of a
lower word with its upper word kept for the next read, and a 64-bit read both; BAR2 reads 0; an upper word is held for the lower
word's write, and a 64-bit write is both; a partial write is dropped with an event; an event written 1 clears, and its record with
the last; a write of 0 to `CNT_LO` clears the selected counter and its SAT, and any other is ignored. -/
def Obligations.RegisterAccesses : Prop :=
  ∀ (s u : State) (page : PageIx) (off : BitVec 12) (p o : Nat) (v : Word), p = page.toNat → o = off.toNat → o % 4 = 0 → s.canon = true →
    (hostServed s = true →
      ((getPage s p).snap = none → pairLo p o = false →
        exec (.lowerWordRead page ⟨off, false, false⟩) s =
          .next { s with resp := { code := 0, data := leBytes 4 (readReg s p o).toNat } }) ∧
      (exec (.lowerWordRead page ⟨off, true, false⟩) s = .next { s with resp := { code := 0, data := [0, 0, 0, 0] } }) ∧
      (pairLo p o = true → regServed s p = true → pairLo p (o + 4) = false →
        (∃ w, exec (.lowerWordRead page ⟨off, false, false⟩) s = .next w ∧
          w.resp = { code := 0, data := leBytes 4 (readReg s p o).toNat } ∧ w = { s with pages := w.pages, resp := w.resp } ∧
          ∀ off2 : BitVec 12, off2.toNat = o + 4 → ∃ x, exec (.lowerWordRead page ⟨off2, false, false⟩) w = .next x ∧
            x.resp = { code := 0, data := leBytes 4 (readReg s p (o + 4)).toNat }) ∧
        (o % 8 = 0 → ∃ w, exec (.lowerWordRead page ⟨off, false, true⟩) s = .next w ∧ w = { s with pages := w.pages, resp := w.resp } ∧
          w.resp = { code := 0, data := leBytes 4 (readReg s p o).toNat ++ leBytes 4 (readReg s p (o + 4)).toNat }))) ∧
    (hubServed s p = true → exec (.partialRegisterWrite page off) s = .next (raiseOpen s 0x000 0)) ∧
    (pageServed s p = true → u = noteWrite s p →
      (4 ≤ o → pairRW p (o - 4) = true →
        (rosterHeld s p o = false →
          exec (.upperWordWrite page off v) s = .next (setPage s p { getPage s p with snap := none, held := some (o, v) })) ∧
        (rosterHeld s p o = true → exec (.upperWordWrite page off v) s = .next (postControl u p rBUSY))) ∧
      (ownWrite p o = false → (pairRW p o = false ∨ heldUpper s p o = none) →
        exec (.registerWrite page off (.word v)) s = .next (writeReg u p o v)) ∧
      (ownWrite p o = false → pairRW p o = true → ∀ w, heldUpper s p o = some w →
        exec (.registerWrite page off (.word v)) s = .next (writeReg (writeReg u p (o + 4) w) p o v)) ∧
      (∀ w, pairRW p o = true → o % 8 = 0 → isTilePage p = false → p ≠ 0x07C →
        exec (.registerWrite page off (.wide v w)) s = .next (writeReg (writeReg u p (o + 4) w) p o v)) ∧
      ((getPage s p).raw &&& v.setWidth 16 = 0 → ∃ w, exec (.evtStickyClear page v []) s = .next w ∧
        (getPage w p).sticky = (getPage s p).sticky &&& ~~~(v.setWidth 16) ∧
        ((getPage w p).sticky = 0 → (getPage w p).errFirst = 0 ∧ (getPage w p).errInfo = 0)) ∧
      (v ≠ 0 → exec (.counterClear page v []) s = .next u) ∧
      (cntDefined p (getPage s p).cntSel.toNat = true → ∃ w, exec (.counterClear page 0 []) s = .next w ∧
        getCnt w p (getPage s p).cntSel.toNat = {} ∧
        ∀ k, k ≠ p * 256 + (getPage s p).cntSel.toNat → smGet (fun _ => ({} : Counter)) w.cnt k = smGet (fun _ => {}) s.cnt k))

/-- Writes with an effect of their own (09 R311; 10 R324; 12 R393; 05 R175; 01 R14; 18 R608; 19 R671): a launch time in the
future arms a loaded partition; a seed is taken at once or, beside a run, held; a staged map entry, a repair, a mode request
and an injection are taken. -/
def Obligations.ControlWrites : Prop :=
  ∀ (s u : State) (v : Word),
    (∀ (p : PartIx) (hi : Word), pageServed s 0x07C = true → u = noteWrite s 0x07C →
      exec (.launchAtWrite p false (some hi) v) s = .next (launchWrite u p.toNat (v.toNat + 2 ^ 32 * hi.toNat)) ∧
      (∀ g, g = v.toNat + 2 ^ 32 * hi.toNat → g ≠ 2 ^ 64 - 1 → hasImage s p.toNat = true → now s + 1024 ≤ g → s.canon = true →
        ∃ w, exec (.launchAtWrite p false (some hi) v) s = .next w ∧ (getPart w p.toNat).armed = some g ∧
          rg64 w 0x07C (0x40 + 16 * p.toNat) = g)) ∧
    (∀ (site : SiteIx) t (hi : Word), site.toNat < 136 → pageServed s (0x100 + site.toNat) = true → tileAt s site.toNat = some t →
      u = noteWrite s (0x100 + site.toNat) →
      exec (.rngSeedWrite site (some hi) v) s = .next (updPart u (partOf s t) (fun x =>
        if isRunning s (partOf s t) then { x with heldSeed := some (hi ++ v) } else { x with seed := hi ++ v })) ∧
      (v.getLsbD 31 = true → exec (.skinkFirstClear site v) s = .next
        (updTile (setRg (setRg u (0x100 + site.toNat) 0x200 0) (0x100 + site.toNat) 0x204 0) t (fun x => { x with skAt := none }))) ∧
      (hasImage s (partOf s t) = false → (getBlk s (0x100 + site.toNat)).testPage = none →
        s.fc.rot.any (fun (r : Nat × Nat) => r.2 == site.toNat) = false → ∀ f, f = smGet (fun _ => (0 : Word)) s.map.fixed site.toNat →
        exec (.arrayRepairWrite site v) s = .next (setRg u (0x100 + site.toNat) 0x118
          (repairHalf (repairHalf (rg s (0x100 + site.toNat) 0x118) v 0 16 (f.getLsbD 7)) v 8 17 (f.getLsbD 15))))) ∧
    (∀ off : BitVec 12, pageServed s 0x004 = true → off.toNat % 4 = 0 → 0x40 ≤ off.toNat → off.toNat < 0xC0 → anyImage s = false →
      u = noteWrite s 0x004 → exec (.siteMapStageWrite off v) s = .next (setRg u 0x004 off.toNat v)) ∧
    (pageServed s 0x001 = true → fld v 1 0 < 3 → s.canon = true →
      ∃ w, exec (.modeReqWrite v) s = .next w ∧ rgF w 0x001 0x40 1 0 = fld v 1 0 ∧
        rgF w 0x001 0x48 11 0 = max (rgF s 0x001 0x48 11 0) (setpoint (fld v 1 0)) ∧
        w = { s with pages := w.pages, regs := w.regs }) ∧
    (pageServed s 0x003 = true → s.boot.testMode = true → v.getLsbD 0 = true → 1 ≤ fld v 3 1 → fld v 3 1 ≤ 4 → fld v 15 8 ≠ 0 →
      u = noteWrite s 0x003 → exec (.faultInjectArm v) s = .next { setRg u 0x003 0x100
        (BitVec.ofNat 32 (1 + 2 * fld v 3 1 + 256 * fld v 15 8)) with
        fi := { kind := fld v 3 1, page := rgF s 0x003 0x104 8 0, data := rg s 0x003 0x108, left := fld v 15 8 } })

/-! Power and heat (18). -/

/-- Power modes, samples and stretching (18 R605 to R621): a mode change that may happen waits for its safe point and then
takes effect; a step or a release is decided and takes effect alike; samples and averages enter their registers; the trip
ends the device's service. Roundings the spec leaves open are free (log 15). -/
def Obligations.PowerSteps : Prop :=
  ∀ (s u w : State),
    (takesCommand s 0x001 = true → u = taken s 0x001 0x90 0#24 →
      (rgF s 0x001 0x40 1 0 = 3 → exec (.modeApply 0#24) s = .next (postResult u 0x001 rUNSUP 0x90)) ∧
      (rgF s 0x001 0x40 1 0 ≠ 3 → anyRunning s = true → exec (.modeApply 0#24) s = .next (postResult u 0x001 rBUSY 0x90)) ∧
      (rgF s 0x001 0x40 1 0 ≠ 3 → anyRunning s = false → rgF s 0x001 0x48 11 0 ≤ rgF s 0x007 0x4C 11 0 + 10 →
        exec (.modeApply 0#24) s = .next (postRunning (updPower u (fun x => { x with
          switch := some (modeDiv (rgF s 0x001 0x40 1 0), some (rgF s 0x001 0x40 1 0), now s + 210) })) 0x001 0x90))) ∧
    (∀ d m from_, s.power.switch = some (d, m, from_) → switchEdge s d from_ = true → aclkOn s = true → u = updPower s (fun x => { x with switch := none }) →
      (∀ k, m = some k → exec .dividerSwitch s = .next (modeChanged (setDivider u d k) k)) ∧
      (m = none → divider s < d → exec .dividerSwitch s = .next (stretched (setDivider u d (powerMode s)))) ∧
      (m = none → d ≤ divider s → exec .dividerSwitch s = .next (released (setDivider u d (powerMode s))))) ∧
    (divider s < 8 → s.power.switch = none → aclkOn s = true → s.power.lastStep = none →
      (thermalViol s = true ∨ s.power.pwrViol = true ∨ s.power.voltViol = true) →
      exec .stretchStep s = .next (updPower s (fun x => { x with switch := some (divider s + 1, none, now s + 210) }))) ∧
    (∀ c, stretch s ≠ 0 → s.power.switch = none → aclkOn s = true → s.power.relSince = some c → c + 100 * 1050000 ≤ now s →
      exec .stretchRelease s = .next (updPower s (fun x => { x with
        switch := some (divider s - 1, none, now s + 210), relSince := some (now s) }))) ∧
    (s.boot.hold = false → s.boot.perst = false →
      (∀ (power : BitVec 16) (vcore current : BitVec 12), setpoint (powerMode s) ≤ vcore.toNat + 5 →
        s.power.energy + power.toNat < 400 →
        u = updPower s (fun x => { x with samples := (power.toNat :: x.samples).take 10, energy := s.power.energy + power.toNat }) →
        exec (.powerSample power vcore current) s =
          .next (noteCalm (setRg u 0x007 0x4C (BitVec.ofNat 32 (vcore.toNat + 65536 * current.toNat))) false)) ∧
      (∀ rs : List (BitVec 8 × Int × Bool), u = (rs.filter (fun r => decide (r.1.toNat < 152))).foldl takeReading s →
        w = setRgF (setRgF (setRg u 0x006 0x40 (BitVec.ofNat 32 ((findHottest u).1 + 65536 * (findHottest u).2))) 0x006 0x48 1 1
          (decide (380 < (findHottest u).1)).toNat) 0x006 0x48 3 3 (!u.power.excluded.isEmpty).toNat →
        (findHottest u).1 ≤ 380 →
        exec (.sensorSample rs) s = .next (noteCalm (showThermal (raiseLevel w 0x006 3 false)) false)) ∧
      (∀ temp : BitVec 10, s.boot.tripPin = false → 440 ≤ temp.toNat → ∀ m,
        u = { s with boot := { s.boot with tripPin := true }, free := s.free + 1, mem := m } →
        m = memBlank { s.mem with poison := [] } 0 (sBase + sSize s) (s.free + 1) →
        exec (.thermtrip temp) s = .next (raiseOpen (goOos (setRgF u 0x006 0x48 2 2 1)) 0x006 1))) ∧
    (∀ sum, s.canon = true → s.power.samples.length = 10 → sum = s.power.samples.foldl (· + ·) 0 → sum ≤ 4 * 2000 * 10 →
      sum % 10 = 0 → s.power.overHist = [] →
      ∃ v, exec .powerAverage100us s = .next (noteCalm v false) ∧ rgF v 0x007 0x40 15 0 = sum / 10 ∧
        v.power.avgs = (sum :: s.power.avgs).take 10 ∧ v.power.samples = [] ∧ v.power.overRun = 0) ∧
    (∀ sum, s.canon = true → s.power.avgs.length = 10 → sum = s.power.avgs.foldl (· + ·) 0 → sum % 100 = 0 → sum < 100 * 65536 →
      s.power.msAvgs.length < 999 → (sum ≤ 400 * effCap s ∨ (powerMode s = 2 ∧ effCap s = 2000)) →
      ∃ v, exec .powerAverage1ms s = .next (noteCalm v false) ∧ rgF v 0x007 0x44 15 0 = sum / 100 ∧ v.power.avgs = [] ∧
        v.power.lastMs = some sum ∧ v.power.msAvgs = sum :: s.power.msAvgs)

/-! Launches, checks, announcements and recovery (08, 12, 13, 15 R518, R519, 17, 19, 20). -/

/-- A schedule's course (12 R391 to R396; 11 R331 to R333, R350; 08 R273 to R275; 13 R416 to R418): a launch count reached with
a loaded image runs the schedule, and is missed while a schedule runs, within 64 ticks of the last end, with no image ready or with
none for the mode; its segments begin aligned; a group of entries that is due is fetched, for the launch that runs or
for the one armed; a mark issues; a resume count reached goes on to the next segment, back to the check after an epoch, to the
replay or to the end; a finished schedule ends. -/
def Obligations.ScheduleCourse : Prop :=
  ∀ (s u : State) (p : PartIx) (r : Run) (c0 res acy : Nat) (t : TileIx) (stream : BitVec 3) (e : BitVec 128),
    (∀ g i m n, s.canon = true → m = powerMode s → n = rgF s 0x003 (0x50 + 4 * p.toNat) 12 0 → (getPart s p.toNat).armed = some g → g ≤ now s → s.oos = false → warmActive s = false →
      (getPart s p.toNat).img = some i → i.sched.getD m 0 ≠ 0 → (getPart s p.toNat).run = none →
      (∀ n, (getPart s p.toNat).lastEnd = some n → n + 64 ≤ g) → rgF s (imgPage p.toNat) 0x44 1 0 = 2 → role s ≠ 2 → stretch s = 0 →
      (getCnt s (imgPage p.toNat) 0).sat = false →
      (getCnt s (imgPage p.toNat) 0).value.toNat < 2 ^ 48 - 2 →
      u = forTiles (updPart s p.toNat (fun y => { y with armed := none })) p.toNat (fun v t => updTile v t (fun x =>
        { tileAtLaunch x with
          streams := if (getPart s p.toNat).fetchMode = some m then streamsOf x.ahead else streamsOf []
          ahead := [], fetchFrom := (getPart s p.toNat).armedAt, barred := refusesWork v (tpage v t) })) →
      exec (.launchStart p) s = .next (count1 (setRg (setImgState (syncLaunchState (setLast (updPart u p.toNat (fun y => { y with
        run := some { g := g, mode := m, segStart := g, replayMax := rgF s 0x07D 0x040 3 0, dupN := n,
                      dupPhi := if n = 0 then 0 else g % n,
                      committed := !hasCommit s p.toNat }
        fetchMode := none, scat := [] })) p.toNat 1) p.toNat) p.toNat 3) 0x07D 0x044 0) (imgPage p.toNat) 0)) ∧
    (∀ g, (getPart s p.toNat).armed = some g → g ≤ now s → s.oos = false → warmActive s = false →
      ((getPart s p.toNat).run.isSome = true ∨ (∃ n, (getPart s p.toNat).lastEnd = some n ∧ g < n + 64) ∨
        rgF s (imgPage p.toNat) 0x44 1 0 ≠ 2 ∨ (∀ i, (getPart s p.toNat).img = some i → i.sched.getD (powerMode s) 0 = 0)) →
      u = syncLaunchState (setLast (dropAhead (updPart s p.toNat (fun y => { y with armed := none })) p.toNat) p.toNat
        (if (getPart s p.toNat).img.any (fun i => i.sched.getD (powerMode s) 0 != 0) then 2 else 5)) p.toNat →
      exec (.launchStart p) s = .next (sendMsix (raiseOpen (count1 u (imgPage p.toNat) 1) (imgPage p.toNat) 1) (24 + p.toNat))) ∧
    (aclkOn s = true → (getPart s p.toNat).run = some r →
      (c0 = alignUp r.segStart (divAlign (divider s)) → r.begun = false → c0 ≤ now s → warmActive s = false →
        (0 < r.seg →
          u = forTiles s p.toNat (fun s t => setRg (setRg (updTile s t (fun x => tileAtSegment (x.base + acyclesTo r.divs c0) x))
            (tpage s t) 0x260 (BitVec.ofNat 32 (r.seg % 65536 + 2 ^ 31))) (tpage s t) 0x264 0) →
          exec (.segmentStart p) s = .next (updRun u p.toNat (fun q => { q with
            begun := true, divs := [(c0, divider u)], replayAnn := false
            moving := if r.replayAnn then (partTiles u p.toNat).filter u.fc.due.contains else [] }))) ∧
        (r.seg = 0 → r.replayAnn = false →
          u = forTiles (updPart s p.toNat (fun x => { x with poison := false, scat := [] })) p.toNat (fun s t =>
            setRg (setRg (updTile s t (tileAtSegment 0)) (tpage s t) 0x260 (BitVec.ofNat 32 (2 ^ 31))) (tpage s t) 0x264 0) →
          exec (.segmentStart p) s = .next (updRun u p.toNat (fun q => { q with
            begun := true, divs := [(c0, divider u)], replayAnn := false, moving := []
            snapTiles := (partTiles u p.toNat).map (snapTile u), snapSync := snapObjects u p.toNat })))) ∧
      (r.resume = some res → res ≤ now s →
        (r.abandonAnn.isSome = true → exec (.resumeStep p) s = .next (abandonRun s p.toNat res)) ∧
        (r.abandonAnn = none → r.replayAnn = true → exec (.resumeStep p) s = .next (endWait (updRun s p.toNat (fun r => { r with
          g := res, seg := 0, segStart := res, begun := false, shift := 0, waiting := none, answer := 0, firstA := none,
          resume := none, epochAnn := false, inEpoch := false, committed := false, cause3 := false, epochs := 0,
          dupPhi := if r.dupN = 0 then 0 else res % r.dupN })) p.toNat)) ∧
        ((partTiles s p.toNat).all (fun t => repeatsDone (getTile s t)) = true → r.abandonAnn = none → r.replayAnn = false →
          (r.inEpoch = false → openNext s p.toNat r = s) ∧
          (r.inEpoch = false ∨ (needsEpoch s p.toNat = false ∧ isCommit s p.toNat r.seg = false) → exec (.resumeStep p) s =
            .next (endWait (updRun (openNext s p.toNat r) p.toNat (fun r' => { r' with
              seg := r'.seg + 1, segStart := res, begun := false, waiting := none, answer := 0, firstA := none, resume := none
              shift := r'.shift + checkShift (lambda s p.toNat) r (expectedAt s p.toNat r) res
              epochAnn := false, inEpoch := false })) p.toNat)) ∧
          (r.inEpoch = true → (needsEpoch s p.toNat = true ∨ isCommit s p.toNat r.seg = true) →
            u = forTiles s p.toNat (fun s t => updTile s t (fun x => { x with epoch := none })) →
            exec (.resumeStep p) s = .next (answerCheck (updRun u p.toNat (fun r => { r with
              resume := none, answer := 0, inEpoch := false, epochAnn := false })) p.toNat)))) ∧
      ((r.begun = true ∨ r.abandonAnn.isSome = true) →
        (partTiles s p.toNat).all (fun t => (getTile s t).streams.all (fun y => y.ended && y.q.isEmpty) &&
          (getTile s t).moves.isEmpty && (getTile s t).replay.isEmpty && (getTile s t).conv.isEmpty && (getTile s t).running.isNone &&
          (getTile s t).feeds.isEmpty && (getTile s t).blocks.all (fun b => b.verd)) = true →
        exec (.scheduleEnd p) s = .next (endRun s p.toNat))) ∧
    (stream.toNat < 5 → aclkOn s = true → warmActive s = false → s.oos = false → ∀ (g : Group) errs,
      ((getPart s (partOf s t.toNat)).run = some r →
        nextGroup s t.toNat r.mode stream.toNat (getStrm (getTile s t.toNat) stream.toNat).fetched = some g →
        groupDue (getTile s t.toNat) r g acy = true →
        exec (.scheduleFetch t stream acy errs) s = .next (fetchRun s t.toNat stream.toNat acy r g errs)) ∧
      ((getPart s (partOf s t.toNat)).run = none → aheadGroup s t.toNat stream.toNat = some g →
        exec (.scheduleFetch t stream acy errs) s = .next (fetchAhead s t.toNat stream.toNat g errs))) ∧
    (aclkOn s = true → front s t.toNat stream.toNat = some e → eMark e = true →
      canIssue s t.toNat stream.toNat (absAcy s t.toNat acy) e true (some 0) = true →
      exec (.epochPointMark t stream acy) s =
        .next (answerCheck (issueMark s t.toNat stream.toNat (absAcy s t.toNat acy) e) (partOf s t.toNat)))

/-- Violations, verdicts and moves (11 R349, R376; 17 R594 to R597; 19 R645, R654, R665, R668; 20 R675): a blocked entry at its
OFFSET in strict mode stops its tile and is recorded; a hang is counted and recorded; an equal verdict is counted, and one that differs recorded and charged; a due move
takes the quadrant's lowest free site; a rotating self-test starts and ends; a lull ends. -/
def Obligations.FaultsAndRecovery : Prop :=
  ∀ (s u : State) (t : TileIx) (p : Nat), p = tpage s t.toNat →
    (∀ (stream : BitVec 3) acy e c d, issuing s t.toNat = true → strict s t.toNat = true →
      (getStrm (getTile s t.toNat) stream.toNat).marked = false → eOffset e = acy → rgF s p 0x268 31 31 = 0 →
      ((∃ b, front s t.toNat stream.toNat = some e ∧ c = b.cause ∧ d = b.detail ∧
          (issueObstacles s t.toNat stream.toNat e).find? (fun b => b.at_ (absAcy s t.toNat acy)) = some b) ∨
        (c = 3 ∧ d = 0 ∧ front s t.toNat stream.toNat = some e ∧
          (issueObstacles s t.toNat stream.toNat e).find? (fun b => b.at_ (absAcy s t.toNat acy)) = none ∧
          unitAccepts s t.toNat stream.toNat (absAcy s t.toNat acy) e = false) ∨
        (c = 3 ∧ d = 0 ∧ front s t.toNat stream.toNat = none ∧ (unfetched s t.toNat stream.toNat).head? = some e)) →
      exec (.contractViolation t stream acy) s = .next (traise (updTile (setRg (setRg s p 0x268
        (BitVec.ofNat 32 (eOp e + 2 ^ 24 * stream.toNat + 2 ^ 27 * c + 2 ^ 31))) p 0x26C (BitVec.ofNat 32 d)) t.toNat
        (fun x => { x with stopped := true })) t.toNat 12 (eOp e))) ∧
    (∀ (stream : BitVec 3) r i, (getPart s (partOf s t.toNat)).run = some r → r.begun = true → warmActive s = false →
      rgF s 0x002 0x040 19 0 < streamLag s t.toNat stream.toNat → hangFirst s t.toNat stream.toNat = true → rgF s 0x002 0x044 31 31 = 0 →
      i = BitVec.ofNat 32 (partOf s t.toNat + 256 * (t.toNat - firstTile s (partOf s t.toNat)) + 65536 * stream.toNat + 2 ^ 31) →
      exec (.hangDetected t stream) s = .next (raise (count1 (setRg s 0x002 0x044 i) 0x002 3) 0x002 0 i.toNat)) ∧
    (∀ code : Word, hostServed s = true → exec (.internalError code) s = .next (raise s 0x003 3 code.toNat)) ∧
    (∀ (site : SiteIx) h, s.fc.shadows.find? (fun h => h.site == site.toNat) = some h → s.fi.left = 0 →
      u = { s with fc := { s.fc with shadows := s.fc.shadows.filter (fun k => k.site ≠ site.toNat) } } →
      (h.differs = false → exec (.dupVerdict site true) s = .next (answerCheck (count1 u 0x003 6) (partOf s h.tile))) ∧
      (∀ sound v, (sound = false ∨ h.differs = true) → rgF s 0x003 0x68 31 31 = 0 →
        v = setRg (setRg u 0x003 0x68 (BitVec.ofNat 32 (h.op % 2 ^ 24 + 2 ^ 31))) 0x003 0x6C
          (BitVec.ofNat 32 (h.tile + 256 * site.toNat + 65536 * h.kind)) →
        exec (.dupVerdict site sound) s = .next (answerCheck (raise (charge
          (count1 (count1 (chargeTile v h.tile) 0x003 7) (0x100 + site.toNat) 0x60) (256 + site.toNat))
          0x003 0 (h.tile + 256 * site.toNat)) (partOf s h.tile)))) ∧
    (∀ x l, (getPart s (partOf s t.toNat)).run = none → s.fc.due = [t.toNat] → freeSites s (siteOf s t.toNat / 34) = x :: l →
      exec (.siteMove t) s = .next (moveTile s t.toNat x)) ∧
    (∀ (q : BitVec 2) x, nextRot s q.toNat = some x → rgF s 0x000 0x50 0 0 = 1 → fwRunning s = true → warmActive s = false →
      aclkOn s = true → rotDue s q.toNat = true → s.fc.rot = [] → s.fc.shadows = [] →
      exec (.rotSelftestStart q) s = .next (setRgF { s with fc := { s.fc with
        rot := [(q.toNat, x)], rotLast := (q.toNat, x, now s) :: s.fc.rotLast.filter (fun r => r.1 ≠ q.toNat) } }
        0x000 0x54 (8 * q.toNat + 7) (8 * q.toNat) x)) ∧
    (∀ (q : BitVec 2) x ok f v, s.fc.rot = [(q.toNat, x)] →
      v = testDone (setRgF { s with fc := { s.fc with rot := [] } } 0x000 0x54 (8 * q.toNat + 7) (8 * q.toNat) 0xFF) (0x100 + x) ok f →
      exec (.rotSelftestDone q ok f) s = .next (if v.1 then count1 v.2 0x000 1 else v.2)) ∧
    (s.fc.active = true → s.oos = false → s.fc.lullEnd ≤ now s →
      exec .lullEnd s = .next (count1 (setRg (setRg { s with fc := { s.fc with active := false } } 0x003 0x60 0) 0x003 0x64 0) 0x003 5))

/-! The array (04, 05, 07, 08). -/

/-- Feeds and passes (07 R221; 11 R336 to R338, R345): a FEED whose links all have room starts its operation's next feed of its
side, which presents its first step its latency on; a KPASS whose two feeds have issued joins them in the operation's block,
which is complete with LAST, and neither presents a step before. -/
def Obligations.ArrayInstructions : Prop :=
  ∀ (s u : State) (t : TileIx) (acy a : Nat) (e : BitVec 128), a = absAcy s t.toNat acy →
    (∀ side : BitVec 1, mayIssueFrom s t.toNat side.toNat acy e 1 (some (feederFrom (getTile s t.toNat) side.toNat (wShape (eWord e)))) = true →
      feederRoom (getTile s t.toNat) side.toNat (wShape (eWord e)) = true → u = issued s t.toNat side.toNat acy e →
      exec (.feed t side acy) s = .next (feedAct t.toNat side.toNat a e u) ∧
      (∀ f lat x fd0 fd, x = getTile u t.toNat → f = fcbAt u t.toNat (wFcb (eWord e)) → lat = feedLatency (tdesc u t.toNat f.desc) f →
        fd0 = { feedOfEntry side.toNat e with
          occ := smGet (fun _ => 0) x.occurs (side.toNat * 2 ^ 24 + eOp e), issue := a, tag := x.moveTag } →
        fd = { fd0 with first := a + lat, lat := lat, src := (feedSource u t.toNat fd0).1, pages := (feedSource u t.toNat fd0).2 } →
        u.canon = true → smWf (fun _ => 0) x.occurs = true →
        ∃ v, exec (.feed t side acy) s = .next (tcount v t.toNat 0x5B (feedEmpty (mkFeedCtx u t.toNat fd [] []))) ∧
          v = { u with tiles := v.tiles } ∧ (∀ k, k ≠ t.toNat → getTile v k = getTile u k) ∧
          (getTile v t.toNat).feeds = x.feeds ++ [fd] ∧
          smGet (fun _ => 0) (getTile v t.toNat).occurs (side.toNat * 2 ^ 24 + eOp e) = fd.occ + 1)) ∧
    (∀ gr gc fr fc, (getTile s t.toNat).feeds.find? (passMate (getTile s t.toNat) 0 e) = some gr →
      (getTile s t.toNat).feeds.find? (passMate (getTile s t.toNat) 1 e) = some gc →
      mayIssueFrom s t.toNat 2 acy e 0x10 (some (max gr.issue gc.issue)) = true → u = issued s t.toNat 2 acy e →
      (getTile u t.toNat).feeds.find? (passMate (getTile u t.toNat) 0 e) = some fr →
      (getTile u t.toNat).feeds.find? (passMate (getTile u t.toNat) 1 e) = some fc →
      exec (.kpass t acy) s = .next (kpassAct t.toNat a e fr fc u) ∧
      (u.canon = true → ∃ v, exec (.kpass t acy) s = .next v ∧ v = { u with tiles := v.tiles } ∧
        (∀ k, k ≠ t.toNat → getTile v k = getTile u k) ∧
        (∃ b p, b ∈ (getTile v t.toNat).blocks ∧ b.op = eOp e ∧ b.complete = wLast (eWord e) ∧ b.passes.getLast? = some p ∧
          p.fcbR = fr.fcb ∧ p.fcbC = fc.fcb ∧ p.steps = ceilDiv p.klen p.stepLen ∧
          (getTile v t.toNat).nextStep = (getTile u t.toNat).nextStep + p.steps) ∧
        (∀ f ∈ (getTile v t.toNat).feeds, f.tag = fr.tag ∨ f.tag = fc.tag → a ≤ f.first)))

/-- What the array does at its acycles (04 R121 to R133; 05 R148 to R173; 07 R235 to R237; 08 R257, R262 to R269; 11 R351, R359).
A lane presents a step: each of its links takes the elements, and the lane moves on. A cell steps on the entries at its two links:
its accumulator takes the sum of their products, no other cell changes; with excluded positions its outlier step follows. A row
swaps: each of its cells' shadow accumulators takes the active one, which is 0 again. A row enters the conversion path with its
shadow accumulators, and is written its format's latency later. A block's verdict comes 96 acycles after its drain: its lines
are verified, or the mismatch is counted, recorded and acted on. A feed's statistics are written two acycles after its last step.
A block's precision is decided two acycles after its last feed: no trigger lets it stand, a trigger queues a repeat at the next
rung, or is raised where there is none. The first queued repeat begins in its acycle, in a window that it fits. -/
def Obligations.ArrayEvents : Prop :=
  ∀ (s : State) (t : TileIx) (acy a : Nat) (x : Tile), x = getTile s t.toNat → a = absAcy s t.toNat acy → aclkOn s = true →
    (∀ (f : BitVec 1) (lane : BitVec 10) q u, u = updTile s t.toNat (landDue a) → presentOf u t.toNat f.toNat lane.toNat = some q →
      presentDue (getTile u t.toNat) a q = true →
      exec (.feedPresent t f lane acy) s = .next (presentStep u t.toNat a q) ∧
      ∀ (y z : Tile) es, smWf (fun _ => []) y.rowLinks = true → smWf (fun _ => []) y.colLinks = true →
        smWf (fun _ => (0, 0)) q.fd.lanes = true → z = presentStore y a q es →
        (∀ k ∈ laneLinks f.toNat q.fd.shape lane.toNat, getLink z f.toNat k =
          getLink y f.toNat k ++ [{ blk := q.b.id, step := q.p.base + q.step, elems := es, at_ := a }]) ∧
        ∀ g ∈ z.feeds, g.tag = q.fd.tag → laneSteps g lane.toNat = q.step + 1) ∧
    (∀ (r c : BitVec 7) b p e k, cellEntries x r.toNat c.toNat = some (b, p, e, k) → a = stepAt x r.toNat c.toNat b e k →
      smWf (fun _ => {}) x.cells = true → ∀ inj, inj = (if b.bf16 then none else injectHere s t.toNat r.toNat c.toNat) →
      ∃ y ev v w, exec (.arrayStep t r c acy) s = .next (arithEvent (if r.toNat = 0 ∧ c.toNat = 0 then tcount v t.toNat 0x20 1 else v)
          t.toNat (cellPlace b r.toNat c.toNat (p.step0 + (e.step - p.base)) a) ev) ∧
        v = (if inj.isSome then injectUsed w else w) ∧
        w = noteStalls (setTile s t.toNat y) t.toNat 0x21 (stallFrom x r.toNat c.toNat b p e.step) a ∧
        (r.toNat < 64 → c.toNat < 64 → ((getCell y r.toNat c.toNat).act, ev) = cellStep (getCell x r.toNat c.toNat).act
          (stepTerms e.elems k.elems inj).1 ∧
          (inj = none → (stepTerms e.elems k.elems inj).1 = (stepPairs e.elems k.elems).map (fun q => (q.1.value, q.2.value)))) ∧
        (getCell y r.toNat c.toNat).next = e.step + 1 ∧ (getCell y r.toNat c.toNat).at_ = a ∧
        (b.bf16 = false → inj = none → (getCell y r.toNat c.toNat).res = ((getCell x r.toNat c.toNat).res +
          toRes ((stepPairs e.elems k.elems).foldl (fun n q => n + q.1.int * q.2.int) 0)) % resP) ∧
        ∀ j, j ≠ 65 * r.toNat + c.toNat → smGet (fun _ => {}) y.cells j = smGet (fun _ => ({} : Cell)) x.cells j) ∧
    (∀ (r c : BitVec 7) b p, outlierDue x r.toNat c.toNat = some (b, p) → (getCell x r.toNat c.toNat).outDue = true →
      0 < (getCell x r.toNat c.toNat).next → a = (getCell x r.toNat c.toNat).at_ + 1 → smWf (fun _ => {}) x.cells = true →
      ∃ y ev, exec (.outlierStep t r c acy) s = .next (arithEvent (if r.toNat = 0 ∧ c.toNat = 0 then
          tcount (setTile s t.toNat y) t.toNat 0x20 1 else setTile s t.toNat y) t.toNat
          (cellPlace b r.toNat c.toNat (p.step0 + p.steps) a) ev) ∧
        ((getCell y r.toNat c.toNat).act, ev) = cellStep (getCell x r.toNat c.toNat).act (outlierTerms b p r.toNat c.toNat) ∧
        (getCell y r.toNat c.toNat).outDue = false ∧
        ∀ j, j ≠ 65 * r.toNat + c.toNat → smGet (fun _ => {}) y.cells j = smGet (fun _ => ({} : Cell)) x.cells j) ∧
    (∀ (r : BitVec 7) b, swapBlock x r.toNat = some b → swapReady x r.toNat b = true → r.toNat ≤ 64 → a = swapAcy x r.toNat b →
      exec (.arraySwap t r acy) s = .next (swapAct s t.toNat r.toNat a b) ∧
      (s.canon = true → a ≤ b.schedSwap + b.slack → ∃ v, exec (.arraySwap t r acy) s = .next v ∧ v = { s with tiles := v.tiles } ∧
        (∀ k, k ≠ t.toNat → getTile v k = getTile s k) ∧
        getTile v t.toNat = { setARow (swapCells x r.toNat) r.toNat { getARow x r.toNat with swaps := b.id + 1, swapAt := a } with
          running := (getTile v t.toNat).running }) ∧
      (smWf (fun _ => {}) x.cells = true → ∀ c, c ≤ 64 → (getCell (swapCells x r.toNat) r.toNat c).shd = (getCell x r.toNat c).act ∧
        (getCell (swapCells x r.toNat) r.toNat c).act = 0)) ∧
    (∀ (r : BitVec 6) b, enterBlock x r.toNat = some b → enterReady x r.toNat a b = true →
      exec (.drainRowEnter t r acy) s = .next (enterAct s t.toNat r.toNat a b) ∧
      (s.canon = true → smWf (fun _ => {}) x.rows = true → (enterRivals x a).all (fun q => q.1 == r.toNat) = true →
        (r.toNat = 63 → b.late = true ∨ a ≤ b.schedSwap + 64 + b.slack) →
        ∃ v, exec (.drainRowEnter t r acy) s = .next v ∧ v = { s with tiles := v.tiles } ∧
          (∀ k, k ≠ t.toNat → getTile v k = getTile s k) ∧
          (∃ v', (getTile v t.toNat).conv = x.conv ++ [v'] ∧ v'.blk = b.id ∧ v'.row = r.toNat ∧ v'.entered = a ∧
            v'.acc = (List.range 64).map (fun c => (getCell x r.toNat c).shd) ∧
            v'.res = (List.range 64).map (fun c => (getCell x r.toNat c).shRes) ∧ v'.chk = (getCell x r.toNat 64).shRes) ∧
          (getARow (getTile v t.toNat) r.toNat).entered = (getARow x r.toNat).swaps)) ∧
    (∀ (r : BitVec 6) v b q y u w, y = landDue a x → y.conv.find? (fun v => v.row == r.toNat) = some v → blockById y v.blk = some b →
      drainOf s t.toNat a b v.row = some q → a = v.entered + (if q.fmt.isNarrow then 9 else 6) →
      u = setTile s t.toNat { y with
        conv := y.conv.filter (fun i => !(i.row == v.row && i.blk == v.blk))
        readers := endHolds y.readers b.tag a (fun i => !(q.pagesLeft s).contains i)
        pend := endHolds y.pend b.tag a (fun i => !(q.pagesLeft s).contains i) } →
      w = (if samples s t.toNat && rowBytes (drainRow u q { v with acc := v.dup }) q != rowBytes (drainRow u q v) q then
        updTile (drainRow u q v) t.toNat (fun x => updBlock x b.id (fun b => { b with dupBad := true })) else drainRow u q v) →
      exec (.drainRowWrite t r acy) s = .next (match blockById (getTile w t.toNat) b.id with
        | some b' => if r.toNat = 63 then drainDone w t.toNat a b' else w
        | none => w)) ∧
    (∀ b u, verdictBlock x a = some b → u = updTile s t.toNat (fun x => updBlock x b.id (fun y => { y with verd := true })) →
      (checksBad b = false → exec (.checksumVerdict t acy) s = .next (updTile (updTile (tcount u t.toNat 0x24 1) t.toNat
        (fun x => { x with unver := freeLines x.unver b a })) t.toNat sweepBlocks)) ∧
      (checksBad b = true → exec (.checksumVerdict t acy) s = .next (updTile (mismatchAct (chargeTile (traise
        (chkRecord (tcount u t.toNat 0x25 1) t.toNat b) t.toNat 5 b.op) t.toNat) t.toNat a b) t.toNat sweepBlocks)) ∧
      (∀ l, ∀ i ∈ freeLines l b a, i.blk = b.id → i.free.isSome = true) ∧ b.drainDone = some (a - 96) ∧ 96 ≤ a) ∧
    (∀ (f : BitVec 1) fd k v, statsFeed x f.toNat a = some fd → k = fcbAt s t.toNat fd.fcb →
      v = k.statOff + 4 * statBase (tdesc s t.toNat k.desc) k → smWf (fun _ => (0 : Byte)) x.store = true →
      ∃ y, exec (.statsWrite t f acy) s = .next (setTile s t.toNat y) ∧ (∀ g ∈ y.feeds, g.tag ≠ fd.tag) ∧
        (∀ i, i < k.klen → (x.lastStat.1 ≠ a + 1 ∨ v + 4 * i < x.lastStat.2.1 ∨ x.lastStat.2.1 + 4 * x.lastStat.2.2.length ≤ v + 4 * i) →
          tsNat y (v + 4 * i) 4 = (if k.stats = 1 then
            statMax (tsNat x (v + 4 * i) 4) (smGet (fun _ => 0) fd.amax i) else smGet (fun _ => 0) fd.amax i) % 2 ^ 32) ∧
        (∀ i j, i < k.klen → x.lastStat.1 = a + 1 → v + 4 * i = x.lastStat.2.1 + 4 * j → j < x.lastStat.2.2.length →
          tsNat y (v + 4 * i) 4 = statMax (statMax (x.lastStat.2.2.getD j 0) (tsNat x (v + 4 * i) 4)) (smGet (fun _ => 0) fd.amax i) % 2 ^ 32) ∧
        ∀ i, (i < v ∨ v + 4 * k.klen ≤ i) → tsGet y i = tsGet x i) ∧
    (∀ b r u, decisionBlock x a = some b → r = precAt s t.toNat b.prec →
      u = (fun d => updTile s t.toNat (fun x => updBlock x b.id (fun y => { y with decided := true, exhausted := d }))) →
      (trigger b r = 0 → exec (.fallbackDecision t acy) s = .next (updTile (writeReport (u false) t.toNat b.id) t.toNat sweepBlocks)) ∧
      (trigger b r ≠ 0 → b.rung + 1 ≤ r.top → exec (.fallbackDecision t acy) s = .next (updTile (writeReport (precFirst (tcount
        (updTile (u false) t.toNat (fun x => { x with replay := x.replay ++
          [{ blk := b, rung := b.rung + 1, kind := 1, cost := if b.rung = 0 then r.costFp8 else r.costBf16, at_ := a }] }))
        t.toNat 0x3E 1) t.toNat b.op (trigger b r) b.rung)
        t.toNat b.id) t.toNat sweepBlocks)) ∧
      (trigger b r ≠ 0 → r.top < b.rung + 1 → exec (.fallbackDecision t acy) s = .next (updTile (writeReport
        (traise (u true) t.toNat 10 b.op) t.toNat b.id) t.toNat sweepBlocks)) ∧
      (trigger b r = 0 ↔ b.rung = 2 ∨ (b.ins.sat ≤ r.satLimit ∧ b.ins.zero ≤ r.zeroLimit ∧ b.ins.zblk = 0 ∧ b.ins.sblk = 0 ∧
        (b.rung = 0 → b.misses = 0)))) ∧
    (∀ q l b, x.replay = q :: l → a + 17 = repeatStart x q → warmActive s = false → s.oos = false → windowFits s t.toNat q = true →
      b = repeatBlock x q →
      exec (.repeatStart t acy) s = .next (tcount (reopen (setTile s t.toNat { x with
        nextBlk := x.nextBlk + 1
        moveTag := x.moveTag + 1
        replay := l
        running := some b.id
        blocks := x.blocks ++ [b]
        repFree := a + 17 + q.cost }) t.toNat b (a + 17) q.blk.passes) t.toNat 0x41 q.cost) ∧
      b.rung = q.rung ∧ b.op = q.blk.op ∧ b.num = q.blk.num ∧ b.prevIds = q.blk.id :: q.blk.prevIds)

/-! The Skink lanes (09). -/

/-- Element-wise instructions (09 R286 to R296): each issues on stream 3, is counted, and sends its elements' results to VD
under the mask, to be read from its latency on, with its exceptions; a compare sends mask bits to an M register. Beside the tile
only the copies of a site that shadows it change (19 R644). -/
def Obligations.LaneInstructions : Prop :=
  ∀ (s u v : State) (t : TileIx) (acy a : Nat) (e : BitVec 128) (op : Nat) (c : Instr) (w ew : Nat) (x : Tile),
    mayIssue s t.toNat 3 acy e op = true → u = tcount (issued s t.toNat 3 acy e) t.toNat 0x48 1 → w = eWord e →
    ew = kWidth (kType w) → x = getTile u t.toNat → a = absAcy s t.toNat acy →
    (∀ lat (f : Nat → Bool → Nat → Nat → Nat → Nat × KEv), (c, op, lat, f) ∈
        [(Instr.fadd t acy, 0x01, 4, elFadd), (.fsub t acy, 0x02, 4, elFsub), (.fmul t acy, 0x03, 4, elFmul),
         (.fma t acy, 0x04, 4, elFma), (.vmin t acy, 0x05, 2, elMin), (.vmax t acy, 0x06, 2, elMax), (.sel t acy, 0x0C, 2, elSel),
         (.iadd t acy, 0x10, 2, elInt (· + ·)), (.isub t acy, 0x11, 2, elInt (· - ·)), (.imul t acy, 0x12, 3, elInt (· * ·)),
         (.shl t acy, 0x18, 2, elShift shiftLeft), (.shrl t acy, 0x19, 2, elShift shiftRight),
         (.shra t acy, 0x1A, 2, elShift shiftArith), (.rotl t acy, 0x1B, 2, elShift rotateLeft),
         (.vand t acy, 0x20, 2, elLogic (fun a b => a &&& b)), (.vor t acy, 0x21, 2, elLogic (fun a b => a ||| b)),
         (.vxor t acy, 0x22, 2, elLogic (fun a b => a ^^^ b)), (.vnot t acy, 0x23, 2, elLogic (fun a _ => notCode a)),
         (.vandn t acy, 0x24, 2, elLogic (fun a b => a &&& notCode b)), (.exp2 t acy, 0x30, 8, elExp2), (.log2 t acy, 0x31, 8, elLog2),
         (.rcp t acy, 0x32, 8, elRcp), (.rsqrt t acy, 0x33, 8, elRsqrt)] →
      ∀ rs, rs = (List.range (kElems (kType w))).map (fun i => f w ((mReg x (kMask w)).getLsbD i) (vElem (vReg x (kVA w)) ew i)
        (vElem (vReg x (kVB w)) ew i) (vElem (vReg x (kVC w)) ew i)) →
      v = skinkEvents (setTile u t.toNat (launchResult x (a + lat) (laneResult x w ew rs))) t.toNat (eOp e) op
        (a + lat) (laneEvents x w rs) → ∃ y, exec c s = .next (withTwin v t.toNat y)) ∧
    (∀ (f : Nat → Nat → Nat → Bool × KEv), (c, op, f) ∈
        [(Instr.cmpEq t acy, 0x08, elCompare (fun _ eq => eq) false), (.cmpLt t acy, 0x09, elCompare (fun lt _ => lt) false),
         (.cmpLe t acy, 0x0A, elCompare (fun lt eq => lt || eq) false), (.cmpNe t acy, 0x0B, elCompare (fun _ eq => !eq) true)] →
      ∀ rs, rs = (List.range (kElems (kType w))).map (fun i => f w (vElem (vReg x (kVA w)) ew i) (vElem (vReg x (kVB w)) ew i)) →
      v = skinkEvents (setTile u t.toNat (launchResult x (a + 2) (.mreg (kVD w % 8)
        (natOfBits ((List.range 256).map (fun i => decide (kElems (kType w) ≤ i) || kEnabled x w i)))
        (natOfBits (rs.map (fun r => r.1)))))) t.toNat (eOp e) op (a + 2)
        ((rs.zipIdx).map (fun r => if kEnabled x w r.2 then r.1.2 else ({} : KEv))) → ∃ y, exec c s = .next (withTwin v t.toNat y))

/-- 09 R296, and the integer operations of R295: shifts and rotates count modulo the width; logic operations act on each bit,
whatever the type; integer results wrap, or with SAT are clamped to the type's range and marked as clamped. -/
def Obligations.LaneArithmetic : Prop :=
  ∀ (w a b c ew : Nat) (m : Bool), ew = kWidth (kType w) → a < 2 ^ ew → b < 2 ^ ew →
    ((elShift shiftLeft w m a b c).1 = (BitVec.ofNat ew a <<< (b % ew)).toNat ∧
      (elShift shiftRight w m a b c).1 = (BitVec.ofNat ew a >>> (b % ew)).toNat ∧
      (elShift shiftArith w m a b c).1 = ((BitVec.ofNat ew a).sshiftRight (b % ew)).toNat ∧
      (elShift rotateLeft w m a b c).1 = ((BitVec.ofNat ew a).rotateLeft (b % ew)).toNat) ∧
    (∀ p q : BitVec 2048, ∀ (f : Nat → Nat → Nat) (r : BitVec 2048),
      ((f = (fun a b => a &&& b) ∧ r = p &&& q) ∨ (f = (fun a b => a ||| b) ∧ r = p ||| q) ∨ (f = (fun a b => a ^^^ b) ∧ r = p ^^^ q) ∨
        (f = (fun a _ => notCode a) ∧ r = ~~~p) ∨ (f = (fun a b => a &&& notCode b) ∧ r = p &&& ~~~q)) →
      vOfElems ew ((List.range (kElems (kType w))).map (fun i => (elLogic f w m (vElem p ew i) (vElem q ew i) c).1)) = r.toNat) ∧
    (kSat w = false → elInt (· + ·) w m a b c = ((a + b) % 2 ^ ew, {}) ∧ elInt (· - ·) w m a b c = ((a + 2 ^ ew - b) % 2 ^ ew, {}) ∧
      elInt (· * ·) w m a b c = (a * b % 2 ^ ew, {})) ∧
    (kSat w = true → kUns w = true →
      elInt (· + ·) w m a b c = (if a + b < 2 ^ ew then (a + b, {}) else (2 ^ ew - 1, { sat := true })) ∧
      elInt (· - ·) w m a b c = (if b ≤ a then (a - b, {}) else (0, { sat := true })) ∧
      elInt (· * ·) w m a b c = (if a * b < 2 ^ ew then (a * b, {}) else (2 ^ ew - 1, { sat := true }))) ∧
    (kSat w = true → kUns w = false → ∀ (f : Int → Int → Int) (r : Int), r = f (signExt ew a) (signExt ew b) →
      ((-(2 ^ (ew - 1) : Int) ≤ r ∧ r < (2 ^ (ew - 1) : Int) → elInt f w m a b c = ((r % (2 ^ ew : Int)).toNat, {})) ∧
       (r < -(2 ^ (ew - 1) : Int) → elInt f w m a b c = (2 ^ (ew - 1), { sat := true })) ∧
       ((2 ^ (ew - 1) : Int) ≤ r → elInt f w m a b c = (2 ^ (ew - 1) - 1, { sat := true }))))

/-- Reductions (09 R305 to R309): each continues its chain, or begins one with FIRST, and with LAST sends its result to VD eight
acycles on and ends the chain. -/
def Obligations.ReductionInstructions : Prop :=
  ∀ (s u v : State) (t : TileIx) (acy a : Nat) (e : BitVec 128) (op : Nat) (c : Instr) (w i : Nat) (x : Tile)
    (f : Nat → Option RChain → List RLane → RChain × KEv) (out : Nat → RChain → Nat × KEv) (ch : RChain) (ev : KEv),
    mayIssue s t.toNat 3 acy e op = true → u = tcount (issued s t.toNat 3 acy e) t.toNat 0x49 1 → w = eWord e → x = getTile u t.toNat →
    i = bits (kImm w) 3 2 → a = absAcy s t.toNat acy →
    (c, op, f, out) ∈ [(Instr.redSum t acy, 0x40, redSum, outSum), (.redMax t acy, 0x41, redExt 0x41 true maxIdent (fun _ v => v), outExt),
      (.redMin t acy, 0x42, redExt 0x42 false minIdent (fun _ v => v), outExt), (.redArgmax t acy, 0x43, redArg, outArg),
      (.redAmax t acy, 0x44, redExt 0x44 true (fun _ => 0) absView, outAmax), (.redCnz t acy, 0x45, redCnz, outCnz)] →
    ch = (f w (redChain x w) (redLanes x w)).1 → ev = { (f w (redChain x w) (redLanes x w)).2 with nanIn := redNan w (redLanes x w) } →
    (bit (kImm w) 1 = false →
      v = skinkEvents (setTile u t.toNat (setChain x i (some ch))) t.toNat (eOp e) op (a + 8) [ev] →
      ∃ y, exec c s = .next (withTwin v t.toNat y)) ∧
    (bit (kImm w) 1 = true →
      v = skinkEvents (setTile u t.toNat (launchResult (setChain x i none) (a + 8) (wholeV w ((out w ch).1 % 2 ^ 32))))
        t.toNat (eOp e) op (a + 8) [{ ev with overflow := ev.overflow || (out w ch).2.overflow }] →
      ∃ y, exec c s = .next (withTwin v t.toNat y))

/-- Conversions, loads, stores, random words and outlier selection (08 R255; 09 R286, R289, R297 to R301; 10 R321): what each sends
to its register or writes into the tile store. A selection's table holds, in ascending order, at most CAP channels of its range. -/
def Obligations.VectorMoves : Prop :=
  ∀ (s u v : State) (t : TileIx) (acy a : Nat) (e : BitVec 128) (w : Nat) (x : Tile),
    u = tcount (issued s t.toNat 3 acy e) t.toNat 0x48 1 → w = eWord e → x = getTile u t.toNat → a = absAcy s t.toNat acy →
    (∀ off ew rs, mayIssue s t.toNat 3 acy e 0x38 = true → off = 256 * (kImm w % 2 ^ 13) → ew = kWidth (kType w) →
      rs = (List.range (kElems (kType w))).map (fun i => (vElem (vOfBytes (tsBytes x off 256)) ew i, ({} : KEv))) →
      v = tsCheck (setTile u t.toNat (launchResult x (a + 4) (laneResult x w ew rs))) t.toNat off 256 →
      ∃ y, exec (.vload t acy) s = .next (withTwin v t.toNat y)) ∧
    (∀ c op off n y differs, (c, op, off, n) ∈ [(Instr.vstore t acy, 0x39, 256 * (kImm w % 2 ^ 13), 256),
        (.vstoreLine t acy, 0x3B, 72 * (kImm w % 2 ^ 15), 72)] → mayIssue s t.toNat 3 acy e op = true →
      y = tsWrite x off (vBytes (vReg x (kVA w)) n) →
      differs = (vBytes (vReg x (kVA w)) n != vBytes (vReg (onTwin a x) (kVA w)) n) →
      v = shadowUnit (setTile u t.toNat { y with pend := y.pend ++ hold (pagesOf off n) a (some (a + 3)) 0 (offAt x e) }) t.toNat 1 (eOp e)
        differs → ∃ y, exec c s = .next (withTwin v t.toNat y)) ∧
    (mayIssue s t.toNat 3 acy e 0x3C = true → v = tcount (setTile u t.toNat (launchResult x (a + 2)
      (wholeV w (vOfElems 32 (randWords (tseed u t.toNat) ((vReg x (kVA w)).toNat % 2 ^ 128) (vElem (vReg x (kVB w)) 32 0)
        (kImm w % 4) (kImm w / 4 % 2 ^ 24)))))) t.toNat 0x50 1 → ∃ y, exec (.rand t acy) s = .next (withTwin v t.toNat y)) ∧
    (∀ src dst rs y z, mayIssue s t.toNat 3 acy e 0x28 = true → src = kType w → dst = kImm w % 8 →
      rs = (List.range (kElems dst)).map (fun i => match (if kEnabled x w i then cvtSource src dst (bits (kImm w) 4 3) i else none) with
        | some j => (true, cvtElem w src dst (vbRnd w (vReg x (kVB w)) j) (vElem (vReg x (kVA w)) (kWidth src) j))
        | none => (false, (0, {}, false))) →
      y = skinkEvents (setTile u t.toNat (launchResult x (a + 3) (.vreg (kVD w) (elemSel (kWidth dst) (rs.map (fun r => r.1)))
        (vOfElems (kWidth dst) (rs.map (fun r => r.2.1)))))) t.toNat (eOp e) 0x28 (a + 3) (rs.map (fun r => r.2.2.1)) →
      z = (if kRound w && src == 0 && dst == 1 then tcount y t.toNat 0x51 (countP (fun r => r.1) rs) else y) →
      (dst ≠ 1 ∨ rs.all (fun r => !r.2.2.2) = true → ∃ y, exec (.cvt t acy) s = .next (withTwin z t.toNat y)) ∧
      ∃ y, exec (.cvt t acy) s = .next (withTwin ((rs.zipIdx).foldl (fun s r => if r.1.2.2.2 && dst == 1 then
        arithEvent s t.toNat { op := eOp e, stage := 2, row := 0, col := r.2, kstep := 0, num := 0, order := offAt x e, acy := a + 3 }
          { overflow := true } else s) z) t.toNat y)) ∧
    (∀ c op, (c, op) ∈ [(Instr.pack t acy, 0x29), (.unpack t acy, 0x2A)] → mayIssue s t.toNat 3 acy e op = true →
      Fmt.ofCode (kImm w % 8) = none → ∃ y, exec c s = .next (withTwin u t.toNat y)) ∧
    (∀ f r y z, mayIssue s t.toNat 3 acy e 0x29 = true → Fmt.ofCode (kImm w % 8) = some f → r = packLine x w f →
      y = countConv (setTile u t.toNat (launchResult x (a + 6) (maskedV x w (leNat r.1)))) t.toNat r.2 true →
      z = (if kRound w then tcount y t.toNat 0x51 f.perLine else y) →
      v = (if r.2.zblk + r.2.sblk = 0 then z else traise z t.toNat 11 (eOp e)) →
      ∃ y, exec (.pack t acy) s = .next (withTwin v t.toNat y)) ∧
    (∀ f line bad base rs y, mayIssue s t.toNat 3 acy e 0x2A = true → Fmt.ofCode (kImm w % 8) = some f →
      line = vBytes (vReg x (kVA w)) 72 → bad = decide (bits (lineTag line) 3 0 ≠ f.code ∨ bits (lineTag line) 5 4 ≠ 0) →
      base = (if f.width = 4 ∧ bit (kImm w) 3 then 64 else 0) →
      rs = (List.range 64).map (fun j =>
        unpackElem f (if bad then 255 else lineExp line ((base + j) / 32)) (lineElem f line (base + j))) →
      y = skinkEvents (setTile u t.toNat (launchResult x (a + 4)
        (maskedV x w (vOfElems 32 (rs.map (fun r => r.1)))))) t.toNat (eOp e) 0x2A (a + 4) (laneEvents x w rs) →
      v = (if bad then traise y t.toNat 3 (eOp e) else y) → ∃ y, exec (.unpack t acy) s = .next (withTwin v t.toNat y)) ∧
    (∀ r n y z, mayIssue s t.toNat 3 acy e 0x48 = true → r = srecAt u t.toNat (kImm w) → n = (outlierCands x r).length →
      y = tsCheck (setTile u t.toNat { launchResult x (a + ceilDiv r.n 64 + 16) (.outliers (outlierTab x r) r.cap) with
        readers := x.readers ++ hold (pagesOf (r.statBase + 4 * r.b) (4 * r.n)) a (some (a + ceilDiv r.n 64)) 0 (offAt x e) })
        t.toNat (r.statBase + 4 * r.b) (4 * r.n) →
      z = (if n ≤ r.cap then y else tcount (traise y t.toNat 9 (eOp e)) t.toNat 0x40 (n - r.cap)) →
      v = shadowUnit z t.toNat 1 (eOp e) (outlierTab x r != outlierTab (onTwin a x) r) →
      (∃ y, exec (.outlierSelect t acy) s = .next (withTwin v t.toNat y)) ∧
      (∀ k, k ∈ outlierTab x r → r.b ≤ k ∧ k < r.b + r.n) ∧ (outlierTab x r).length ≤ r.cap ∧ (outlierTab x r).Pairwise (· < ·))

/-! The move stream (07, 08, 11, 15). -/

/-- Moves (11 R343, R344, R351 to R358; 06 R207 to R210; 15 R479 to R481; 16 R555): a MOVE_IN requests its lines and holds their
pages until each has arrived; a line arrives at its place in the tile store, a snooped one after the host's response; a
MOVE_OUT writes its lines through the descriptor, in ascending order; a LINK_SEND sends them in packets. -/
def Obligations.MoveInstructions : Prop :=
  ∀ (s u : State) (t : TileIx) (acy a : Nat) (e : BitVec 128) (m : Mrec) (d : BitVec 1024) (hint : Nat) (r : List RunLine × State) (x : Tile),
    a = absAcy s t.toNat acy →
    (u = issued s t.toNat 4 acy e → m = mrecAt u t.toNat (wRec (eWord e)) → d = tdesc u t.toNat m.desc → hint = wHint (eWord e) →
      r = runLines u t.toNat m.desc d m.first m.count hint → x = getTile r.2 t.toNat →
      (∀ w, mayIssue s t.toNat 4 acy e 1 = true → w = setTile r.2 t.toNat
        { placeAll { x with moveTag := x.moveTag + 1 } (entryPlaces r.2 t.toNat 4 e) with
          moves := x.moves ++ [{ tag := x.moveTag, op := eOp e, desc := m.desc, first := m.first, count := m.count, ts := m.ts,
                                 hint := hint, issue := a, key := planKey (segOf r.2 t.toNat) (eOffset e) 0,
                                 src := r.1.map (fun l => if l.empty || l.oor then none else some l.target) }]
          pend := x.pend ++ hold (entryWrites r.2 t.toNat 4 e) a none x.moveTag (offAt x e) } →
        exec (.moveIn t acy) s =
          .next (countOor (tcount w t.toNat 0x5B (runEmpty w t.toNat m.desc d r.1)) t.toNat (eOp e) 0x30 r.1)) ∧
      (∀ qs v w, mayIssue s t.toNat 4 acy e 2 = true → qs = runWritten d r.1 m.count →
        v = setTile r.2 t.toNat { x with readers := x.readers ++ runReaders m.ts 72 m.count a (offAt x e)
          ++ (if idxBytes d = 0 then [] else runReaders (m.ts + 72 * m.count) (idxBytes d) m.count a (offAt x e)) } →
        w = countOor (tcount v t.toNat 0x5B (runEmpty v t.toNat m.desc d r.1)) t.toNat (eOp e) 0x31 r.1 →
        (dIdxEn d = false → exec (.moveOut t acy) s = .next (qs.foldl (fun s q => putRunLine s t.toNat m.desc hint d m.ts m.count q) w) ∧
          qs.map (fun q => (q.1, q.2.target)) = (List.range m.count).map (fun (i : Nat) => (i, m.first + (i : Int)))) ∧
        (dIdxEn d = true → exec (.moveOut t acy) s =
            .next (scatterAll w t.toNat m.desc hint (eOp e) a (offAt (getTile w t.toNat) e) d m.ts qs) ∧
          (qs.map (fun q => q.2.entry)).Pairwise (· ≤ ·) ∧ ∀ q ∈ qs, q.2.oor = false ∧ q.2.empty = false)) ∧
      (∀ q, mayIssue s t.toNat 4 acy e 3 = true →
        (m.srcTs = true → q = sendLines (updTile u t.toNat (fun y => { y with
          readers := y.readers ++ runReaders m.ts 72 m.count a (offAt y e) })) t.toNat m hint [] →
          exec (.linkSend t acy) s = .next ((packets q.2 t.toNat a (eWord e) m q.1).foldl (fun s p => originate s m.destDev p) q.2) ∧
          q.1.length = m.count ∧ (packets q.2 t.toNat a (eWord e) m q.1).length = ceilDiv m.count 16) ∧
        (m.srcTs = false → q = sendLines (countOor (tcount r.2 t.toNat 0x5B (runEmpty r.2 t.toNat m.desc d r.1)) t.toNat (eOp e) 0x30 r.1)
          t.toNat m hint r.1 →
          exec (.linkSend t acy) s = .next ((packets q.2 t.toNat a (eWord e) m q.1).foldl (fun s p => originate s m.destDev p) q.2) ∧
          q.1.length = m.count ∧ (packets q.2 t.toNat a (eWord e) m q.1).length = ceilDiv m.count 16))) ∧
    (∀ (y : MoveSt) i before parity err, aclkOn s = true → (getTile s t.toNat).moves.find? (fun m => m.tag == y.tag) = some y →
      i < y.count → y.issue + (i / 2 : Nat) < a → i ∉ y.arrived →
      (∀ b, moveLine s t.toNat y i = some b → s.hif.held.contains b = true →
        exec (.lineArrival t y.tag i acy before parity err) s = .next (snoop s b)) ∧
      ((moveLine s t.toNat y i).any s.hif.held.contains = false → (moveLine s t.toNat y i).any s.hif.snoops.contains = false →
        exec (.lineArrival t y.tag i acy before parity err) s = .next (arriveAct s t.toNat a y i before parity err)) ∧
      ∀ (z : Tile) (b : Nat) (l ix : List Byte) late, smWf (fun _ => (0 : Byte)) z.store = true → l.length = 72 →
        tsBytes (arriveStore z a y i b l ix late) (y.ts + 72 * i) 72 = l ∧
        (y.arrived.length + 1 = y.count → ∀ g ∈ (arriveStore z a y i b l ix late).moves, g.tag ≠ y.tag)) ∧
    (∀ (z : Tile) (b : Nat) (l : List Byte), smWf (fun _ => (0 : Byte)) z.store = true →
      tsBytes (tsWrite z b l) b l.length = l ∧ ∀ c, (c < b ∨ b + l.length ≤ c) → tsGet (tsWrite z b l) c = tsGet z c)

/-- The small instructions of the move stream (07 R226; 08 R249; 11 R362, R364, R365): a table bank and a descriptor slot take
bytes of the tile store at their latency, an occupancy register a count, a binding its place, and where sixteen are held one
gives way; a dispatch gives each expert's register its count, keeps each expert within CAP and gives no slot twice. -/
def Obligations.SmallMoveInstructions : Prop :=
  ∀ (s u v : State) (t : TileIx) (acy a : Nat) (e : BitVec 128) (w : Nat) (x : Tile), u = issued s t.toNat 4 acy e → w = eWord e →
    a = absAcy s t.toNat acy →
    (mayIssue s t.toNat 4 acy e 4 = true → v = tsCheck u t.toNat (wTs w) 256 → x = getTile v t.toNat →
      exec (.tableLoad t acy) s = .next (setTile v t.toNat { launchResult x (a + 8)
        (.bank ((bit w 8).toNat * 512 + (bit w 9).toNat * 256) (tsBytes x (wTs w) 256)) with
        readers := x.readers ++ hold (entryReads v t.toNat 4 e) a (some (a + 8)) 0 (offAt x e) })) ∧
    (mayIssue s t.toNat 4 acy e 5 = true → v = tsCheck u t.toNat (wTs w) 1 → x = getTile v t.toNat →
      exec (.scaleSet t acy) s = .next (setTile v t.toNat { launchResult x (a + 2) (.slot (bits w 11 8) (tsGet x (wTs w))) with
        readers := x.readers ++ hold (entryReads v t.toNat 4 e) a (some (a + 2)) 0 (offAt x e) })) ∧
    (mayIssue s t.toNat 4 acy e 6 = true → v = tsCheck u t.toNat (wTs w) 4 → x = getTile v t.toNat →
      exec (.occLoad t acy) s = .next (setTile v t.toNat { x with
        occ := smSet (fun _ => 0) x.occ (bits w 15 8) (max 0 (signExt 32 (tsNat x (wTs w) 4))).toNat
        pendOcc := x.pendOcc ++ hold [bits w 15 8] a (some (a + 2)) 0 (offAt x e)
        readers := x.readers ++ hold (entryReads v t.toNat 4 e) a (some (a + 2)) 0 (offAt x e) })) ∧
    (mayIssue s t.toNat 4 acy e 7 = true → x = getTile u t.toNat → ∀ l,
      l = x.binds.filter (fun (c : Nat × Nat × Nat) => c.1 ≠ bits w 27 8) →
      (l.length < 16 → exec (.slotBind t acy) s =
        .next (setTile u t.toNat { x with binds := l ++ [(bits w 27 8, bits w 30 28, bits w 39 32)] })) ∧
      (16 ≤ l.length → ∃ k free, k < 17 ∧ exec (.slotBind t acy) s = .next (setTile { u with free := free } t.toNat
        { x with binds := (l ++ [(bits w 27 8, bits w 30 28, bits w 39 32)]).eraseIdx k }))) ∧
    (∀ r q y z done, mayIssue s t.toNat 4 acy e 8 = true → r = drecAt u t.toNat (wRec w) → v = tsCheck u t.toNat r.assign (4 * r.n * r.k) →
      x = getTile v t.toNat → q = dispatch r (fun p => signExt 32 (tsNat x (r.assign + 4 * p) 4)) →
      y = tsWrite (tsWrite x r.index (slotBytes r q)) r.drop (dropBytes r q) →
      done = a + ceilDiv (r.n * r.k) 16 + ceilDiv (r.e * r.cap) 64 + 20 →
      z = tcount (tcount (setTile v t.toNat { y with
        occ := (List.range r.e).foldl (fun m i => smSet (fun _ => 0) m (r.occBase + i) (q.cnt i)) y.occ
        pend := y.pend ++ hold (entryWrites v t.toNat 4 e) a (some done) 0 (offAt x e)
        pendOcc := y.pendOcc ++ hold ((List.range r.e).map (r.occBase + ·)) a (some done) 0 (offAt x e)
        readers := y.readers ++ hold (entryReads v t.toNat 4 e) a (some done) 0 (offAt x e) }) t.toNat 0x5C q.excess.length)
        t.toNat 0x5D q.dropped.length →
      exec (.slotDispatch t acy) s = .next (if q.excess.isEmpty then z else traise z t.toNat 13 (eOp e))) ∧
    (∀ (r : Drec) (f : Nat → Int), r.overflow < r.e →
      ((dispatch r f).slots.map (fun q => q.1)).Nodup ∧ (∀ q ∈ (dispatch r f).slots, q.1 < r.e * r.cap ∧ q.2 < r.n) ∧
      ∀ k, (dispatch r f).cnt k ≤ r.cap)

/-- The outputs (22 R720, R721, R726, R727; 15 R507, R511, R513; 18 R621): after a supply excursion every output is released and
no transmitter drives; while PERST# is asserted CROAK is low, the transmitters are idle, no Chorus line is held, and THERMTRIP#
stays as it was; a thermal trip takes THERMTRIP# low, idles the transmitters, leaves CROAK at the level of its last edge (low where
firmware never started), releases CHORUS_ALL, and leaves the bus of a manager that runs it with IDLE words. -/
def Obligations.OutputPins : Prop :=
  ∀ (s : State) (temp : BitVec 10),
    (s.boot.hold = false → ∃ t, exec .supplyExcursion s = .next t ∧ croak t = .released ∧ transmitters t = .noDrive ∧
      busDrive t = .released ∧ chorusA t = none ∧ chorusAllLow t = false ∧ tripLow t = false ∧ smbAlertLow t = false) ∧
    (s.boot.hold = false → s.boot.perst = false → ∃ t, exec .perstAssert s = .next t ∧ croak t = .low ∧
      transmitters t = .electricalIdle ∧ busDrive t = .released ∧ chorusA t = none ∧ chorusAllLow t = false ∧
      tripLow t = tripLow s) ∧
    (s.boot.hold = false → s.boot.perst = false → s.boot.tripPin = false → 440 ≤ temp.toNat →
      ∃ t, exec (.thermtrip temp) s = .next t ∧ croak t = (if fwStarted s then .held else .low) ∧
        transmitters t = .electricalIdle ∧ busDrive t = (if drivesBus t then .idleWords else .released) ∧
        chorusAllLow t = false ∧ tripLow t = true)
end

