-- ==== Sys2Proof/Laws/Sparse.lean ====
section
/-! SUPPORT. The laws of the sparse maps that hold every piece of keyed state: reading after a write, and the canonical
form that makes equal contents equal data. -/

namespace Sys2Proof.Machine

variable {V : Type}

theorem smRising_weaken {b c : Option Nat} {m : List (Nat × V)} (h : smRising b m = true)
    (hc : ∀ k, c = some k → ∃ j, b = some j ∧ k ≤ j) : smRising c m = true := by
  cases m with
  | nil => rfl
  | cons e m =>
    obtain ⟨j, v⟩ := e
    cases c with
    | none => simp [smRising] at h ⊢; exact h.2
    | some k =>
      obtain ⟨b', rfl, hk⟩ := hc k rfl
      simp [smRising] at h ⊢
      exact ⟨by omega, h.2⟩

theorem smRising_none {b : Option Nat} {m : List (Nat × V)} (h : smRising b m = true) : smRising none m = true :=
  smRising_weaken h (by simp)

/-- Below its keys a map gives the default. -/
theorem smGet_low (d : Nat → V) {b k : Nat} {m : List (Nat × V)} (h : smRising (some b) m = true) (hk : k ≤ b) :
    smGet d m k = d k := by
  cases m with
  | nil => rfl
  | cons e m =>
    obtain ⟨j, v⟩ := e
    simp [smRising] at h
    have h1 : k ≠ j := by omega
    have h2 : k < j := by omega
    simp [smGet, h1, h2]

theorem smGet_smPut_same (d : Nat → V) (m : List (Nat × V)) (k : Nat) (v : V) : smGet d (smPut m k v) k = v := by
  induction m with
  | nil => simp [smPut, smGet]
  | cons e m ih =>
    obtain ⟨j, w⟩ := e
    by_cases h : k = j
    · simp [smPut, smGet, h]
    · by_cases h2 : k < j
      · simp [smPut, smGet, h, h2]
      · simp [smPut, smGet, h, h2, ih]

theorem smGet_smPut_ne (d : Nat → V) (m : List (Nat × V)) {k i : Nat} (v : V) (hi : i ≠ k)
    (hm : smRising none m = true) : smGet d (smPut m k v) i = smGet d m i := by
  induction m with
  | nil =>
    by_cases h : i < k <;> simp [smPut, smGet, hi, h]
  | cons e m ih =>
    obtain ⟨j, w⟩ := e
    have hm' : smRising none m = true := by
      simp [smRising] at hm; exact smRising_none hm
    by_cases h : k = j
    · subst h; simp [smPut, smGet, hi]
    · by_cases h2 : k < j
      · simp only [smPut, h, h2, if_true, if_false, smGet, hi]
        by_cases h3 : i < k
        · have h4 : i ≠ j := by omega
          have h5 : i < j := by omega
          simp [h3, h4, h5]
        · simp [h3]
      · simp only [smPut, h, h2, if_false, smGet]
        rw [ih hm']

theorem smGet_smDel_same (d : Nat → V) (m : List (Nat × V)) (k : Nat) (hm : smRising none m = true) :
    smGet d (smDel m k) k = d k := by
  induction m with
  | nil => rfl
  | cons e m ih =>
    obtain ⟨j, w⟩ := e
    have hr : smRising (some j) m = true := by simp [smRising] at hm; exact hm
    by_cases h : k = j
    · subst h; simp [smDel]; exact smGet_low d hr (Nat.le_refl _)
    · by_cases h2 : k < j
      · simp [smDel, smGet, h, h2]
      · simp [smDel, smGet, h, h2, ih (smRising_none hr)]

theorem smGet_smDel_ne (d : Nat → V) (m : List (Nat × V)) {k i : Nat} (hi : i ≠ k) (hm : smRising none m = true) :
    smGet d (smDel m k) i = smGet d m i := by
  induction m with
  | nil => rfl
  | cons e m ih =>
    obtain ⟨j, w⟩ := e
    have hr : smRising (some j) m = true := by simp [smRising] at hm; exact hm
    by_cases h : k = j
    · subst h
      by_cases h3 : i < k
      · simp [smDel, smGet, hi, h3]; exact smGet_low d hr (Nat.le_of_lt h3)
      · simp [smDel, smGet, hi, h3]
    · by_cases h2 : k < j
      · simp [smDel, smGet, h, h2]
      · simp only [smDel, h, h2, if_false, smGet]
        rw [ih (smRising_none hr)]

theorem smWf_rising [DecidableEq V] {d : Nat → V} {m : List (Nat × V)} (h : smWf d m = true) : smRising none m = true := by
  simp [smWf] at h; exact h.1

/-- A key reads back what was set. -/
theorem smGet_smSet_same [DecidableEq V] (d : Nat → V) (m : List (Nat × V)) (k : Nat) (v : V) (hm : smRising none m = true) :
    smGet d (smSet d m k v) k = v := by
  unfold smSet
  split
  · rename_i h; rw [smGet_smDel_same d m k hm, h]
  · exact smGet_smPut_same d m k v

/-- The other keys read as before. -/
theorem smGet_smSet_ne [DecidableEq V] (d : Nat → V) (m : List (Nat × V)) {k i : Nat} (v : V) (hi : i ≠ k)
    (hm : smRising none m = true) : smGet d (smSet d m k v) i = smGet d m i := by
  unfold smSet
  split
  · exact smGet_smDel_ne d m hi hm
  · exact smGet_smPut_ne d m v hi hm

theorem smRising_smDel {b : Option Nat} {m : List (Nat × V)} (k : Nat) (h : smRising b m = true) :
    smRising b (smDel m k) = true := by
  induction m generalizing b with
  | nil => rfl
  | cons e m ih =>
    obtain ⟨j, w⟩ := e
    have h' := h
    simp [smRising] at h
    by_cases hk : k = j
    · simp only [smDel, hk, if_true]
      refine smRising_weaken h.2 ?_
      intro i hi; subst hi
      exact ⟨j, rfl, by have := h.1; simp at this; omega⟩
    · by_cases h2 : k < j
      · simp only [smDel, hk, h2, if_true, if_false]; exact h'
      · simp only [smDel, hk, h2, if_false, smRising, Bool.and_eq_true]
        exact ⟨by simpa using h.1, ih h.2⟩

theorem smRising_cons {b : Option Nat} {e : Nat × V} {m : List (Nat × V)} :
    smRising b (e :: m) = true ↔ (∀ i, b = some i → i < e.1) ∧ smRising (some e.1) m = true := by
  cases b <;> simp [smRising]

theorem smRising_smPut {b : Option Nat} {m : List (Nat × V)} (k : Nat) (v : V) (h : smRising b m = true)
    (hb : ∀ i, b = some i → i < k) : smRising b (smPut m k v) = true := by
  induction m generalizing b with
  | nil => exact smRising_cons.mpr ⟨hb, rfl⟩
  | cons e m ih =>
    obtain ⟨j, w⟩ := e
    have h' := smRising_cons.mp h
    by_cases hk : k = j
    · subst hk
      simp only [smPut, if_true]
      exact smRising_cons.mpr ⟨hb, h'.2⟩
    · by_cases h2 : k < j
      · simp only [smPut, hk, h2, if_true, if_false]
        exact smRising_cons.mpr ⟨hb, smRising_cons.mpr ⟨by intro i hi; simp at hi; simp; omega, h'.2⟩⟩
      · simp only [smPut, hk, h2, if_false]
        refine smRising_cons.mpr ⟨h'.1, ih h'.2 ?_⟩
        intro i hi; simp at hi; omega

theorem smDel_all {m : List (Nat × V)} (p : Nat × V → Bool) (k : Nat) (h : m.all p = true) : (smDel m k).all p = true := by
  induction m with
  | nil => rfl
  | cons e m ih =>
    obtain ⟨j, w⟩ := e
    simp at h
    simp only [smDel]
    split
    · simpa using h.2
    · split
      · simpa using h
      · simp only [List.all_cons, Bool.and_eq_true]; exact ⟨h.1, ih (by simpa using h.2)⟩

theorem smPut_all {m : List (Nat × V)} (p : Nat × V → Bool) (k : Nat) (v : V) (h : m.all p = true) (hp : p (k, v) = true) :
    (smPut m k v).all p = true := by
  induction m with
  | nil => simp [smPut, hp]
  | cons e m ih =>
    obtain ⟨j, w⟩ := e
    simp at h
    simp only [smPut]
    split
    · simp only [List.all_cons, Bool.and_eq_true]; exact ⟨hp, by simpa using h.2⟩
    · split
      · simp only [List.all_cons, Bool.and_eq_true]; exact ⟨hp, h.1, by simpa using h.2⟩
      · simp only [List.all_cons, Bool.and_eq_true]; exact ⟨h.1, ih (by simpa using h.2)⟩

theorem smWf_smDel [DecidableEq V] {d : Nat → V} {m : List (Nat × V)} (k : Nat) (h : smWf d m = true) :
    smWf d (smDel m k) = true := by
  simp only [smWf, Bool.and_eq_true] at h ⊢
  exact ⟨smRising_smDel k h.1, smDel_all _ k h.2⟩

/-- Setting a key keeps the canonical form. -/
theorem smWf_smSet [DecidableEq V] {d : Nat → V} {m : List (Nat × V)} (k : Nat) (v : V) (h : smWf d m = true) :
    smWf d (smSet d m k v) = true := by
  unfold smSet
  split
  · exact smWf_smDel k h
  · rename_i hv
    simp only [smWf, Bool.and_eq_true] at h ⊢
    exact ⟨smRising_smPut k v h.1 (by simp), smPut_all _ k v h.2 (by simpa using hv)⟩

theorem smRising_filter {b : Option Nat} {m : List (Nat × V)} (p : Nat × V → Bool) (h : smRising b m = true) :
    smRising b (m.filter p) = true := by
  induction m generalizing b with
  | nil => rfl
  | cons e m ih =>
    obtain ⟨j, w⟩ := e
    have h' := h
    simp [smRising] at h
    simp only [List.filter_cons]
    split
    · simp only [smRising, Bool.and_eq_true]; exact ⟨by simpa using h.1, ih h.2⟩
    · refine ih (smRising_weaken h.2 ?_)
      intro i hi; subst hi
      exact ⟨j, rfl, by have := h.1; simp at this; omega⟩

/-- Dropping entries keeps the canonical form. -/
theorem smWf_filter [DecidableEq V] {d : Nat → V} {m : List (Nat × V)} (p : Nat × V → Bool) (h : smWf d m = true) :
    smWf d (m.filter p) = true := by
  simp only [smWf, Bool.and_eq_true] at h ⊢
  refine ⟨smRising_filter p h.1, ?_⟩
  simp only [List.all_eq_true] at h ⊢
  intro x hx
  exact h.2 x (List.mem_filter.mp hx).1

theorem smWf_nil [DecidableEq V] (d : Nat → V) : smWf d ([] : List (Nat × V)) = true := rfl

end Sys2Proof.Machine
end

