-- ==== Sys2Proof/Laws/State.lean ====
section
/-! SUPPORT. What each update leaves of each piece of state, so that no proof unfolds a record update. -/

namespace Sys2Proof.Machine

variable (s : State)

@[simp] theorem setPage_pending (p : Nat) (x : Page) : (setPage s p x).pending = s.pending := rfl
@[simp] theorem setPage_gcnt (p : Nat) (x : Page) : (setPage s p x).gcnt = s.gcnt := rfl
@[simp] theorem setPage_fcyc (p : Nat) (x : Page) : (setPage s p x).fcyc = s.fcyc := rfl
@[simp] theorem setPage_free (p : Nat) (x : Page) : (setPage s p x).free = s.free := rfl
@[simp] theorem setPage_resp (p : Nat) (x : Page) : (setPage s p x).resp = s.resp := rfl
@[simp] theorem setPage_oos (p : Nat) (x : Page) : (setPage s p x).oos = s.oos := rfl
@[simp] theorem setPage_ready (p : Nat) (x : Page) : (setPage s p x).ready = s.ready := rfl
@[simp] theorem setPage_blks (p : Nat) (x : Page) : (setPage s p x).blks = s.blks := rfl
@[simp] theorem setPage_cnt (p : Nat) (x : Page) : (setPage s p x).cnt = s.cnt := rfl
@[simp] theorem setPage_regs (p : Nat) (x : Page) : (setPage s p x).regs = s.regs := rfl
@[simp] theorem setPage_flash (p : Nat) (x : Page) : (setPage s p x).flash = s.flash := rfl
@[simp] theorem setPage_map (p : Nat) (x : Page) : (setPage s p x).map = s.map := rfl
@[simp] theorem setPage_mem (p : Nat) (x : Page) : (setPage s p x).mem = s.mem := rfl
@[simp] theorem setPage_cache (p : Nat) (x : Page) : (setPage s p x).cache = s.cache := rfl
@[simp] theorem setPage_allocs (p : Nat) (x : Page) : (setPage s p x).allocs = s.allocs := rfl
@[simp] theorem setPage_descs (p : Nat) (x : Page) : (setPage s p x).descs = s.descs := rfl
@[simp] theorem setPage_parts (p : Nat) (x : Page) : (setPage s p x).parts = s.parts := rfl
@[simp] theorem setPage_tiles (p : Nat) (x : Page) : (setPage s p x).tiles = s.tiles := rfl
@[simp] theorem setPage_sync (p : Nat) (x : Page) : (setPage s p x).sync = s.sync := rfl
@[simp] theorem setPage_fc (p : Nat) (x : Page) : (setPage s p x).fc = s.fc := rfl
@[simp] theorem setPage_fi (p : Nat) (x : Page) : (setPage s p x).fi = s.fi := rfl
@[simp] theorem setPage_msix (p : Nat) (x : Page) : (setPage s p x).msix = s.msix := rfl
@[simp] theorem setPage_ctrls (p : Nat) (x : Page) : (setPage s p x).ctrls = s.ctrls := rfl
@[simp] theorem setPage_links (p : Nat) (x : Page) : (setPage s p x).links = s.links := rfl
@[simp] theorem setPage_chorus (p : Nat) (x : Page) : (setPage s p x).chorus = s.chorus := rfl
@[simp] theorem setPage_hif (p : Nat) (x : Page) : (setPage s p x).hif = s.hif := rfl
@[simp] theorem setPage_power (p : Nat) (x : Page) : (setPage s p x).power = s.power := rfl
@[simp] theorem setPage_boot (p : Nat) (x : Page) : (setPage s p x).boot = s.boot := rfl
@[simp] theorem setPage_sec (p : Nat) (x : Page) : (setPage s p x).sec = s.sec := rfl

@[simp] theorem setBlk_pending (p : Nat) (b : Blk) : (setBlk s p b).pending = s.pending := rfl
@[simp] theorem setBlk_gcnt (p : Nat) (b : Blk) : (setBlk s p b).gcnt = s.gcnt := rfl
@[simp] theorem setBlk_fcyc (p : Nat) (b : Blk) : (setBlk s p b).fcyc = s.fcyc := rfl
@[simp] theorem setBlk_free (p : Nat) (b : Blk) : (setBlk s p b).free = s.free := rfl
@[simp] theorem setBlk_resp (p : Nat) (b : Blk) : (setBlk s p b).resp = s.resp := rfl
@[simp] theorem setBlk_oos (p : Nat) (b : Blk) : (setBlk s p b).oos = s.oos := rfl
@[simp] theorem setBlk_pages (p : Nat) (b : Blk) : (setBlk s p b).pages = s.pages := rfl
@[simp] theorem setBlk_ready (p : Nat) (b : Blk) : (setBlk s p b).ready = s.ready := rfl
@[simp] theorem setBlk_cnt (p : Nat) (b : Blk) : (setBlk s p b).cnt = s.cnt := rfl
@[simp] theorem setBlk_regs (p : Nat) (b : Blk) : (setBlk s p b).regs = s.regs := rfl
@[simp] theorem setBlk_flash (p : Nat) (b : Blk) : (setBlk s p b).flash = s.flash := rfl
@[simp] theorem setBlk_map (p : Nat) (b : Blk) : (setBlk s p b).map = s.map := rfl
@[simp] theorem setBlk_mem (p : Nat) (b : Blk) : (setBlk s p b).mem = s.mem := rfl
@[simp] theorem setBlk_cache (p : Nat) (b : Blk) : (setBlk s p b).cache = s.cache := rfl
@[simp] theorem setBlk_allocs (p : Nat) (b : Blk) : (setBlk s p b).allocs = s.allocs := rfl
@[simp] theorem setBlk_descs (p : Nat) (b : Blk) : (setBlk s p b).descs = s.descs := rfl
@[simp] theorem setBlk_parts (p : Nat) (b : Blk) : (setBlk s p b).parts = s.parts := rfl
@[simp] theorem setBlk_tiles (p : Nat) (b : Blk) : (setBlk s p b).tiles = s.tiles := rfl
@[simp] theorem setBlk_sync (p : Nat) (b : Blk) : (setBlk s p b).sync = s.sync := rfl
@[simp] theorem setBlk_fc (p : Nat) (b : Blk) : (setBlk s p b).fc = s.fc := rfl
@[simp] theorem setBlk_fi (p : Nat) (b : Blk) : (setBlk s p b).fi = s.fi := rfl
@[simp] theorem setBlk_msix (p : Nat) (b : Blk) : (setBlk s p b).msix = s.msix := rfl
@[simp] theorem setBlk_ctrls (p : Nat) (b : Blk) : (setBlk s p b).ctrls = s.ctrls := rfl
@[simp] theorem setBlk_links (p : Nat) (b : Blk) : (setBlk s p b).links = s.links := rfl
@[simp] theorem setBlk_chorus (p : Nat) (b : Blk) : (setBlk s p b).chorus = s.chorus := rfl
@[simp] theorem setBlk_hif (p : Nat) (b : Blk) : (setBlk s p b).hif = s.hif := rfl
@[simp] theorem setBlk_power (p : Nat) (b : Blk) : (setBlk s p b).power = s.power := rfl
@[simp] theorem setBlk_boot (p : Nat) (b : Blk) : (setBlk s p b).boot = s.boot := rfl
@[simp] theorem setBlk_sec (p : Nat) (b : Blk) : (setBlk s p b).sec = s.sec := rfl

@[simp] theorem setReady_pending (p : Nat) (b : Bool) : (setReady s p b).pending = s.pending := rfl
@[simp] theorem setReady_gcnt (p : Nat) (b : Bool) : (setReady s p b).gcnt = s.gcnt := rfl
@[simp] theorem setReady_fcyc (p : Nat) (b : Bool) : (setReady s p b).fcyc = s.fcyc := rfl
@[simp] theorem setReady_free (p : Nat) (b : Bool) : (setReady s p b).free = s.free := rfl
@[simp] theorem setReady_resp (p : Nat) (b : Bool) : (setReady s p b).resp = s.resp := rfl
@[simp] theorem setReady_oos (p : Nat) (b : Bool) : (setReady s p b).oos = s.oos := rfl
@[simp] theorem setReady_pages (p : Nat) (b : Bool) : (setReady s p b).pages = s.pages := rfl
@[simp] theorem setReady_blks (p : Nat) (b : Bool) : (setReady s p b).blks = s.blks := rfl
@[simp] theorem setReady_cnt (p : Nat) (b : Bool) : (setReady s p b).cnt = s.cnt := rfl
@[simp] theorem setReady_regs (p : Nat) (b : Bool) : (setReady s p b).regs = s.regs := rfl
@[simp] theorem setReady_flash (p : Nat) (b : Bool) : (setReady s p b).flash = s.flash := rfl
@[simp] theorem setReady_map (p : Nat) (b : Bool) : (setReady s p b).map = s.map := rfl
@[simp] theorem setReady_mem (p : Nat) (b : Bool) : (setReady s p b).mem = s.mem := rfl
@[simp] theorem setReady_cache (p : Nat) (b : Bool) : (setReady s p b).cache = s.cache := rfl
@[simp] theorem setReady_allocs (p : Nat) (b : Bool) : (setReady s p b).allocs = s.allocs := rfl
@[simp] theorem setReady_descs (p : Nat) (b : Bool) : (setReady s p b).descs = s.descs := rfl
@[simp] theorem setReady_parts (p : Nat) (b : Bool) : (setReady s p b).parts = s.parts := rfl
@[simp] theorem setReady_tiles (p : Nat) (b : Bool) : (setReady s p b).tiles = s.tiles := rfl
@[simp] theorem setReady_sync (p : Nat) (b : Bool) : (setReady s p b).sync = s.sync := rfl
@[simp] theorem setReady_fc (p : Nat) (b : Bool) : (setReady s p b).fc = s.fc := rfl
@[simp] theorem setReady_fi (p : Nat) (b : Bool) : (setReady s p b).fi = s.fi := rfl
@[simp] theorem setReady_msix (p : Nat) (b : Bool) : (setReady s p b).msix = s.msix := rfl
@[simp] theorem setReady_ctrls (p : Nat) (b : Bool) : (setReady s p b).ctrls = s.ctrls := rfl
@[simp] theorem setReady_links (p : Nat) (b : Bool) : (setReady s p b).links = s.links := rfl
@[simp] theorem setReady_chorus (p : Nat) (b : Bool) : (setReady s p b).chorus = s.chorus := rfl
@[simp] theorem setReady_hif (p : Nat) (b : Bool) : (setReady s p b).hif = s.hif := rfl
@[simp] theorem setReady_power (p : Nat) (b : Bool) : (setReady s p b).power = s.power := rfl
@[simp] theorem setReady_boot (p : Nat) (b : Bool) : (setReady s p b).boot = s.boot := rfl
@[simp] theorem setReady_sec (p : Nat) (b : Bool) : (setReady s p b).sec = s.sec := rfl

@[simp] theorem setRg_pending (p o : Nat) (v : Word) : (setRg s p o v).pending = s.pending := rfl
@[simp] theorem setRg_gcnt (p o : Nat) (v : Word) : (setRg s p o v).gcnt = s.gcnt := rfl
@[simp] theorem setRg_fcyc (p o : Nat) (v : Word) : (setRg s p o v).fcyc = s.fcyc := rfl
@[simp] theorem setRg_free (p o : Nat) (v : Word) : (setRg s p o v).free = s.free := rfl
@[simp] theorem setRg_resp (p o : Nat) (v : Word) : (setRg s p o v).resp = s.resp := rfl
@[simp] theorem setRg_oos (p o : Nat) (v : Word) : (setRg s p o v).oos = s.oos := rfl
@[simp] theorem setRg_pages (p o : Nat) (v : Word) : (setRg s p o v).pages = s.pages := rfl
@[simp] theorem setRg_ready (p o : Nat) (v : Word) : (setRg s p o v).ready = s.ready := rfl
@[simp] theorem setRg_blks (p o : Nat) (v : Word) : (setRg s p o v).blks = s.blks := rfl
@[simp] theorem setRg_cnt (p o : Nat) (v : Word) : (setRg s p o v).cnt = s.cnt := rfl
@[simp] theorem setRg_flash (p o : Nat) (v : Word) : (setRg s p o v).flash = s.flash := rfl
@[simp] theorem setRg_map (p o : Nat) (v : Word) : (setRg s p o v).map = s.map := rfl
@[simp] theorem setRg_mem (p o : Nat) (v : Word) : (setRg s p o v).mem = s.mem := rfl
@[simp] theorem setRg_cache (p o : Nat) (v : Word) : (setRg s p o v).cache = s.cache := rfl
@[simp] theorem setRg_allocs (p o : Nat) (v : Word) : (setRg s p o v).allocs = s.allocs := rfl
@[simp] theorem setRg_descs (p o : Nat) (v : Word) : (setRg s p o v).descs = s.descs := rfl
@[simp] theorem setRg_parts (p o : Nat) (v : Word) : (setRg s p o v).parts = s.parts := rfl
@[simp] theorem setRg_tiles (p o : Nat) (v : Word) : (setRg s p o v).tiles = s.tiles := rfl
@[simp] theorem setRg_sync (p o : Nat) (v : Word) : (setRg s p o v).sync = s.sync := rfl
@[simp] theorem setRg_fc (p o : Nat) (v : Word) : (setRg s p o v).fc = s.fc := rfl
@[simp] theorem setRg_fi (p o : Nat) (v : Word) : (setRg s p o v).fi = s.fi := rfl
@[simp] theorem setRg_msix (p o : Nat) (v : Word) : (setRg s p o v).msix = s.msix := rfl
@[simp] theorem setRg_ctrls (p o : Nat) (v : Word) : (setRg s p o v).ctrls = s.ctrls := rfl
@[simp] theorem setRg_links (p o : Nat) (v : Word) : (setRg s p o v).links = s.links := rfl
@[simp] theorem setRg_chorus (p o : Nat) (v : Word) : (setRg s p o v).chorus = s.chorus := rfl
@[simp] theorem setRg_hif (p o : Nat) (v : Word) : (setRg s p o v).hif = s.hif := rfl
@[simp] theorem setRg_power (p o : Nat) (v : Word) : (setRg s p o v).power = s.power := rfl
@[simp] theorem setRg_boot (p o : Nat) (v : Word) : (setRg s p o v).boot = s.boot := rfl
@[simp] theorem setRg_sec (p o : Nat) (v : Word) : (setRg s p o v).sec = s.sec := rfl

@[simp] theorem setRgF_pending (p o hi lo v : Nat) : (setRgF s p o hi lo v).pending = s.pending := rfl
@[simp] theorem setRgF_gcnt (p o hi lo v : Nat) : (setRgF s p o hi lo v).gcnt = s.gcnt := rfl
@[simp] theorem setRgF_fcyc (p o hi lo v : Nat) : (setRgF s p o hi lo v).fcyc = s.fcyc := rfl
@[simp] theorem setRgF_free (p o hi lo v : Nat) : (setRgF s p o hi lo v).free = s.free := rfl
@[simp] theorem setRgF_resp (p o hi lo v : Nat) : (setRgF s p o hi lo v).resp = s.resp := rfl
@[simp] theorem setRgF_oos (p o hi lo v : Nat) : (setRgF s p o hi lo v).oos = s.oos := rfl
@[simp] theorem setRgF_pages (p o hi lo v : Nat) : (setRgF s p o hi lo v).pages = s.pages := rfl
@[simp] theorem setRgF_ready (p o hi lo v : Nat) : (setRgF s p o hi lo v).ready = s.ready := rfl
@[simp] theorem setRgF_blks (p o hi lo v : Nat) : (setRgF s p o hi lo v).blks = s.blks := rfl
@[simp] theorem setRgF_cnt (p o hi lo v : Nat) : (setRgF s p o hi lo v).cnt = s.cnt := rfl
@[simp] theorem setRgF_flash (p o hi lo v : Nat) : (setRgF s p o hi lo v).flash = s.flash := rfl
@[simp] theorem setRgF_map (p o hi lo v : Nat) : (setRgF s p o hi lo v).map = s.map := rfl
@[simp] theorem setRgF_mem (p o hi lo v : Nat) : (setRgF s p o hi lo v).mem = s.mem := rfl
@[simp] theorem setRgF_cache (p o hi lo v : Nat) : (setRgF s p o hi lo v).cache = s.cache := rfl
@[simp] theorem setRgF_allocs (p o hi lo v : Nat) : (setRgF s p o hi lo v).allocs = s.allocs := rfl
@[simp] theorem setRgF_descs (p o hi lo v : Nat) : (setRgF s p o hi lo v).descs = s.descs := rfl
@[simp] theorem setRgF_parts (p o hi lo v : Nat) : (setRgF s p o hi lo v).parts = s.parts := rfl
@[simp] theorem setRgF_tiles (p o hi lo v : Nat) : (setRgF s p o hi lo v).tiles = s.tiles := rfl
@[simp] theorem setRgF_sync (p o hi lo v : Nat) : (setRgF s p o hi lo v).sync = s.sync := rfl
@[simp] theorem setRgF_fc (p o hi lo v : Nat) : (setRgF s p o hi lo v).fc = s.fc := rfl
@[simp] theorem setRgF_fi (p o hi lo v : Nat) : (setRgF s p o hi lo v).fi = s.fi := rfl
@[simp] theorem setRgF_msix (p o hi lo v : Nat) : (setRgF s p o hi lo v).msix = s.msix := rfl
@[simp] theorem setRgF_ctrls (p o hi lo v : Nat) : (setRgF s p o hi lo v).ctrls = s.ctrls := rfl
@[simp] theorem setRgF_links (p o hi lo v : Nat) : (setRgF s p o hi lo v).links = s.links := rfl
@[simp] theorem setRgF_chorus (p o hi lo v : Nat) : (setRgF s p o hi lo v).chorus = s.chorus := rfl
@[simp] theorem setRgF_hif (p o hi lo v : Nat) : (setRgF s p o hi lo v).hif = s.hif := rfl
@[simp] theorem setRgF_power (p o hi lo v : Nat) : (setRgF s p o hi lo v).power = s.power := rfl
@[simp] theorem setRgF_boot (p o hi lo v : Nat) : (setRgF s p o hi lo v).boot = s.boot := rfl
@[simp] theorem setRgF_sec (p o hi lo v : Nat) : (setRgF s p o hi lo v).sec = s.sec := rfl

@[simp] theorem setRg64_pending (p o v : Nat) : (setRg64 s p o v).pending = s.pending := rfl
@[simp] theorem setRg64_gcnt (p o v : Nat) : (setRg64 s p o v).gcnt = s.gcnt := rfl
@[simp] theorem setRg64_fcyc (p o v : Nat) : (setRg64 s p o v).fcyc = s.fcyc := rfl
@[simp] theorem setRg64_free (p o v : Nat) : (setRg64 s p o v).free = s.free := rfl
@[simp] theorem setRg64_resp (p o v : Nat) : (setRg64 s p o v).resp = s.resp := rfl
@[simp] theorem setRg64_oos (p o v : Nat) : (setRg64 s p o v).oos = s.oos := rfl
@[simp] theorem setRg64_pages (p o v : Nat) : (setRg64 s p o v).pages = s.pages := rfl
@[simp] theorem setRg64_ready (p o v : Nat) : (setRg64 s p o v).ready = s.ready := rfl
@[simp] theorem setRg64_blks (p o v : Nat) : (setRg64 s p o v).blks = s.blks := rfl
@[simp] theorem setRg64_cnt (p o v : Nat) : (setRg64 s p o v).cnt = s.cnt := rfl
@[simp] theorem setRg64_flash (p o v : Nat) : (setRg64 s p o v).flash = s.flash := rfl
@[simp] theorem setRg64_map (p o v : Nat) : (setRg64 s p o v).map = s.map := rfl
@[simp] theorem setRg64_mem (p o v : Nat) : (setRg64 s p o v).mem = s.mem := rfl
@[simp] theorem setRg64_cache (p o v : Nat) : (setRg64 s p o v).cache = s.cache := rfl
@[simp] theorem setRg64_allocs (p o v : Nat) : (setRg64 s p o v).allocs = s.allocs := rfl
@[simp] theorem setRg64_descs (p o v : Nat) : (setRg64 s p o v).descs = s.descs := rfl
@[simp] theorem setRg64_parts (p o v : Nat) : (setRg64 s p o v).parts = s.parts := rfl
@[simp] theorem setRg64_tiles (p o v : Nat) : (setRg64 s p o v).tiles = s.tiles := rfl
@[simp] theorem setRg64_sync (p o v : Nat) : (setRg64 s p o v).sync = s.sync := rfl
@[simp] theorem setRg64_fc (p o v : Nat) : (setRg64 s p o v).fc = s.fc := rfl
@[simp] theorem setRg64_fi (p o v : Nat) : (setRg64 s p o v).fi = s.fi := rfl
@[simp] theorem setRg64_msix (p o v : Nat) : (setRg64 s p o v).msix = s.msix := rfl
@[simp] theorem setRg64_ctrls (p o v : Nat) : (setRg64 s p o v).ctrls = s.ctrls := rfl
@[simp] theorem setRg64_links (p o v : Nat) : (setRg64 s p o v).links = s.links := rfl
@[simp] theorem setRg64_chorus (p o v : Nat) : (setRg64 s p o v).chorus = s.chorus := rfl
@[simp] theorem setRg64_hif (p o v : Nat) : (setRg64 s p o v).hif = s.hif := rfl
@[simp] theorem setRg64_power (p o v : Nat) : (setRg64 s p o v).power = s.power := rfl
@[simp] theorem setRg64_boot (p o v : Nat) : (setRg64 s p o v).boot = s.boot := rfl
@[simp] theorem setRg64_sec (p o v : Nat) : (setRg64 s p o v).sec = s.sec := rfl

@[simp] theorem setPart_pending (p : Nat) (x : Part) : (setPart s p x).pending = s.pending := rfl
@[simp] theorem setPart_gcnt (p : Nat) (x : Part) : (setPart s p x).gcnt = s.gcnt := rfl
@[simp] theorem setPart_fcyc (p : Nat) (x : Part) : (setPart s p x).fcyc = s.fcyc := rfl
@[simp] theorem setPart_free (p : Nat) (x : Part) : (setPart s p x).free = s.free := rfl
@[simp] theorem setPart_resp (p : Nat) (x : Part) : (setPart s p x).resp = s.resp := rfl
@[simp] theorem setPart_oos (p : Nat) (x : Part) : (setPart s p x).oos = s.oos := rfl
@[simp] theorem setPart_pages (p : Nat) (x : Part) : (setPart s p x).pages = s.pages := rfl
@[simp] theorem setPart_ready (p : Nat) (x : Part) : (setPart s p x).ready = s.ready := rfl
@[simp] theorem setPart_blks (p : Nat) (x : Part) : (setPart s p x).blks = s.blks := rfl
@[simp] theorem setPart_cnt (p : Nat) (x : Part) : (setPart s p x).cnt = s.cnt := rfl
@[simp] theorem setPart_regs (p : Nat) (x : Part) : (setPart s p x).regs = s.regs := rfl
@[simp] theorem setPart_flash (p : Nat) (x : Part) : (setPart s p x).flash = s.flash := rfl
@[simp] theorem setPart_map (p : Nat) (x : Part) : (setPart s p x).map = s.map := rfl
@[simp] theorem setPart_mem (p : Nat) (x : Part) : (setPart s p x).mem = s.mem := rfl
@[simp] theorem setPart_cache (p : Nat) (x : Part) : (setPart s p x).cache = s.cache := rfl
@[simp] theorem setPart_allocs (p : Nat) (x : Part) : (setPart s p x).allocs = s.allocs := rfl
@[simp] theorem setPart_descs (p : Nat) (x : Part) : (setPart s p x).descs = s.descs := rfl
@[simp] theorem setPart_tiles (p : Nat) (x : Part) : (setPart s p x).tiles = s.tiles := rfl
@[simp] theorem setPart_sync (p : Nat) (x : Part) : (setPart s p x).sync = s.sync := rfl
@[simp] theorem setPart_fc (p : Nat) (x : Part) : (setPart s p x).fc = s.fc := rfl
@[simp] theorem setPart_fi (p : Nat) (x : Part) : (setPart s p x).fi = s.fi := rfl
@[simp] theorem setPart_msix (p : Nat) (x : Part) : (setPart s p x).msix = s.msix := rfl
@[simp] theorem setPart_ctrls (p : Nat) (x : Part) : (setPart s p x).ctrls = s.ctrls := rfl
@[simp] theorem setPart_links (p : Nat) (x : Part) : (setPart s p x).links = s.links := rfl
@[simp] theorem setPart_chorus (p : Nat) (x : Part) : (setPart s p x).chorus = s.chorus := rfl
@[simp] theorem setPart_hif (p : Nat) (x : Part) : (setPart s p x).hif = s.hif := rfl
@[simp] theorem setPart_power (p : Nat) (x : Part) : (setPart s p x).power = s.power := rfl
@[simp] theorem setPart_boot (p : Nat) (x : Part) : (setPart s p x).boot = s.boot := rfl
@[simp] theorem setPart_sec (p : Nat) (x : Part) : (setPart s p x).sec = s.sec := rfl

@[simp] theorem updPart_pending (p : Nat) (f : Part → Part) : (updPart s p f).pending = s.pending := rfl
@[simp] theorem updPart_gcnt (p : Nat) (f : Part → Part) : (updPart s p f).gcnt = s.gcnt := rfl
@[simp] theorem updPart_fcyc (p : Nat) (f : Part → Part) : (updPart s p f).fcyc = s.fcyc := rfl
@[simp] theorem updPart_free (p : Nat) (f : Part → Part) : (updPart s p f).free = s.free := rfl
@[simp] theorem updPart_resp (p : Nat) (f : Part → Part) : (updPart s p f).resp = s.resp := rfl
@[simp] theorem updPart_oos (p : Nat) (f : Part → Part) : (updPart s p f).oos = s.oos := rfl
@[simp] theorem updPart_pages (p : Nat) (f : Part → Part) : (updPart s p f).pages = s.pages := rfl
@[simp] theorem updPart_ready (p : Nat) (f : Part → Part) : (updPart s p f).ready = s.ready := rfl
@[simp] theorem updPart_blks (p : Nat) (f : Part → Part) : (updPart s p f).blks = s.blks := rfl
@[simp] theorem updPart_cnt (p : Nat) (f : Part → Part) : (updPart s p f).cnt = s.cnt := rfl
@[simp] theorem updPart_regs (p : Nat) (f : Part → Part) : (updPart s p f).regs = s.regs := rfl
@[simp] theorem updPart_flash (p : Nat) (f : Part → Part) : (updPart s p f).flash = s.flash := rfl
@[simp] theorem updPart_map (p : Nat) (f : Part → Part) : (updPart s p f).map = s.map := rfl
@[simp] theorem updPart_mem (p : Nat) (f : Part → Part) : (updPart s p f).mem = s.mem := rfl
@[simp] theorem updPart_cache (p : Nat) (f : Part → Part) : (updPart s p f).cache = s.cache := rfl
@[simp] theorem updPart_allocs (p : Nat) (f : Part → Part) : (updPart s p f).allocs = s.allocs := rfl
@[simp] theorem updPart_descs (p : Nat) (f : Part → Part) : (updPart s p f).descs = s.descs := rfl
@[simp] theorem updPart_tiles (p : Nat) (f : Part → Part) : (updPart s p f).tiles = s.tiles := rfl
@[simp] theorem updPart_sync (p : Nat) (f : Part → Part) : (updPart s p f).sync = s.sync := rfl
@[simp] theorem updPart_fc (p : Nat) (f : Part → Part) : (updPart s p f).fc = s.fc := rfl
@[simp] theorem updPart_fi (p : Nat) (f : Part → Part) : (updPart s p f).fi = s.fi := rfl
@[simp] theorem updPart_msix (p : Nat) (f : Part → Part) : (updPart s p f).msix = s.msix := rfl
@[simp] theorem updPart_ctrls (p : Nat) (f : Part → Part) : (updPart s p f).ctrls = s.ctrls := rfl
@[simp] theorem updPart_links (p : Nat) (f : Part → Part) : (updPart s p f).links = s.links := rfl
@[simp] theorem updPart_chorus (p : Nat) (f : Part → Part) : (updPart s p f).chorus = s.chorus := rfl
@[simp] theorem updPart_hif (p : Nat) (f : Part → Part) : (updPart s p f).hif = s.hif := rfl
@[simp] theorem updPart_power (p : Nat) (f : Part → Part) : (updPart s p f).power = s.power := rfl
@[simp] theorem updPart_boot (p : Nat) (f : Part → Part) : (updPart s p f).boot = s.boot := rfl
@[simp] theorem updPart_sec (p : Nat) (f : Part → Part) : (updPart s p f).sec = s.sec := rfl

@[simp] theorem setTile_pending (t : Nat) (x : Tile) : (setTile s t x).pending = s.pending := rfl
@[simp] theorem setTile_gcnt (t : Nat) (x : Tile) : (setTile s t x).gcnt = s.gcnt := rfl
@[simp] theorem setTile_fcyc (t : Nat) (x : Tile) : (setTile s t x).fcyc = s.fcyc := rfl
@[simp] theorem setTile_free (t : Nat) (x : Tile) : (setTile s t x).free = s.free := rfl
@[simp] theorem setTile_resp (t : Nat) (x : Tile) : (setTile s t x).resp = s.resp := rfl
@[simp] theorem setTile_oos (t : Nat) (x : Tile) : (setTile s t x).oos = s.oos := rfl
@[simp] theorem setTile_pages (t : Nat) (x : Tile) : (setTile s t x).pages = s.pages := rfl
@[simp] theorem setTile_ready (t : Nat) (x : Tile) : (setTile s t x).ready = s.ready := rfl
@[simp] theorem setTile_blks (t : Nat) (x : Tile) : (setTile s t x).blks = s.blks := rfl
@[simp] theorem setTile_cnt (t : Nat) (x : Tile) : (setTile s t x).cnt = s.cnt := rfl
@[simp] theorem setTile_regs (t : Nat) (x : Tile) : (setTile s t x).regs = s.regs := rfl
@[simp] theorem setTile_flash (t : Nat) (x : Tile) : (setTile s t x).flash = s.flash := rfl
@[simp] theorem setTile_map (t : Nat) (x : Tile) : (setTile s t x).map = s.map := rfl
@[simp] theorem setTile_mem (t : Nat) (x : Tile) : (setTile s t x).mem = s.mem := rfl
@[simp] theorem setTile_cache (t : Nat) (x : Tile) : (setTile s t x).cache = s.cache := rfl
@[simp] theorem setTile_allocs (t : Nat) (x : Tile) : (setTile s t x).allocs = s.allocs := rfl
@[simp] theorem setTile_descs (t : Nat) (x : Tile) : (setTile s t x).descs = s.descs := rfl
@[simp] theorem setTile_parts (t : Nat) (x : Tile) : (setTile s t x).parts = s.parts := rfl
@[simp] theorem setTile_sync (t : Nat) (x : Tile) : (setTile s t x).sync = s.sync := rfl
@[simp] theorem setTile_fc (t : Nat) (x : Tile) : (setTile s t x).fc = s.fc := rfl
@[simp] theorem setTile_fi (t : Nat) (x : Tile) : (setTile s t x).fi = s.fi := rfl
@[simp] theorem setTile_msix (t : Nat) (x : Tile) : (setTile s t x).msix = s.msix := rfl
@[simp] theorem setTile_ctrls (t : Nat) (x : Tile) : (setTile s t x).ctrls = s.ctrls := rfl
@[simp] theorem setTile_links (t : Nat) (x : Tile) : (setTile s t x).links = s.links := rfl
@[simp] theorem setTile_chorus (t : Nat) (x : Tile) : (setTile s t x).chorus = s.chorus := rfl
@[simp] theorem setTile_hif (t : Nat) (x : Tile) : (setTile s t x).hif = s.hif := rfl
@[simp] theorem setTile_power (t : Nat) (x : Tile) : (setTile s t x).power = s.power := rfl
@[simp] theorem setTile_boot (t : Nat) (x : Tile) : (setTile s t x).boot = s.boot := rfl
@[simp] theorem setTile_sec (t : Nat) (x : Tile) : (setTile s t x).sec = s.sec := rfl

@[simp] theorem updTile_pending (t : Nat) (f : Tile → Tile) : (updTile s t f).pending = s.pending := rfl
@[simp] theorem updTile_gcnt (t : Nat) (f : Tile → Tile) : (updTile s t f).gcnt = s.gcnt := rfl
@[simp] theorem updTile_fcyc (t : Nat) (f : Tile → Tile) : (updTile s t f).fcyc = s.fcyc := rfl
@[simp] theorem updTile_free (t : Nat) (f : Tile → Tile) : (updTile s t f).free = s.free := rfl
@[simp] theorem updTile_resp (t : Nat) (f : Tile → Tile) : (updTile s t f).resp = s.resp := rfl
@[simp] theorem updTile_oos (t : Nat) (f : Tile → Tile) : (updTile s t f).oos = s.oos := rfl
@[simp] theorem updTile_pages (t : Nat) (f : Tile → Tile) : (updTile s t f).pages = s.pages := rfl
@[simp] theorem updTile_ready (t : Nat) (f : Tile → Tile) : (updTile s t f).ready = s.ready := rfl
@[simp] theorem updTile_blks (t : Nat) (f : Tile → Tile) : (updTile s t f).blks = s.blks := rfl
@[simp] theorem updTile_cnt (t : Nat) (f : Tile → Tile) : (updTile s t f).cnt = s.cnt := rfl
@[simp] theorem updTile_regs (t : Nat) (f : Tile → Tile) : (updTile s t f).regs = s.regs := rfl
@[simp] theorem updTile_flash (t : Nat) (f : Tile → Tile) : (updTile s t f).flash = s.flash := rfl
@[simp] theorem updTile_map (t : Nat) (f : Tile → Tile) : (updTile s t f).map = s.map := rfl
@[simp] theorem updTile_mem (t : Nat) (f : Tile → Tile) : (updTile s t f).mem = s.mem := rfl
@[simp] theorem updTile_cache (t : Nat) (f : Tile → Tile) : (updTile s t f).cache = s.cache := rfl
@[simp] theorem updTile_allocs (t : Nat) (f : Tile → Tile) : (updTile s t f).allocs = s.allocs := rfl
@[simp] theorem updTile_descs (t : Nat) (f : Tile → Tile) : (updTile s t f).descs = s.descs := rfl
@[simp] theorem updTile_parts (t : Nat) (f : Tile → Tile) : (updTile s t f).parts = s.parts := rfl
@[simp] theorem updTile_sync (t : Nat) (f : Tile → Tile) : (updTile s t f).sync = s.sync := rfl
@[simp] theorem updTile_fc (t : Nat) (f : Tile → Tile) : (updTile s t f).fc = s.fc := rfl
@[simp] theorem updTile_fi (t : Nat) (f : Tile → Tile) : (updTile s t f).fi = s.fi := rfl
@[simp] theorem updTile_msix (t : Nat) (f : Tile → Tile) : (updTile s t f).msix = s.msix := rfl
@[simp] theorem updTile_ctrls (t : Nat) (f : Tile → Tile) : (updTile s t f).ctrls = s.ctrls := rfl
@[simp] theorem updTile_links (t : Nat) (f : Tile → Tile) : (updTile s t f).links = s.links := rfl
@[simp] theorem updTile_chorus (t : Nat) (f : Tile → Tile) : (updTile s t f).chorus = s.chorus := rfl
@[simp] theorem updTile_hif (t : Nat) (f : Tile → Tile) : (updTile s t f).hif = s.hif := rfl
@[simp] theorem updTile_power (t : Nat) (f : Tile → Tile) : (updTile s t f).power = s.power := rfl
@[simp] theorem updTile_boot (t : Nat) (f : Tile → Tile) : (updTile s t f).boot = s.boot := rfl
@[simp] theorem updTile_sec (t : Nat) (f : Tile → Tile) : (updTile s t f).sec = s.sec := rfl

@[simp] theorem setCnt_pending (p i : Nat) (c : Counter) : (setCnt s p i c).pending = s.pending := rfl
@[simp] theorem setCnt_gcnt (p i : Nat) (c : Counter) : (setCnt s p i c).gcnt = s.gcnt := rfl
@[simp] theorem setCnt_fcyc (p i : Nat) (c : Counter) : (setCnt s p i c).fcyc = s.fcyc := rfl
@[simp] theorem setCnt_free (p i : Nat) (c : Counter) : (setCnt s p i c).free = s.free := rfl
@[simp] theorem setCnt_resp (p i : Nat) (c : Counter) : (setCnt s p i c).resp = s.resp := rfl
@[simp] theorem setCnt_oos (p i : Nat) (c : Counter) : (setCnt s p i c).oos = s.oos := rfl
@[simp] theorem setCnt_pages (p i : Nat) (c : Counter) : (setCnt s p i c).pages = s.pages := rfl
@[simp] theorem setCnt_ready (p i : Nat) (c : Counter) : (setCnt s p i c).ready = s.ready := rfl
@[simp] theorem setCnt_blks (p i : Nat) (c : Counter) : (setCnt s p i c).blks = s.blks := rfl
@[simp] theorem setCnt_regs (p i : Nat) (c : Counter) : (setCnt s p i c).regs = s.regs := rfl
@[simp] theorem setCnt_flash (p i : Nat) (c : Counter) : (setCnt s p i c).flash = s.flash := rfl
@[simp] theorem setCnt_map (p i : Nat) (c : Counter) : (setCnt s p i c).map = s.map := rfl
@[simp] theorem setCnt_mem (p i : Nat) (c : Counter) : (setCnt s p i c).mem = s.mem := rfl
@[simp] theorem setCnt_cache (p i : Nat) (c : Counter) : (setCnt s p i c).cache = s.cache := rfl
@[simp] theorem setCnt_allocs (p i : Nat) (c : Counter) : (setCnt s p i c).allocs = s.allocs := rfl
@[simp] theorem setCnt_descs (p i : Nat) (c : Counter) : (setCnt s p i c).descs = s.descs := rfl
@[simp] theorem setCnt_parts (p i : Nat) (c : Counter) : (setCnt s p i c).parts = s.parts := rfl
@[simp] theorem setCnt_tiles (p i : Nat) (c : Counter) : (setCnt s p i c).tiles = s.tiles := rfl
@[simp] theorem setCnt_sync (p i : Nat) (c : Counter) : (setCnt s p i c).sync = s.sync := rfl
@[simp] theorem setCnt_fc (p i : Nat) (c : Counter) : (setCnt s p i c).fc = s.fc := rfl
@[simp] theorem setCnt_fi (p i : Nat) (c : Counter) : (setCnt s p i c).fi = s.fi := rfl
@[simp] theorem setCnt_msix (p i : Nat) (c : Counter) : (setCnt s p i c).msix = s.msix := rfl
@[simp] theorem setCnt_ctrls (p i : Nat) (c : Counter) : (setCnt s p i c).ctrls = s.ctrls := rfl
@[simp] theorem setCnt_links (p i : Nat) (c : Counter) : (setCnt s p i c).links = s.links := rfl
@[simp] theorem setCnt_chorus (p i : Nat) (c : Counter) : (setCnt s p i c).chorus = s.chorus := rfl
@[simp] theorem setCnt_hif (p i : Nat) (c : Counter) : (setCnt s p i c).hif = s.hif := rfl
@[simp] theorem setCnt_power (p i : Nat) (c : Counter) : (setCnt s p i c).power = s.power := rfl
@[simp] theorem setCnt_boot (p i : Nat) (c : Counter) : (setCnt s p i c).boot = s.boot := rfl
@[simp] theorem setCnt_sec (p i : Nat) (c : Counter) : (setCnt s p i c).sec = s.sec := rfl

@[simp] theorem setCtrl_pending (k : Nat) (c : Ctrl) : (setCtrl s k c).pending = s.pending := rfl
@[simp] theorem setCtrl_gcnt (k : Nat) (c : Ctrl) : (setCtrl s k c).gcnt = s.gcnt := rfl
@[simp] theorem setCtrl_fcyc (k : Nat) (c : Ctrl) : (setCtrl s k c).fcyc = s.fcyc := rfl
@[simp] theorem setCtrl_free (k : Nat) (c : Ctrl) : (setCtrl s k c).free = s.free := rfl
@[simp] theorem setCtrl_resp (k : Nat) (c : Ctrl) : (setCtrl s k c).resp = s.resp := rfl
@[simp] theorem setCtrl_oos (k : Nat) (c : Ctrl) : (setCtrl s k c).oos = s.oos := rfl
@[simp] theorem setCtrl_pages (k : Nat) (c : Ctrl) : (setCtrl s k c).pages = s.pages := rfl
@[simp] theorem setCtrl_ready (k : Nat) (c : Ctrl) : (setCtrl s k c).ready = s.ready := rfl
@[simp] theorem setCtrl_blks (k : Nat) (c : Ctrl) : (setCtrl s k c).blks = s.blks := rfl
@[simp] theorem setCtrl_cnt (k : Nat) (c : Ctrl) : (setCtrl s k c).cnt = s.cnt := rfl
@[simp] theorem setCtrl_regs (k : Nat) (c : Ctrl) : (setCtrl s k c).regs = s.regs := rfl
@[simp] theorem setCtrl_flash (k : Nat) (c : Ctrl) : (setCtrl s k c).flash = s.flash := rfl
@[simp] theorem setCtrl_map (k : Nat) (c : Ctrl) : (setCtrl s k c).map = s.map := rfl
@[simp] theorem setCtrl_mem (k : Nat) (c : Ctrl) : (setCtrl s k c).mem = s.mem := rfl
@[simp] theorem setCtrl_cache (k : Nat) (c : Ctrl) : (setCtrl s k c).cache = s.cache := rfl
@[simp] theorem setCtrl_allocs (k : Nat) (c : Ctrl) : (setCtrl s k c).allocs = s.allocs := rfl
@[simp] theorem setCtrl_descs (k : Nat) (c : Ctrl) : (setCtrl s k c).descs = s.descs := rfl
@[simp] theorem setCtrl_parts (k : Nat) (c : Ctrl) : (setCtrl s k c).parts = s.parts := rfl
@[simp] theorem setCtrl_tiles (k : Nat) (c : Ctrl) : (setCtrl s k c).tiles = s.tiles := rfl
@[simp] theorem setCtrl_sync (k : Nat) (c : Ctrl) : (setCtrl s k c).sync = s.sync := rfl
@[simp] theorem setCtrl_fc (k : Nat) (c : Ctrl) : (setCtrl s k c).fc = s.fc := rfl
@[simp] theorem setCtrl_fi (k : Nat) (c : Ctrl) : (setCtrl s k c).fi = s.fi := rfl
@[simp] theorem setCtrl_msix (k : Nat) (c : Ctrl) : (setCtrl s k c).msix = s.msix := rfl
@[simp] theorem setCtrl_links (k : Nat) (c : Ctrl) : (setCtrl s k c).links = s.links := rfl
@[simp] theorem setCtrl_chorus (k : Nat) (c : Ctrl) : (setCtrl s k c).chorus = s.chorus := rfl
@[simp] theorem setCtrl_hif (k : Nat) (c : Ctrl) : (setCtrl s k c).hif = s.hif := rfl
@[simp] theorem setCtrl_power (k : Nat) (c : Ctrl) : (setCtrl s k c).power = s.power := rfl
@[simp] theorem setCtrl_boot (k : Nat) (c : Ctrl) : (setCtrl s k c).boot = s.boot := rfl
@[simp] theorem setCtrl_sec (k : Nat) (c : Ctrl) : (setCtrl s k c).sec = s.sec := rfl

@[simp] theorem setLk_pending (n : Nat) (l : LinkSt) : (setLk s n l).pending = s.pending := rfl
@[simp] theorem setLk_gcnt (n : Nat) (l : LinkSt) : (setLk s n l).gcnt = s.gcnt := rfl
@[simp] theorem setLk_fcyc (n : Nat) (l : LinkSt) : (setLk s n l).fcyc = s.fcyc := rfl
@[simp] theorem setLk_free (n : Nat) (l : LinkSt) : (setLk s n l).free = s.free := rfl
@[simp] theorem setLk_resp (n : Nat) (l : LinkSt) : (setLk s n l).resp = s.resp := rfl
@[simp] theorem setLk_oos (n : Nat) (l : LinkSt) : (setLk s n l).oos = s.oos := rfl
@[simp] theorem setLk_pages (n : Nat) (l : LinkSt) : (setLk s n l).pages = s.pages := rfl
@[simp] theorem setLk_ready (n : Nat) (l : LinkSt) : (setLk s n l).ready = s.ready := rfl
@[simp] theorem setLk_blks (n : Nat) (l : LinkSt) : (setLk s n l).blks = s.blks := rfl
@[simp] theorem setLk_cnt (n : Nat) (l : LinkSt) : (setLk s n l).cnt = s.cnt := rfl
@[simp] theorem setLk_regs (n : Nat) (l : LinkSt) : (setLk s n l).regs = s.regs := rfl
@[simp] theorem setLk_flash (n : Nat) (l : LinkSt) : (setLk s n l).flash = s.flash := rfl
@[simp] theorem setLk_map (n : Nat) (l : LinkSt) : (setLk s n l).map = s.map := rfl
@[simp] theorem setLk_mem (n : Nat) (l : LinkSt) : (setLk s n l).mem = s.mem := rfl
@[simp] theorem setLk_cache (n : Nat) (l : LinkSt) : (setLk s n l).cache = s.cache := rfl
@[simp] theorem setLk_allocs (n : Nat) (l : LinkSt) : (setLk s n l).allocs = s.allocs := rfl
@[simp] theorem setLk_descs (n : Nat) (l : LinkSt) : (setLk s n l).descs = s.descs := rfl
@[simp] theorem setLk_parts (n : Nat) (l : LinkSt) : (setLk s n l).parts = s.parts := rfl
@[simp] theorem setLk_tiles (n : Nat) (l : LinkSt) : (setLk s n l).tiles = s.tiles := rfl
@[simp] theorem setLk_sync (n : Nat) (l : LinkSt) : (setLk s n l).sync = s.sync := rfl
@[simp] theorem setLk_fc (n : Nat) (l : LinkSt) : (setLk s n l).fc = s.fc := rfl
@[simp] theorem setLk_fi (n : Nat) (l : LinkSt) : (setLk s n l).fi = s.fi := rfl
@[simp] theorem setLk_msix (n : Nat) (l : LinkSt) : (setLk s n l).msix = s.msix := rfl
@[simp] theorem setLk_ctrls (n : Nat) (l : LinkSt) : (setLk s n l).ctrls = s.ctrls := rfl
@[simp] theorem setLk_chorus (n : Nat) (l : LinkSt) : (setLk s n l).chorus = s.chorus := rfl
@[simp] theorem setLk_hif (n : Nat) (l : LinkSt) : (setLk s n l).hif = s.hif := rfl
@[simp] theorem setLk_power (n : Nat) (l : LinkSt) : (setLk s n l).power = s.power := rfl
@[simp] theorem setLk_boot (n : Nat) (l : LinkSt) : (setLk s n l).boot = s.boot := rfl
@[simp] theorem setLk_sec (n : Nat) (l : LinkSt) : (setLk s n l).sec = s.sec := rfl

@[simp] theorem setSync_pending (n : Nat) (o : SyncObj) : (setSync s n o).pending = s.pending := rfl
@[simp] theorem setSync_gcnt (n : Nat) (o : SyncObj) : (setSync s n o).gcnt = s.gcnt := rfl
@[simp] theorem setSync_fcyc (n : Nat) (o : SyncObj) : (setSync s n o).fcyc = s.fcyc := rfl
@[simp] theorem setSync_free (n : Nat) (o : SyncObj) : (setSync s n o).free = s.free := rfl
@[simp] theorem setSync_resp (n : Nat) (o : SyncObj) : (setSync s n o).resp = s.resp := rfl
@[simp] theorem setSync_oos (n : Nat) (o : SyncObj) : (setSync s n o).oos = s.oos := rfl
@[simp] theorem setSync_pages (n : Nat) (o : SyncObj) : (setSync s n o).pages = s.pages := rfl
@[simp] theorem setSync_ready (n : Nat) (o : SyncObj) : (setSync s n o).ready = s.ready := rfl
@[simp] theorem setSync_blks (n : Nat) (o : SyncObj) : (setSync s n o).blks = s.blks := rfl
@[simp] theorem setSync_cnt (n : Nat) (o : SyncObj) : (setSync s n o).cnt = s.cnt := rfl
@[simp] theorem setSync_regs (n : Nat) (o : SyncObj) : (setSync s n o).regs = s.regs := rfl
@[simp] theorem setSync_flash (n : Nat) (o : SyncObj) : (setSync s n o).flash = s.flash := rfl
@[simp] theorem setSync_map (n : Nat) (o : SyncObj) : (setSync s n o).map = s.map := rfl
@[simp] theorem setSync_mem (n : Nat) (o : SyncObj) : (setSync s n o).mem = s.mem := rfl
@[simp] theorem setSync_cache (n : Nat) (o : SyncObj) : (setSync s n o).cache = s.cache := rfl
@[simp] theorem setSync_allocs (n : Nat) (o : SyncObj) : (setSync s n o).allocs = s.allocs := rfl
@[simp] theorem setSync_descs (n : Nat) (o : SyncObj) : (setSync s n o).descs = s.descs := rfl
@[simp] theorem setSync_parts (n : Nat) (o : SyncObj) : (setSync s n o).parts = s.parts := rfl
@[simp] theorem setSync_tiles (n : Nat) (o : SyncObj) : (setSync s n o).tiles = s.tiles := rfl
@[simp] theorem setSync_fc (n : Nat) (o : SyncObj) : (setSync s n o).fc = s.fc := rfl
@[simp] theorem setSync_fi (n : Nat) (o : SyncObj) : (setSync s n o).fi = s.fi := rfl
@[simp] theorem setSync_msix (n : Nat) (o : SyncObj) : (setSync s n o).msix = s.msix := rfl
@[simp] theorem setSync_ctrls (n : Nat) (o : SyncObj) : (setSync s n o).ctrls = s.ctrls := rfl
@[simp] theorem setSync_links (n : Nat) (o : SyncObj) : (setSync s n o).links = s.links := rfl
@[simp] theorem setSync_chorus (n : Nat) (o : SyncObj) : (setSync s n o).chorus = s.chorus := rfl
@[simp] theorem setSync_hif (n : Nat) (o : SyncObj) : (setSync s n o).hif = s.hif := rfl
@[simp] theorem setSync_power (n : Nat) (o : SyncObj) : (setSync s n o).power = s.power := rfl
@[simp] theorem setSync_boot (n : Nat) (o : SyncObj) : (setSync s n o).boot = s.boot := rfl
@[simp] theorem setSync_sec (n : Nat) (o : SyncObj) : (setSync s n o).sec = s.sec := rfl

@[simp] theorem sendMsix_pending (v : Nat) : (sendMsix s v).pending = s.pending := rfl
@[simp] theorem sendMsix_gcnt (v : Nat) : (sendMsix s v).gcnt = s.gcnt := rfl
@[simp] theorem sendMsix_fcyc (v : Nat) : (sendMsix s v).fcyc = s.fcyc := rfl
@[simp] theorem sendMsix_free (v : Nat) : (sendMsix s v).free = s.free := rfl
@[simp] theorem sendMsix_resp (v : Nat) : (sendMsix s v).resp = s.resp := rfl
@[simp] theorem sendMsix_oos (v : Nat) : (sendMsix s v).oos = s.oos := rfl
@[simp] theorem sendMsix_pages (v : Nat) : (sendMsix s v).pages = s.pages := rfl
@[simp] theorem sendMsix_ready (v : Nat) : (sendMsix s v).ready = s.ready := rfl
@[simp] theorem sendMsix_blks (v : Nat) : (sendMsix s v).blks = s.blks := rfl
@[simp] theorem sendMsix_cnt (v : Nat) : (sendMsix s v).cnt = s.cnt := rfl
@[simp] theorem sendMsix_regs (v : Nat) : (sendMsix s v).regs = s.regs := rfl
@[simp] theorem sendMsix_flash (v : Nat) : (sendMsix s v).flash = s.flash := rfl
@[simp] theorem sendMsix_map (v : Nat) : (sendMsix s v).map = s.map := rfl
@[simp] theorem sendMsix_mem (v : Nat) : (sendMsix s v).mem = s.mem := rfl
@[simp] theorem sendMsix_cache (v : Nat) : (sendMsix s v).cache = s.cache := rfl
@[simp] theorem sendMsix_allocs (v : Nat) : (sendMsix s v).allocs = s.allocs := rfl
@[simp] theorem sendMsix_descs (v : Nat) : (sendMsix s v).descs = s.descs := rfl
@[simp] theorem sendMsix_parts (v : Nat) : (sendMsix s v).parts = s.parts := rfl
@[simp] theorem sendMsix_tiles (v : Nat) : (sendMsix s v).tiles = s.tiles := rfl
@[simp] theorem sendMsix_sync (v : Nat) : (sendMsix s v).sync = s.sync := rfl
@[simp] theorem sendMsix_fc (v : Nat) : (sendMsix s v).fc = s.fc := rfl
@[simp] theorem sendMsix_fi (v : Nat) : (sendMsix s v).fi = s.fi := rfl
@[simp] theorem sendMsix_ctrls (v : Nat) : (sendMsix s v).ctrls = s.ctrls := rfl
@[simp] theorem sendMsix_links (v : Nat) : (sendMsix s v).links = s.links := rfl
@[simp] theorem sendMsix_chorus (v : Nat) : (sendMsix s v).chorus = s.chorus := rfl
@[simp] theorem sendMsix_hif (v : Nat) : (sendMsix s v).hif = s.hif := rfl
@[simp] theorem sendMsix_power (v : Nat) : (sendMsix s v).power = s.power := rfl
@[simp] theorem sendMsix_boot (v : Nat) : (sendMsix s v).boot = s.boot := rfl
@[simp] theorem sendMsix_sec (v : Nat) : (sendMsix s v).sec = s.sec := rfl

@[simp] theorem postResult_pending (p code echo : Nat) : (postResult s p code echo).pending = s.pending := rfl
@[simp] theorem postResult_gcnt (p code echo : Nat) : (postResult s p code echo).gcnt = s.gcnt := rfl
@[simp] theorem postResult_fcyc (p code echo : Nat) : (postResult s p code echo).fcyc = s.fcyc := rfl
@[simp] theorem postResult_free (p code echo : Nat) : (postResult s p code echo).free = s.free := rfl
@[simp] theorem postResult_resp (p code echo : Nat) : (postResult s p code echo).resp = s.resp := rfl
@[simp] theorem postResult_oos (p code echo : Nat) : (postResult s p code echo).oos = s.oos := rfl
@[simp] theorem postResult_ready (p code echo : Nat) : (postResult s p code echo).ready = s.ready := rfl
@[simp] theorem postResult_blks (p code echo : Nat) : (postResult s p code echo).blks = s.blks := rfl
@[simp] theorem postResult_cnt (p code echo : Nat) : (postResult s p code echo).cnt = s.cnt := rfl
@[simp] theorem postResult_regs (p code echo : Nat) : (postResult s p code echo).regs = s.regs := rfl
@[simp] theorem postResult_flash (p code echo : Nat) : (postResult s p code echo).flash = s.flash := rfl
@[simp] theorem postResult_map (p code echo : Nat) : (postResult s p code echo).map = s.map := rfl
@[simp] theorem postResult_mem (p code echo : Nat) : (postResult s p code echo).mem = s.mem := rfl
@[simp] theorem postResult_cache (p code echo : Nat) : (postResult s p code echo).cache = s.cache := rfl
@[simp] theorem postResult_allocs (p code echo : Nat) : (postResult s p code echo).allocs = s.allocs := rfl
@[simp] theorem postResult_descs (p code echo : Nat) : (postResult s p code echo).descs = s.descs := rfl
@[simp] theorem postResult_parts (p code echo : Nat) : (postResult s p code echo).parts = s.parts := rfl
@[simp] theorem postResult_tiles (p code echo : Nat) : (postResult s p code echo).tiles = s.tiles := rfl
@[simp] theorem postResult_sync (p code echo : Nat) : (postResult s p code echo).sync = s.sync := rfl
@[simp] theorem postResult_fc (p code echo : Nat) : (postResult s p code echo).fc = s.fc := rfl
@[simp] theorem postResult_fi (p code echo : Nat) : (postResult s p code echo).fi = s.fi := rfl
@[simp] theorem postResult_msix (p code echo : Nat) : (postResult s p code echo).msix = s.msix := rfl
@[simp] theorem postResult_ctrls (p code echo : Nat) : (postResult s p code echo).ctrls = s.ctrls := rfl
@[simp] theorem postResult_links (p code echo : Nat) : (postResult s p code echo).links = s.links := rfl
@[simp] theorem postResult_chorus (p code echo : Nat) : (postResult s p code echo).chorus = s.chorus := rfl
@[simp] theorem postResult_hif (p code echo : Nat) : (postResult s p code echo).hif = s.hif := rfl
@[simp] theorem postResult_power (p code echo : Nat) : (postResult s p code echo).power = s.power := rfl
@[simp] theorem postResult_boot (p code echo : Nat) : (postResult s p code echo).boot = s.boot := rfl
@[simp] theorem postResult_sec (p code echo : Nat) : (postResult s p code echo).sec = s.sec := rfl

@[simp] theorem postDone_pending (p code echo : Nat) : (postDone s p code echo).pending = s.pending := rfl
@[simp] theorem postDone_gcnt (p code echo : Nat) : (postDone s p code echo).gcnt = s.gcnt := rfl
@[simp] theorem postDone_fcyc (p code echo : Nat) : (postDone s p code echo).fcyc = s.fcyc := rfl
@[simp] theorem postDone_free (p code echo : Nat) : (postDone s p code echo).free = s.free := rfl
@[simp] theorem postDone_resp (p code echo : Nat) : (postDone s p code echo).resp = s.resp := rfl
@[simp] theorem postDone_oos (p code echo : Nat) : (postDone s p code echo).oos = s.oos := rfl
@[simp] theorem postDone_ready (p code echo : Nat) : (postDone s p code echo).ready = s.ready := rfl
@[simp] theorem postDone_blks (p code echo : Nat) : (postDone s p code echo).blks = s.blks := rfl
@[simp] theorem postDone_cnt (p code echo : Nat) : (postDone s p code echo).cnt = s.cnt := rfl
@[simp] theorem postDone_regs (p code echo : Nat) : (postDone s p code echo).regs = s.regs := rfl
@[simp] theorem postDone_flash (p code echo : Nat) : (postDone s p code echo).flash = s.flash := rfl
@[simp] theorem postDone_map (p code echo : Nat) : (postDone s p code echo).map = s.map := rfl
@[simp] theorem postDone_mem (p code echo : Nat) : (postDone s p code echo).mem = s.mem := rfl
@[simp] theorem postDone_cache (p code echo : Nat) : (postDone s p code echo).cache = s.cache := rfl
@[simp] theorem postDone_allocs (p code echo : Nat) : (postDone s p code echo).allocs = s.allocs := rfl
@[simp] theorem postDone_descs (p code echo : Nat) : (postDone s p code echo).descs = s.descs := rfl
@[simp] theorem postDone_parts (p code echo : Nat) : (postDone s p code echo).parts = s.parts := rfl
@[simp] theorem postDone_tiles (p code echo : Nat) : (postDone s p code echo).tiles = s.tiles := rfl
@[simp] theorem postDone_sync (p code echo : Nat) : (postDone s p code echo).sync = s.sync := rfl
@[simp] theorem postDone_fc (p code echo : Nat) : (postDone s p code echo).fc = s.fc := rfl
@[simp] theorem postDone_fi (p code echo : Nat) : (postDone s p code echo).fi = s.fi := rfl
@[simp] theorem postDone_msix (p code echo : Nat) : (postDone s p code echo).msix = s.msix := rfl
@[simp] theorem postDone_ctrls (p code echo : Nat) : (postDone s p code echo).ctrls = s.ctrls := rfl
@[simp] theorem postDone_links (p code echo : Nat) : (postDone s p code echo).links = s.links := rfl
@[simp] theorem postDone_chorus (p code echo : Nat) : (postDone s p code echo).chorus = s.chorus := rfl
@[simp] theorem postDone_hif (p code echo : Nat) : (postDone s p code echo).hif = s.hif := rfl
@[simp] theorem postDone_power (p code echo : Nat) : (postDone s p code echo).power = s.power := rfl
@[simp] theorem postDone_boot (p code echo : Nat) : (postDone s p code echo).boot = s.boot := rfl
@[simp] theorem postDone_sec (p code echo : Nat) : (postDone s p code echo).sec = s.sec := rfl

@[simp] theorem postRunning_pending (p echo : Nat) : (postRunning s p echo).pending = s.pending := rfl
@[simp] theorem postRunning_gcnt (p echo : Nat) : (postRunning s p echo).gcnt = s.gcnt := rfl
@[simp] theorem postRunning_fcyc (p echo : Nat) : (postRunning s p echo).fcyc = s.fcyc := rfl
@[simp] theorem postRunning_free (p echo : Nat) : (postRunning s p echo).free = s.free := rfl
@[simp] theorem postRunning_resp (p echo : Nat) : (postRunning s p echo).resp = s.resp := rfl
@[simp] theorem postRunning_oos (p echo : Nat) : (postRunning s p echo).oos = s.oos := rfl
@[simp] theorem postRunning_ready (p echo : Nat) : (postRunning s p echo).ready = s.ready := rfl
@[simp] theorem postRunning_blks (p echo : Nat) : (postRunning s p echo).blks = s.blks := rfl
@[simp] theorem postRunning_cnt (p echo : Nat) : (postRunning s p echo).cnt = s.cnt := rfl
@[simp] theorem postRunning_regs (p echo : Nat) : (postRunning s p echo).regs = s.regs := rfl
@[simp] theorem postRunning_flash (p echo : Nat) : (postRunning s p echo).flash = s.flash := rfl
@[simp] theorem postRunning_map (p echo : Nat) : (postRunning s p echo).map = s.map := rfl
@[simp] theorem postRunning_mem (p echo : Nat) : (postRunning s p echo).mem = s.mem := rfl
@[simp] theorem postRunning_cache (p echo : Nat) : (postRunning s p echo).cache = s.cache := rfl
@[simp] theorem postRunning_allocs (p echo : Nat) : (postRunning s p echo).allocs = s.allocs := rfl
@[simp] theorem postRunning_descs (p echo : Nat) : (postRunning s p echo).descs = s.descs := rfl
@[simp] theorem postRunning_parts (p echo : Nat) : (postRunning s p echo).parts = s.parts := rfl
@[simp] theorem postRunning_tiles (p echo : Nat) : (postRunning s p echo).tiles = s.tiles := rfl
@[simp] theorem postRunning_sync (p echo : Nat) : (postRunning s p echo).sync = s.sync := rfl
@[simp] theorem postRunning_fc (p echo : Nat) : (postRunning s p echo).fc = s.fc := rfl
@[simp] theorem postRunning_fi (p echo : Nat) : (postRunning s p echo).fi = s.fi := rfl
@[simp] theorem postRunning_msix (p echo : Nat) : (postRunning s p echo).msix = s.msix := rfl
@[simp] theorem postRunning_ctrls (p echo : Nat) : (postRunning s p echo).ctrls = s.ctrls := rfl
@[simp] theorem postRunning_links (p echo : Nat) : (postRunning s p echo).links = s.links := rfl
@[simp] theorem postRunning_chorus (p echo : Nat) : (postRunning s p echo).chorus = s.chorus := rfl
@[simp] theorem postRunning_hif (p echo : Nat) : (postRunning s p echo).hif = s.hif := rfl
@[simp] theorem postRunning_power (p echo : Nat) : (postRunning s p echo).power = s.power := rfl
@[simp] theorem postRunning_boot (p echo : Nat) : (postRunning s p echo).boot = s.boot := rfl
@[simp] theorem postRunning_sec (p echo : Nat) : (postRunning s p echo).sec = s.sec := rfl

@[simp] theorem noteWrite_pending (p : Nat) : (noteWrite s p).pending = s.pending := rfl
@[simp] theorem noteWrite_gcnt (p : Nat) : (noteWrite s p).gcnt = s.gcnt := rfl
@[simp] theorem noteWrite_fcyc (p : Nat) : (noteWrite s p).fcyc = s.fcyc := rfl
@[simp] theorem noteWrite_free (p : Nat) : (noteWrite s p).free = s.free := rfl
@[simp] theorem noteWrite_resp (p : Nat) : (noteWrite s p).resp = s.resp := rfl
@[simp] theorem noteWrite_oos (p : Nat) : (noteWrite s p).oos = s.oos := rfl
@[simp] theorem noteWrite_ready (p : Nat) : (noteWrite s p).ready = s.ready := rfl
@[simp] theorem noteWrite_blks (p : Nat) : (noteWrite s p).blks = s.blks := rfl
@[simp] theorem noteWrite_cnt (p : Nat) : (noteWrite s p).cnt = s.cnt := rfl
@[simp] theorem noteWrite_regs (p : Nat) : (noteWrite s p).regs = s.regs := rfl
@[simp] theorem noteWrite_flash (p : Nat) : (noteWrite s p).flash = s.flash := rfl
@[simp] theorem noteWrite_map (p : Nat) : (noteWrite s p).map = s.map := rfl
@[simp] theorem noteWrite_mem (p : Nat) : (noteWrite s p).mem = s.mem := rfl
@[simp] theorem noteWrite_cache (p : Nat) : (noteWrite s p).cache = s.cache := rfl
@[simp] theorem noteWrite_allocs (p : Nat) : (noteWrite s p).allocs = s.allocs := rfl
@[simp] theorem noteWrite_descs (p : Nat) : (noteWrite s p).descs = s.descs := rfl
@[simp] theorem noteWrite_parts (p : Nat) : (noteWrite s p).parts = s.parts := rfl
@[simp] theorem noteWrite_tiles (p : Nat) : (noteWrite s p).tiles = s.tiles := rfl
@[simp] theorem noteWrite_sync (p : Nat) : (noteWrite s p).sync = s.sync := rfl
@[simp] theorem noteWrite_fc (p : Nat) : (noteWrite s p).fc = s.fc := rfl
@[simp] theorem noteWrite_fi (p : Nat) : (noteWrite s p).fi = s.fi := rfl
@[simp] theorem noteWrite_msix (p : Nat) : (noteWrite s p).msix = s.msix := rfl
@[simp] theorem noteWrite_ctrls (p : Nat) : (noteWrite s p).ctrls = s.ctrls := rfl
@[simp] theorem noteWrite_links (p : Nat) : (noteWrite s p).links = s.links := rfl
@[simp] theorem noteWrite_chorus (p : Nat) : (noteWrite s p).chorus = s.chorus := rfl
@[simp] theorem noteWrite_hif (p : Nat) : (noteWrite s p).hif = s.hif := rfl
@[simp] theorem noteWrite_power (p : Nat) : (noteWrite s p).power = s.power := rfl
@[simp] theorem noteWrite_boot (p : Nat) : (noteWrite s p).boot = s.boot := rfl
@[simp] theorem noteWrite_sec (p : Nat) : (noteWrite s p).sec = s.sec := rfl

@[simp] theorem setCtl_pending (p i : Nat) (b : Bool) : (setCtl s p i b).pending = s.pending := rfl
@[simp] theorem setCtl_gcnt (p i : Nat) (b : Bool) : (setCtl s p i b).gcnt = s.gcnt := rfl
@[simp] theorem setCtl_fcyc (p i : Nat) (b : Bool) : (setCtl s p i b).fcyc = s.fcyc := rfl
@[simp] theorem setCtl_free (p i : Nat) (b : Bool) : (setCtl s p i b).free = s.free := rfl
@[simp] theorem setCtl_resp (p i : Nat) (b : Bool) : (setCtl s p i b).resp = s.resp := rfl
@[simp] theorem setCtl_oos (p i : Nat) (b : Bool) : (setCtl s p i b).oos = s.oos := rfl
@[simp] theorem setCtl_pages (p i : Nat) (b : Bool) : (setCtl s p i b).pages = s.pages := rfl
@[simp] theorem setCtl_ready (p i : Nat) (b : Bool) : (setCtl s p i b).ready = s.ready := rfl
@[simp] theorem setCtl_cnt (p i : Nat) (b : Bool) : (setCtl s p i b).cnt = s.cnt := rfl
@[simp] theorem setCtl_regs (p i : Nat) (b : Bool) : (setCtl s p i b).regs = s.regs := rfl
@[simp] theorem setCtl_flash (p i : Nat) (b : Bool) : (setCtl s p i b).flash = s.flash := rfl
@[simp] theorem setCtl_map (p i : Nat) (b : Bool) : (setCtl s p i b).map = s.map := rfl
@[simp] theorem setCtl_mem (p i : Nat) (b : Bool) : (setCtl s p i b).mem = s.mem := rfl
@[simp] theorem setCtl_cache (p i : Nat) (b : Bool) : (setCtl s p i b).cache = s.cache := rfl
@[simp] theorem setCtl_allocs (p i : Nat) (b : Bool) : (setCtl s p i b).allocs = s.allocs := rfl
@[simp] theorem setCtl_descs (p i : Nat) (b : Bool) : (setCtl s p i b).descs = s.descs := rfl
@[simp] theorem setCtl_parts (p i : Nat) (b : Bool) : (setCtl s p i b).parts = s.parts := rfl
@[simp] theorem setCtl_tiles (p i : Nat) (b : Bool) : (setCtl s p i b).tiles = s.tiles := rfl
@[simp] theorem setCtl_sync (p i : Nat) (b : Bool) : (setCtl s p i b).sync = s.sync := rfl
@[simp] theorem setCtl_fc (p i : Nat) (b : Bool) : (setCtl s p i b).fc = s.fc := rfl
@[simp] theorem setCtl_fi (p i : Nat) (b : Bool) : (setCtl s p i b).fi = s.fi := rfl
@[simp] theorem setCtl_msix (p i : Nat) (b : Bool) : (setCtl s p i b).msix = s.msix := rfl
@[simp] theorem setCtl_ctrls (p i : Nat) (b : Bool) : (setCtl s p i b).ctrls = s.ctrls := rfl
@[simp] theorem setCtl_links (p i : Nat) (b : Bool) : (setCtl s p i b).links = s.links := rfl
@[simp] theorem setCtl_chorus (p i : Nat) (b : Bool) : (setCtl s p i b).chorus = s.chorus := rfl
@[simp] theorem setCtl_hif (p i : Nat) (b : Bool) : (setCtl s p i b).hif = s.hif := rfl
@[simp] theorem setCtl_power (p i : Nat) (b : Bool) : (setCtl s p i b).power = s.power := rfl
@[simp] theorem setCtl_boot (p i : Nat) (b : Bool) : (setCtl s p i b).boot = s.boot := rfl
@[simp] theorem setCtl_sec (p i : Nat) (b : Bool) : (setCtl s p i b).sec = s.sec := rfl

@[simp] theorem sealAlloc_pending (p h : Nat) (b : Bool) : (sealAlloc s p h b).pending = s.pending := rfl
@[simp] theorem sealAlloc_gcnt (p h : Nat) (b : Bool) : (sealAlloc s p h b).gcnt = s.gcnt := rfl
@[simp] theorem sealAlloc_fcyc (p h : Nat) (b : Bool) : (sealAlloc s p h b).fcyc = s.fcyc := rfl
@[simp] theorem sealAlloc_free (p h : Nat) (b : Bool) : (sealAlloc s p h b).free = s.free := rfl
@[simp] theorem sealAlloc_resp (p h : Nat) (b : Bool) : (sealAlloc s p h b).resp = s.resp := rfl
@[simp] theorem sealAlloc_oos (p h : Nat) (b : Bool) : (sealAlloc s p h b).oos = s.oos := rfl
@[simp] theorem sealAlloc_pages (p h : Nat) (b : Bool) : (sealAlloc s p h b).pages = s.pages := rfl
@[simp] theorem sealAlloc_ready (p h : Nat) (b : Bool) : (sealAlloc s p h b).ready = s.ready := rfl
@[simp] theorem sealAlloc_blks (p h : Nat) (b : Bool) : (sealAlloc s p h b).blks = s.blks := rfl
@[simp] theorem sealAlloc_cnt (p h : Nat) (b : Bool) : (sealAlloc s p h b).cnt = s.cnt := rfl
@[simp] theorem sealAlloc_regs (p h : Nat) (b : Bool) : (sealAlloc s p h b).regs = s.regs := rfl
@[simp] theorem sealAlloc_flash (p h : Nat) (b : Bool) : (sealAlloc s p h b).flash = s.flash := rfl
@[simp] theorem sealAlloc_map (p h : Nat) (b : Bool) : (sealAlloc s p h b).map = s.map := rfl
@[simp] theorem sealAlloc_mem (p h : Nat) (b : Bool) : (sealAlloc s p h b).mem = s.mem := rfl
@[simp] theorem sealAlloc_cache (p h : Nat) (b : Bool) : (sealAlloc s p h b).cache = s.cache := rfl
@[simp] theorem sealAlloc_descs (p h : Nat) (b : Bool) : (sealAlloc s p h b).descs = s.descs := rfl
@[simp] theorem sealAlloc_parts (p h : Nat) (b : Bool) : (sealAlloc s p h b).parts = s.parts := rfl
@[simp] theorem sealAlloc_tiles (p h : Nat) (b : Bool) : (sealAlloc s p h b).tiles = s.tiles := rfl
@[simp] theorem sealAlloc_sync (p h : Nat) (b : Bool) : (sealAlloc s p h b).sync = s.sync := rfl
@[simp] theorem sealAlloc_fc (p h : Nat) (b : Bool) : (sealAlloc s p h b).fc = s.fc := rfl
@[simp] theorem sealAlloc_fi (p h : Nat) (b : Bool) : (sealAlloc s p h b).fi = s.fi := rfl
@[simp] theorem sealAlloc_msix (p h : Nat) (b : Bool) : (sealAlloc s p h b).msix = s.msix := rfl
@[simp] theorem sealAlloc_ctrls (p h : Nat) (b : Bool) : (sealAlloc s p h b).ctrls = s.ctrls := rfl
@[simp] theorem sealAlloc_links (p h : Nat) (b : Bool) : (sealAlloc s p h b).links = s.links := rfl
@[simp] theorem sealAlloc_chorus (p h : Nat) (b : Bool) : (sealAlloc s p h b).chorus = s.chorus := rfl
@[simp] theorem sealAlloc_hif (p h : Nat) (b : Bool) : (sealAlloc s p h b).hif = s.hif := rfl
@[simp] theorem sealAlloc_power (p h : Nat) (b : Bool) : (sealAlloc s p h b).power = s.power := rfl
@[simp] theorem sealAlloc_boot (p h : Nat) (b : Bool) : (sealAlloc s p h b).boot = s.boot := rfl
@[simp] theorem sealAlloc_sec (p h : Nat) (b : Bool) : (sealAlloc s p h b).sec = s.sec := rfl

@[simp] theorem setImgState_pending (p v : Nat) : (setImgState s p v).pending = s.pending := rfl
@[simp] theorem setImgState_gcnt (p v : Nat) : (setImgState s p v).gcnt = s.gcnt := rfl
@[simp] theorem setImgState_fcyc (p v : Nat) : (setImgState s p v).fcyc = s.fcyc := rfl
@[simp] theorem setImgState_free (p v : Nat) : (setImgState s p v).free = s.free := rfl
@[simp] theorem setImgState_resp (p v : Nat) : (setImgState s p v).resp = s.resp := rfl
@[simp] theorem setImgState_oos (p v : Nat) : (setImgState s p v).oos = s.oos := rfl
@[simp] theorem setImgState_pages (p v : Nat) : (setImgState s p v).pages = s.pages := rfl
@[simp] theorem setImgState_ready (p v : Nat) : (setImgState s p v).ready = s.ready := rfl
@[simp] theorem setImgState_blks (p v : Nat) : (setImgState s p v).blks = s.blks := rfl
@[simp] theorem setImgState_cnt (p v : Nat) : (setImgState s p v).cnt = s.cnt := rfl
@[simp] theorem setImgState_flash (p v : Nat) : (setImgState s p v).flash = s.flash := rfl
@[simp] theorem setImgState_map (p v : Nat) : (setImgState s p v).map = s.map := rfl
@[simp] theorem setImgState_mem (p v : Nat) : (setImgState s p v).mem = s.mem := rfl
@[simp] theorem setImgState_cache (p v : Nat) : (setImgState s p v).cache = s.cache := rfl
@[simp] theorem setImgState_allocs (p v : Nat) : (setImgState s p v).allocs = s.allocs := rfl
@[simp] theorem setImgState_descs (p v : Nat) : (setImgState s p v).descs = s.descs := rfl
@[simp] theorem setImgState_parts (p v : Nat) : (setImgState s p v).parts = s.parts := rfl
@[simp] theorem setImgState_tiles (p v : Nat) : (setImgState s p v).tiles = s.tiles := rfl
@[simp] theorem setImgState_sync (p v : Nat) : (setImgState s p v).sync = s.sync := rfl
@[simp] theorem setImgState_fc (p v : Nat) : (setImgState s p v).fc = s.fc := rfl
@[simp] theorem setImgState_fi (p v : Nat) : (setImgState s p v).fi = s.fi := rfl
@[simp] theorem setImgState_msix (p v : Nat) : (setImgState s p v).msix = s.msix := rfl
@[simp] theorem setImgState_ctrls (p v : Nat) : (setImgState s p v).ctrls = s.ctrls := rfl
@[simp] theorem setImgState_links (p v : Nat) : (setImgState s p v).links = s.links := rfl
@[simp] theorem setImgState_chorus (p v : Nat) : (setImgState s p v).chorus = s.chorus := rfl
@[simp] theorem setImgState_hif (p v : Nat) : (setImgState s p v).hif = s.hif := rfl
@[simp] theorem setImgState_power (p v : Nat) : (setImgState s p v).power = s.power := rfl
@[simp] theorem setImgState_boot (p v : Nat) : (setImgState s p v).boot = s.boot := rfl
@[simp] theorem setImgState_sec (p v : Nat) : (setImgState s p v).sec = s.sec := rfl

@[simp] theorem taken_pending (p c : Nat) (a : Arg) : (taken s p c a).pending = s.pending := rfl
@[simp] theorem taken_gcnt (p c : Nat) (a : Arg) : (taken s p c a).gcnt = s.gcnt := rfl
@[simp] theorem taken_fcyc (p c : Nat) (a : Arg) : (taken s p c a).fcyc = s.fcyc := rfl
@[simp] theorem taken_free (p c : Nat) (a : Arg) : (taken s p c a).free = s.free := rfl
@[simp] theorem taken_resp (p c : Nat) (a : Arg) : (taken s p c a).resp = s.resp := rfl
@[simp] theorem taken_oos (p c : Nat) (a : Arg) : (taken s p c a).oos = s.oos := rfl
@[simp] theorem taken_ready (p c : Nat) (a : Arg) : (taken s p c a).ready = s.ready := rfl
@[simp] theorem taken_blks (p c : Nat) (a : Arg) : (taken s p c a).blks = s.blks := rfl
@[simp] theorem taken_cnt (p c : Nat) (a : Arg) : (taken s p c a).cnt = s.cnt := rfl
@[simp] theorem taken_regs (p c : Nat) (a : Arg) : (taken s p c a).regs = s.regs := rfl
@[simp] theorem taken_flash (p c : Nat) (a : Arg) : (taken s p c a).flash = s.flash := rfl
@[simp] theorem taken_map (p c : Nat) (a : Arg) : (taken s p c a).map = s.map := rfl
@[simp] theorem taken_mem (p c : Nat) (a : Arg) : (taken s p c a).mem = s.mem := rfl
@[simp] theorem taken_cache (p c : Nat) (a : Arg) : (taken s p c a).cache = s.cache := rfl
@[simp] theorem taken_allocs (p c : Nat) (a : Arg) : (taken s p c a).allocs = s.allocs := rfl
@[simp] theorem taken_descs (p c : Nat) (a : Arg) : (taken s p c a).descs = s.descs := rfl
@[simp] theorem taken_parts (p c : Nat) (a : Arg) : (taken s p c a).parts = s.parts := rfl
@[simp] theorem taken_tiles (p c : Nat) (a : Arg) : (taken s p c a).tiles = s.tiles := rfl
@[simp] theorem taken_sync (p c : Nat) (a : Arg) : (taken s p c a).sync = s.sync := rfl
@[simp] theorem taken_fc (p c : Nat) (a : Arg) : (taken s p c a).fc = s.fc := rfl
@[simp] theorem taken_fi (p c : Nat) (a : Arg) : (taken s p c a).fi = s.fi := rfl
@[simp] theorem taken_msix (p c : Nat) (a : Arg) : (taken s p c a).msix = s.msix := rfl
@[simp] theorem taken_ctrls (p c : Nat) (a : Arg) : (taken s p c a).ctrls = s.ctrls := rfl
@[simp] theorem taken_links (p c : Nat) (a : Arg) : (taken s p c a).links = s.links := rfl
@[simp] theorem taken_chorus (p c : Nat) (a : Arg) : (taken s p c a).chorus = s.chorus := rfl
@[simp] theorem taken_hif (p c : Nat) (a : Arg) : (taken s p c a).hif = s.hif := rfl
@[simp] theorem taken_power (p c : Nat) (a : Arg) : (taken s p c a).power = s.power := rfl
@[simp] theorem taken_boot (p c : Nat) (a : Arg) : (taken s p c a).boot = s.boot := rfl
@[simp] theorem taken_sec (p c : Nat) (a : Arg) : (taken s p c a).sec = s.sec := rfl

@[simp] theorem rg_setPage (p : Nat) (x : Page) (q j : Nat) : rg (setPage s p x) q j = rg s q j := rfl
@[simp] theorem rgF_setPage (p : Nat) (x : Page) (q j hi' lo' : Nat) : rgF (setPage s p x) q j hi' lo' = rgF s q j hi' lo' := rfl
@[simp] theorem rg64_setPage (p : Nat) (x : Page) (q j : Nat) : rg64 (setPage s p x) q j = rg64 s q j := rfl
@[simp] theorem getBlk_setPage (p : Nat) (x : Page) (q : Nat) : getBlk (setPage s p x) q = getBlk s q := rfl
@[simp] theorem getReady_setPage (p : Nat) (x : Page) (q : Nat) : getReady (setPage s p x) q = getReady s q := rfl
@[simp] theorem getPart_setPage (p : Nat) (x : Page) (q : Nat) : getPart (setPage s p x) q = getPart s q := rfl
@[simp] theorem hasImage_setPage (p : Nat) (x : Page) (q : Nat) : hasImage (setPage s p x) q = hasImage s q := rfl
@[simp] theorem isRunning_setPage (p : Nat) (x : Page) (q : Nat) : isRunning (setPage s p x) q = isRunning s q := rfl
@[simp] theorem getTile_setPage (p : Nat) (x : Page) (q : Nat) : getTile (setPage s p x) q = getTile s q := rfl
@[simp] theorem getCnt_setPage (p : Nat) (x : Page) (q j : Nat) : getCnt (setPage s p x) q j = getCnt s q j := rfl
@[simp] theorem getCtrl_setPage (p : Nat) (x : Page) (q : Nat) : getCtrl (setPage s p x) q = getCtrl s q := rfl
@[simp] theorem lk_setPage (p : Nat) (x : Page) (q : Nat) : lk (setPage s p x) q = lk s q := rfl
@[simp] theorem syncObj_setPage (p : Nat) (x : Page) (q : Nat) : syncObj (setPage s p x) q = syncObj s q := rfl
@[simp] theorem getDesc_setPage (p : Nat) (x : Page) (q j : Nat) : getDesc (setPage s p x) q j = getDesc s q j := rfl
@[simp] theorem getAlloc_setPage (p : Nat) (x : Page) (q j : Nat) : getAlloc (setPage s p x) q j = getAlloc s q j := rfl
@[simp] theorem now_setPage (p : Nat) (x : Page) : now (setPage s p x) = now s := rfl
@[simp] theorem siteOf_setPage (p : Nat) (x : Page) (q : Nat) : siteOf (setPage s p x) q = siteOf s q := rfl
@[simp] theorem role_setPage (p : Nat) (x : Page) : role (setPage s p x) = role s := rfl
@[simp] theorem nParts_setPage (p : Nat) (x : Page) : nParts (setPage s p x) = nParts s := rfl
@[simp] theorem warmActive_setPage (p : Nat) (x : Page) : warmActive (setPage s p x) = warmActive s := rfl
@[simp] theorem fwRunning_setPage (p : Nat) (x : Page) : fwRunning (setPage s p x) = fwRunning s := rfl
@[simp] theorem anyImage_setPage (p : Nat) (x : Page) : anyImage (setPage s p x) = anyImage s := rfl

@[simp] theorem rg_setBlk (p : Nat) (b : Blk) (q j : Nat) : rg (setBlk s p b) q j = rg s q j := rfl
@[simp] theorem rgF_setBlk (p : Nat) (b : Blk) (q j hi' lo' : Nat) : rgF (setBlk s p b) q j hi' lo' = rgF s q j hi' lo' := rfl
@[simp] theorem rg64_setBlk (p : Nat) (b : Blk) (q j : Nat) : rg64 (setBlk s p b) q j = rg64 s q j := rfl
@[simp] theorem getPage_setBlk (p : Nat) (b : Blk) (q : Nat) : getPage (setBlk s p b) q = getPage s q := rfl
@[simp] theorem isDone_setBlk (p : Nat) (b : Blk) (q : Nat) : isDone (setBlk s p b) q = isDone s q := rfl
@[simp] theorem getReady_setBlk (p : Nat) (b : Blk) (q : Nat) : getReady (setBlk s p b) q = getReady s q := rfl
@[simp] theorem getPart_setBlk (p : Nat) (b : Blk) (q : Nat) : getPart (setBlk s p b) q = getPart s q := rfl
@[simp] theorem hasImage_setBlk (p : Nat) (b : Blk) (q : Nat) : hasImage (setBlk s p b) q = hasImage s q := rfl
@[simp] theorem isRunning_setBlk (p : Nat) (b : Blk) (q : Nat) : isRunning (setBlk s p b) q = isRunning s q := rfl
@[simp] theorem getTile_setBlk (p : Nat) (b : Blk) (q : Nat) : getTile (setBlk s p b) q = getTile s q := rfl
@[simp] theorem getCnt_setBlk (p : Nat) (b : Blk) (q j : Nat) : getCnt (setBlk s p b) q j = getCnt s q j := rfl
@[simp] theorem getCtrl_setBlk (p : Nat) (b : Blk) (q : Nat) : getCtrl (setBlk s p b) q = getCtrl s q := rfl
@[simp] theorem lk_setBlk (p : Nat) (b : Blk) (q : Nat) : lk (setBlk s p b) q = lk s q := rfl
@[simp] theorem syncObj_setBlk (p : Nat) (b : Blk) (q : Nat) : syncObj (setBlk s p b) q = syncObj s q := rfl
@[simp] theorem getDesc_setBlk (p : Nat) (b : Blk) (q j : Nat) : getDesc (setBlk s p b) q j = getDesc s q j := rfl
@[simp] theorem getAlloc_setBlk (p : Nat) (b : Blk) (q j : Nat) : getAlloc (setBlk s p b) q j = getAlloc s q j := rfl
@[simp] theorem now_setBlk (p : Nat) (b : Blk) : now (setBlk s p b) = now s := rfl
@[simp] theorem siteOf_setBlk (p : Nat) (b : Blk) (q : Nat) : siteOf (setBlk s p b) q = siteOf s q := rfl
@[simp] theorem role_setBlk (p : Nat) (b : Blk) : role (setBlk s p b) = role s := rfl
@[simp] theorem nParts_setBlk (p : Nat) (b : Blk) : nParts (setBlk s p b) = nParts s := rfl
@[simp] theorem warmActive_setBlk (p : Nat) (b : Blk) : warmActive (setBlk s p b) = warmActive s := rfl
@[simp] theorem fwRunning_setBlk (p : Nat) (b : Blk) : fwRunning (setBlk s p b) = fwRunning s := rfl
@[simp] theorem anyImage_setBlk (p : Nat) (b : Blk) : anyImage (setBlk s p b) = anyImage s := rfl

@[simp] theorem rg_setReady (p : Nat) (b : Bool) (q j : Nat) : rg (setReady s p b) q j = rg s q j := rfl
@[simp] theorem rgF_setReady (p : Nat) (b : Bool) (q j hi' lo' : Nat) : rgF (setReady s p b) q j hi' lo' = rgF s q j hi' lo' := rfl
@[simp] theorem rg64_setReady (p : Nat) (b : Bool) (q j : Nat) : rg64 (setReady s p b) q j = rg64 s q j := rfl
@[simp] theorem getPage_setReady (p : Nat) (b : Bool) (q : Nat) : getPage (setReady s p b) q = getPage s q := rfl
@[simp] theorem isDone_setReady (p : Nat) (b : Bool) (q : Nat) : isDone (setReady s p b) q = isDone s q := rfl
@[simp] theorem getBlk_setReady (p : Nat) (b : Bool) (q : Nat) : getBlk (setReady s p b) q = getBlk s q := rfl
@[simp] theorem getPart_setReady (p : Nat) (b : Bool) (q : Nat) : getPart (setReady s p b) q = getPart s q := rfl
@[simp] theorem hasImage_setReady (p : Nat) (b : Bool) (q : Nat) : hasImage (setReady s p b) q = hasImage s q := rfl
@[simp] theorem isRunning_setReady (p : Nat) (b : Bool) (q : Nat) : isRunning (setReady s p b) q = isRunning s q := rfl
@[simp] theorem getTile_setReady (p : Nat) (b : Bool) (q : Nat) : getTile (setReady s p b) q = getTile s q := rfl
@[simp] theorem getCnt_setReady (p : Nat) (b : Bool) (q j : Nat) : getCnt (setReady s p b) q j = getCnt s q j := rfl
@[simp] theorem getCtrl_setReady (p : Nat) (b : Bool) (q : Nat) : getCtrl (setReady s p b) q = getCtrl s q := rfl
@[simp] theorem lk_setReady (p : Nat) (b : Bool) (q : Nat) : lk (setReady s p b) q = lk s q := rfl
@[simp] theorem syncObj_setReady (p : Nat) (b : Bool) (q : Nat) : syncObj (setReady s p b) q = syncObj s q := rfl
@[simp] theorem getDesc_setReady (p : Nat) (b : Bool) (q j : Nat) : getDesc (setReady s p b) q j = getDesc s q j := rfl
@[simp] theorem getAlloc_setReady (p : Nat) (b : Bool) (q j : Nat) : getAlloc (setReady s p b) q j = getAlloc s q j := rfl
@[simp] theorem now_setReady (p : Nat) (b : Bool) : now (setReady s p b) = now s := rfl
@[simp] theorem siteOf_setReady (p : Nat) (b : Bool) (q : Nat) : siteOf (setReady s p b) q = siteOf s q := rfl
@[simp] theorem role_setReady (p : Nat) (b : Bool) : role (setReady s p b) = role s := rfl
@[simp] theorem nParts_setReady (p : Nat) (b : Bool) : nParts (setReady s p b) = nParts s := rfl
@[simp] theorem warmActive_setReady (p : Nat) (b : Bool) : warmActive (setReady s p b) = warmActive s := rfl
@[simp] theorem fwRunning_setReady (p : Nat) (b : Bool) : fwRunning (setReady s p b) = fwRunning s := rfl
@[simp] theorem anyImage_setReady (p : Nat) (b : Bool) : anyImage (setReady s p b) = anyImage s := rfl

@[simp] theorem getPage_setRg (p o : Nat) (v : Word) (q : Nat) : getPage (setRg s p o v) q = getPage s q := rfl
@[simp] theorem isDone_setRg (p o : Nat) (v : Word) (q : Nat) : isDone (setRg s p o v) q = isDone s q := rfl
@[simp] theorem getBlk_setRg (p o : Nat) (v : Word) (q : Nat) : getBlk (setRg s p o v) q = getBlk s q := rfl
@[simp] theorem getReady_setRg (p o : Nat) (v : Word) (q : Nat) : getReady (setRg s p o v) q = getReady s q := rfl
@[simp] theorem getPart_setRg (p o : Nat) (v : Word) (q : Nat) : getPart (setRg s p o v) q = getPart s q := rfl
@[simp] theorem hasImage_setRg (p o : Nat) (v : Word) (q : Nat) : hasImage (setRg s p o v) q = hasImage s q := rfl
@[simp] theorem isRunning_setRg (p o : Nat) (v : Word) (q : Nat) : isRunning (setRg s p o v) q = isRunning s q := rfl
@[simp] theorem getTile_setRg (p o : Nat) (v : Word) (q : Nat) : getTile (setRg s p o v) q = getTile s q := rfl
@[simp] theorem getCnt_setRg (p o : Nat) (v : Word) (q j : Nat) : getCnt (setRg s p o v) q j = getCnt s q j := rfl
@[simp] theorem getCtrl_setRg (p o : Nat) (v : Word) (q : Nat) : getCtrl (setRg s p o v) q = getCtrl s q := rfl
@[simp] theorem lk_setRg (p o : Nat) (v : Word) (q : Nat) : lk (setRg s p o v) q = lk s q := rfl
@[simp] theorem syncObj_setRg (p o : Nat) (v : Word) (q : Nat) : syncObj (setRg s p o v) q = syncObj s q := rfl
@[simp] theorem getDesc_setRg (p o : Nat) (v : Word) (q j : Nat) : getDesc (setRg s p o v) q j = getDesc s q j := rfl
@[simp] theorem getAlloc_setRg (p o : Nat) (v : Word) (q j : Nat) : getAlloc (setRg s p o v) q j = getAlloc s q j := rfl
@[simp] theorem now_setRg (p o : Nat) (v : Word) : now (setRg s p o v) = now s := rfl
@[simp] theorem siteOf_setRg (p o : Nat) (v : Word) (q : Nat) : siteOf (setRg s p o v) q = siteOf s q := rfl
@[simp] theorem anyImage_setRg (p o : Nat) (v : Word) : anyImage (setRg s p o v) = anyImage s := rfl

@[simp] theorem getPage_setRgF (p o hi lo v : Nat) (q : Nat) : getPage (setRgF s p o hi lo v) q = getPage s q := rfl
@[simp] theorem isDone_setRgF (p o hi lo v : Nat) (q : Nat) : isDone (setRgF s p o hi lo v) q = isDone s q := rfl
@[simp] theorem getBlk_setRgF (p o hi lo v : Nat) (q : Nat) : getBlk (setRgF s p o hi lo v) q = getBlk s q := rfl
@[simp] theorem getReady_setRgF (p o hi lo v : Nat) (q : Nat) : getReady (setRgF s p o hi lo v) q = getReady s q := rfl
@[simp] theorem getPart_setRgF (p o hi lo v : Nat) (q : Nat) : getPart (setRgF s p o hi lo v) q = getPart s q := rfl
@[simp] theorem hasImage_setRgF (p o hi lo v : Nat) (q : Nat) : hasImage (setRgF s p o hi lo v) q = hasImage s q := rfl
@[simp] theorem isRunning_setRgF (p o hi lo v : Nat) (q : Nat) : isRunning (setRgF s p o hi lo v) q = isRunning s q := rfl
@[simp] theorem getTile_setRgF (p o hi lo v : Nat) (q : Nat) : getTile (setRgF s p o hi lo v) q = getTile s q := rfl
@[simp] theorem getCnt_setRgF (p o hi lo v : Nat) (q j : Nat) : getCnt (setRgF s p o hi lo v) q j = getCnt s q j := rfl
@[simp] theorem getCtrl_setRgF (p o hi lo v : Nat) (q : Nat) : getCtrl (setRgF s p o hi lo v) q = getCtrl s q := rfl
@[simp] theorem lk_setRgF (p o hi lo v : Nat) (q : Nat) : lk (setRgF s p o hi lo v) q = lk s q := rfl
@[simp] theorem syncObj_setRgF (p o hi lo v : Nat) (q : Nat) : syncObj (setRgF s p o hi lo v) q = syncObj s q := rfl
@[simp] theorem getDesc_setRgF (p o hi lo v : Nat) (q j : Nat) : getDesc (setRgF s p o hi lo v) q j = getDesc s q j := rfl
@[simp] theorem getAlloc_setRgF (p o hi lo v : Nat) (q j : Nat) : getAlloc (setRgF s p o hi lo v) q j = getAlloc s q j := rfl
@[simp] theorem now_setRgF (p o hi lo v : Nat) : now (setRgF s p o hi lo v) = now s := rfl
@[simp] theorem siteOf_setRgF (p o hi lo v : Nat) (q : Nat) : siteOf (setRgF s p o hi lo v) q = siteOf s q := rfl
@[simp] theorem anyImage_setRgF (p o hi lo v : Nat) : anyImage (setRgF s p o hi lo v) = anyImage s := rfl

@[simp] theorem getPage_setRg64 (p o v : Nat) (q : Nat) : getPage (setRg64 s p o v) q = getPage s q := rfl
@[simp] theorem isDone_setRg64 (p o v : Nat) (q : Nat) : isDone (setRg64 s p o v) q = isDone s q := rfl
@[simp] theorem getBlk_setRg64 (p o v : Nat) (q : Nat) : getBlk (setRg64 s p o v) q = getBlk s q := rfl
@[simp] theorem getReady_setRg64 (p o v : Nat) (q : Nat) : getReady (setRg64 s p o v) q = getReady s q := rfl
@[simp] theorem getPart_setRg64 (p o v : Nat) (q : Nat) : getPart (setRg64 s p o v) q = getPart s q := rfl
@[simp] theorem hasImage_setRg64 (p o v : Nat) (q : Nat) : hasImage (setRg64 s p o v) q = hasImage s q := rfl
@[simp] theorem isRunning_setRg64 (p o v : Nat) (q : Nat) : isRunning (setRg64 s p o v) q = isRunning s q := rfl
@[simp] theorem getTile_setRg64 (p o v : Nat) (q : Nat) : getTile (setRg64 s p o v) q = getTile s q := rfl
@[simp] theorem getCnt_setRg64 (p o v : Nat) (q j : Nat) : getCnt (setRg64 s p o v) q j = getCnt s q j := rfl
@[simp] theorem getCtrl_setRg64 (p o v : Nat) (q : Nat) : getCtrl (setRg64 s p o v) q = getCtrl s q := rfl
@[simp] theorem lk_setRg64 (p o v : Nat) (q : Nat) : lk (setRg64 s p o v) q = lk s q := rfl
@[simp] theorem syncObj_setRg64 (p o v : Nat) (q : Nat) : syncObj (setRg64 s p o v) q = syncObj s q := rfl
@[simp] theorem getDesc_setRg64 (p o v : Nat) (q j : Nat) : getDesc (setRg64 s p o v) q j = getDesc s q j := rfl
@[simp] theorem getAlloc_setRg64 (p o v : Nat) (q j : Nat) : getAlloc (setRg64 s p o v) q j = getAlloc s q j := rfl
@[simp] theorem now_setRg64 (p o v : Nat) : now (setRg64 s p o v) = now s := rfl
@[simp] theorem siteOf_setRg64 (p o v : Nat) (q : Nat) : siteOf (setRg64 s p o v) q = siteOf s q := rfl
@[simp] theorem anyImage_setRg64 (p o v : Nat) : anyImage (setRg64 s p o v) = anyImage s := rfl

@[simp] theorem rg_setPart (p : Nat) (x : Part) (q j : Nat) : rg (setPart s p x) q j = rg s q j := rfl
@[simp] theorem rgF_setPart (p : Nat) (x : Part) (q j hi' lo' : Nat) : rgF (setPart s p x) q j hi' lo' = rgF s q j hi' lo' := rfl
@[simp] theorem rg64_setPart (p : Nat) (x : Part) (q j : Nat) : rg64 (setPart s p x) q j = rg64 s q j := rfl
@[simp] theorem getPage_setPart (p : Nat) (x : Part) (q : Nat) : getPage (setPart s p x) q = getPage s q := rfl
@[simp] theorem isDone_setPart (p : Nat) (x : Part) (q : Nat) : isDone (setPart s p x) q = isDone s q := rfl
@[simp] theorem getBlk_setPart (p : Nat) (x : Part) (q : Nat) : getBlk (setPart s p x) q = getBlk s q := rfl
@[simp] theorem getReady_setPart (p : Nat) (x : Part) (q : Nat) : getReady (setPart s p x) q = getReady s q := rfl
@[simp] theorem getTile_setPart (p : Nat) (x : Part) (q : Nat) : getTile (setPart s p x) q = getTile s q := rfl
@[simp] theorem getCnt_setPart (p : Nat) (x : Part) (q j : Nat) : getCnt (setPart s p x) q j = getCnt s q j := rfl
@[simp] theorem getCtrl_setPart (p : Nat) (x : Part) (q : Nat) : getCtrl (setPart s p x) q = getCtrl s q := rfl
@[simp] theorem lk_setPart (p : Nat) (x : Part) (q : Nat) : lk (setPart s p x) q = lk s q := rfl
@[simp] theorem syncObj_setPart (p : Nat) (x : Part) (q : Nat) : syncObj (setPart s p x) q = syncObj s q := rfl
@[simp] theorem getDesc_setPart (p : Nat) (x : Part) (q j : Nat) : getDesc (setPart s p x) q j = getDesc s q j := rfl
@[simp] theorem getAlloc_setPart (p : Nat) (x : Part) (q j : Nat) : getAlloc (setPart s p x) q j = getAlloc s q j := rfl
@[simp] theorem now_setPart (p : Nat) (x : Part) : now (setPart s p x) = now s := rfl
@[simp] theorem siteOf_setPart (p : Nat) (x : Part) (q : Nat) : siteOf (setPart s p x) q = siteOf s q := rfl
@[simp] theorem role_setPart (p : Nat) (x : Part) : role (setPart s p x) = role s := rfl
@[simp] theorem nParts_setPart (p : Nat) (x : Part) : nParts (setPart s p x) = nParts s := rfl
@[simp] theorem warmActive_setPart (p : Nat) (x : Part) : warmActive (setPart s p x) = warmActive s := rfl
@[simp] theorem fwRunning_setPart (p : Nat) (x : Part) : fwRunning (setPart s p x) = fwRunning s := rfl

@[simp] theorem rg_updPart (p : Nat) (f : Part → Part) (q j : Nat) : rg (updPart s p f) q j = rg s q j := rfl
@[simp] theorem rgF_updPart (p : Nat) (f : Part → Part) (q j hi' lo' : Nat) : rgF (updPart s p f) q j hi' lo' = rgF s q j hi' lo' := rfl
@[simp] theorem rg64_updPart (p : Nat) (f : Part → Part) (q j : Nat) : rg64 (updPart s p f) q j = rg64 s q j := rfl
@[simp] theorem getPage_updPart (p : Nat) (f : Part → Part) (q : Nat) : getPage (updPart s p f) q = getPage s q := rfl
@[simp] theorem isDone_updPart (p : Nat) (f : Part → Part) (q : Nat) : isDone (updPart s p f) q = isDone s q := rfl
@[simp] theorem getBlk_updPart (p : Nat) (f : Part → Part) (q : Nat) : getBlk (updPart s p f) q = getBlk s q := rfl
@[simp] theorem getReady_updPart (p : Nat) (f : Part → Part) (q : Nat) : getReady (updPart s p f) q = getReady s q := rfl
@[simp] theorem getTile_updPart (p : Nat) (f : Part → Part) (q : Nat) : getTile (updPart s p f) q = getTile s q := rfl
@[simp] theorem getCnt_updPart (p : Nat) (f : Part → Part) (q j : Nat) : getCnt (updPart s p f) q j = getCnt s q j := rfl
@[simp] theorem getCtrl_updPart (p : Nat) (f : Part → Part) (q : Nat) : getCtrl (updPart s p f) q = getCtrl s q := rfl
@[simp] theorem lk_updPart (p : Nat) (f : Part → Part) (q : Nat) : lk (updPart s p f) q = lk s q := rfl
@[simp] theorem syncObj_updPart (p : Nat) (f : Part → Part) (q : Nat) : syncObj (updPart s p f) q = syncObj s q := rfl
@[simp] theorem getDesc_updPart (p : Nat) (f : Part → Part) (q j : Nat) : getDesc (updPart s p f) q j = getDesc s q j := rfl
@[simp] theorem getAlloc_updPart (p : Nat) (f : Part → Part) (q j : Nat) : getAlloc (updPart s p f) q j = getAlloc s q j := rfl
@[simp] theorem now_updPart (p : Nat) (f : Part → Part) : now (updPart s p f) = now s := rfl
@[simp] theorem siteOf_updPart (p : Nat) (f : Part → Part) (q : Nat) : siteOf (updPart s p f) q = siteOf s q := rfl
@[simp] theorem role_updPart (p : Nat) (f : Part → Part) : role (updPart s p f) = role s := rfl
@[simp] theorem nParts_updPart (p : Nat) (f : Part → Part) : nParts (updPart s p f) = nParts s := rfl
@[simp] theorem warmActive_updPart (p : Nat) (f : Part → Part) : warmActive (updPart s p f) = warmActive s := rfl
@[simp] theorem fwRunning_updPart (p : Nat) (f : Part → Part) : fwRunning (updPart s p f) = fwRunning s := rfl

@[simp] theorem rg_setTile (t : Nat) (x : Tile) (q j : Nat) : rg (setTile s t x) q j = rg s q j := rfl
@[simp] theorem rgF_setTile (t : Nat) (x : Tile) (q j hi' lo' : Nat) : rgF (setTile s t x) q j hi' lo' = rgF s q j hi' lo' := rfl
@[simp] theorem rg64_setTile (t : Nat) (x : Tile) (q j : Nat) : rg64 (setTile s t x) q j = rg64 s q j := rfl
@[simp] theorem getPage_setTile (t : Nat) (x : Tile) (q : Nat) : getPage (setTile s t x) q = getPage s q := rfl
@[simp] theorem isDone_setTile (t : Nat) (x : Tile) (q : Nat) : isDone (setTile s t x) q = isDone s q := rfl
@[simp] theorem getBlk_setTile (t : Nat) (x : Tile) (q : Nat) : getBlk (setTile s t x) q = getBlk s q := rfl
@[simp] theorem getReady_setTile (t : Nat) (x : Tile) (q : Nat) : getReady (setTile s t x) q = getReady s q := rfl
@[simp] theorem getPart_setTile (t : Nat) (x : Tile) (q : Nat) : getPart (setTile s t x) q = getPart s q := rfl
@[simp] theorem hasImage_setTile (t : Nat) (x : Tile) (q : Nat) : hasImage (setTile s t x) q = hasImage s q := rfl
@[simp] theorem isRunning_setTile (t : Nat) (x : Tile) (q : Nat) : isRunning (setTile s t x) q = isRunning s q := rfl
@[simp] theorem getCnt_setTile (t : Nat) (x : Tile) (q j : Nat) : getCnt (setTile s t x) q j = getCnt s q j := rfl
@[simp] theorem getCtrl_setTile (t : Nat) (x : Tile) (q : Nat) : getCtrl (setTile s t x) q = getCtrl s q := rfl
@[simp] theorem lk_setTile (t : Nat) (x : Tile) (q : Nat) : lk (setTile s t x) q = lk s q := rfl
@[simp] theorem syncObj_setTile (t : Nat) (x : Tile) (q : Nat) : syncObj (setTile s t x) q = syncObj s q := rfl
@[simp] theorem getDesc_setTile (t : Nat) (x : Tile) (q j : Nat) : getDesc (setTile s t x) q j = getDesc s q j := rfl
@[simp] theorem getAlloc_setTile (t : Nat) (x : Tile) (q j : Nat) : getAlloc (setTile s t x) q j = getAlloc s q j := rfl
@[simp] theorem now_setTile (t : Nat) (x : Tile) : now (setTile s t x) = now s := rfl
@[simp] theorem siteOf_setTile (t : Nat) (x : Tile) (q : Nat) : siteOf (setTile s t x) q = siteOf s q := rfl
@[simp] theorem role_setTile (t : Nat) (x : Tile) : role (setTile s t x) = role s := rfl
@[simp] theorem nParts_setTile (t : Nat) (x : Tile) : nParts (setTile s t x) = nParts s := rfl
@[simp] theorem warmActive_setTile (t : Nat) (x : Tile) : warmActive (setTile s t x) = warmActive s := rfl
@[simp] theorem fwRunning_setTile (t : Nat) (x : Tile) : fwRunning (setTile s t x) = fwRunning s := rfl
@[simp] theorem anyImage_setTile (t : Nat) (x : Tile) : anyImage (setTile s t x) = anyImage s := rfl

@[simp] theorem rg_updTile (t : Nat) (f : Tile → Tile) (q j : Nat) : rg (updTile s t f) q j = rg s q j := rfl
@[simp] theorem rgF_updTile (t : Nat) (f : Tile → Tile) (q j hi' lo' : Nat) : rgF (updTile s t f) q j hi' lo' = rgF s q j hi' lo' := rfl
@[simp] theorem rg64_updTile (t : Nat) (f : Tile → Tile) (q j : Nat) : rg64 (updTile s t f) q j = rg64 s q j := rfl
@[simp] theorem getPage_updTile (t : Nat) (f : Tile → Tile) (q : Nat) : getPage (updTile s t f) q = getPage s q := rfl
@[simp] theorem isDone_updTile (t : Nat) (f : Tile → Tile) (q : Nat) : isDone (updTile s t f) q = isDone s q := rfl
@[simp] theorem getBlk_updTile (t : Nat) (f : Tile → Tile) (q : Nat) : getBlk (updTile s t f) q = getBlk s q := rfl
@[simp] theorem getReady_updTile (t : Nat) (f : Tile → Tile) (q : Nat) : getReady (updTile s t f) q = getReady s q := rfl
@[simp] theorem getPart_updTile (t : Nat) (f : Tile → Tile) (q : Nat) : getPart (updTile s t f) q = getPart s q := rfl
@[simp] theorem hasImage_updTile (t : Nat) (f : Tile → Tile) (q : Nat) : hasImage (updTile s t f) q = hasImage s q := rfl
@[simp] theorem isRunning_updTile (t : Nat) (f : Tile → Tile) (q : Nat) : isRunning (updTile s t f) q = isRunning s q := rfl
@[simp] theorem getCnt_updTile (t : Nat) (f : Tile → Tile) (q j : Nat) : getCnt (updTile s t f) q j = getCnt s q j := rfl
@[simp] theorem getCtrl_updTile (t : Nat) (f : Tile → Tile) (q : Nat) : getCtrl (updTile s t f) q = getCtrl s q := rfl
@[simp] theorem lk_updTile (t : Nat) (f : Tile → Tile) (q : Nat) : lk (updTile s t f) q = lk s q := rfl
@[simp] theorem syncObj_updTile (t : Nat) (f : Tile → Tile) (q : Nat) : syncObj (updTile s t f) q = syncObj s q := rfl
@[simp] theorem getDesc_updTile (t : Nat) (f : Tile → Tile) (q j : Nat) : getDesc (updTile s t f) q j = getDesc s q j := rfl
@[simp] theorem getAlloc_updTile (t : Nat) (f : Tile → Tile) (q j : Nat) : getAlloc (updTile s t f) q j = getAlloc s q j := rfl
@[simp] theorem now_updTile (t : Nat) (f : Tile → Tile) : now (updTile s t f) = now s := rfl
@[simp] theorem siteOf_updTile (t : Nat) (f : Tile → Tile) (q : Nat) : siteOf (updTile s t f) q = siteOf s q := rfl
@[simp] theorem role_updTile (t : Nat) (f : Tile → Tile) : role (updTile s t f) = role s := rfl
@[simp] theorem nParts_updTile (t : Nat) (f : Tile → Tile) : nParts (updTile s t f) = nParts s := rfl
@[simp] theorem warmActive_updTile (t : Nat) (f : Tile → Tile) : warmActive (updTile s t f) = warmActive s := rfl
@[simp] theorem fwRunning_updTile (t : Nat) (f : Tile → Tile) : fwRunning (updTile s t f) = fwRunning s := rfl
@[simp] theorem anyImage_updTile (t : Nat) (f : Tile → Tile) : anyImage (updTile s t f) = anyImage s := rfl

@[simp] theorem rg_setCnt (p i : Nat) (c : Counter) (q j : Nat) : rg (setCnt s p i c) q j = rg s q j := rfl
@[simp] theorem rgF_setCnt (p i : Nat) (c : Counter) (q j hi' lo' : Nat) : rgF (setCnt s p i c) q j hi' lo' = rgF s q j hi' lo' := rfl
@[simp] theorem rg64_setCnt (p i : Nat) (c : Counter) (q j : Nat) : rg64 (setCnt s p i c) q j = rg64 s q j := rfl
@[simp] theorem getPage_setCnt (p i : Nat) (c : Counter) (q : Nat) : getPage (setCnt s p i c) q = getPage s q := rfl
@[simp] theorem isDone_setCnt (p i : Nat) (c : Counter) (q : Nat) : isDone (setCnt s p i c) q = isDone s q := rfl
@[simp] theorem getBlk_setCnt (p i : Nat) (c : Counter) (q : Nat) : getBlk (setCnt s p i c) q = getBlk s q := rfl
@[simp] theorem getReady_setCnt (p i : Nat) (c : Counter) (q : Nat) : getReady (setCnt s p i c) q = getReady s q := rfl
@[simp] theorem getPart_setCnt (p i : Nat) (c : Counter) (q : Nat) : getPart (setCnt s p i c) q = getPart s q := rfl
@[simp] theorem hasImage_setCnt (p i : Nat) (c : Counter) (q : Nat) : hasImage (setCnt s p i c) q = hasImage s q := rfl
@[simp] theorem isRunning_setCnt (p i : Nat) (c : Counter) (q : Nat) : isRunning (setCnt s p i c) q = isRunning s q := rfl
@[simp] theorem getTile_setCnt (p i : Nat) (c : Counter) (q : Nat) : getTile (setCnt s p i c) q = getTile s q := rfl
@[simp] theorem getCtrl_setCnt (p i : Nat) (c : Counter) (q : Nat) : getCtrl (setCnt s p i c) q = getCtrl s q := rfl
@[simp] theorem lk_setCnt (p i : Nat) (c : Counter) (q : Nat) : lk (setCnt s p i c) q = lk s q := rfl
@[simp] theorem syncObj_setCnt (p i : Nat) (c : Counter) (q : Nat) : syncObj (setCnt s p i c) q = syncObj s q := rfl
@[simp] theorem getDesc_setCnt (p i : Nat) (c : Counter) (q j : Nat) : getDesc (setCnt s p i c) q j = getDesc s q j := rfl
@[simp] theorem getAlloc_setCnt (p i : Nat) (c : Counter) (q j : Nat) : getAlloc (setCnt s p i c) q j = getAlloc s q j := rfl
@[simp] theorem now_setCnt (p i : Nat) (c : Counter) : now (setCnt s p i c) = now s := rfl
@[simp] theorem siteOf_setCnt (p i : Nat) (c : Counter) (q : Nat) : siteOf (setCnt s p i c) q = siteOf s q := rfl
@[simp] theorem role_setCnt (p i : Nat) (c : Counter) : role (setCnt s p i c) = role s := rfl
@[simp] theorem nParts_setCnt (p i : Nat) (c : Counter) : nParts (setCnt s p i c) = nParts s := rfl
@[simp] theorem warmActive_setCnt (p i : Nat) (c : Counter) : warmActive (setCnt s p i c) = warmActive s := rfl
@[simp] theorem fwRunning_setCnt (p i : Nat) (c : Counter) : fwRunning (setCnt s p i c) = fwRunning s := rfl
@[simp] theorem anyImage_setCnt (p i : Nat) (c : Counter) : anyImage (setCnt s p i c) = anyImage s := rfl

@[simp] theorem rg_setCtrl (k : Nat) (c : Ctrl) (q j : Nat) : rg (setCtrl s k c) q j = rg s q j := rfl
@[simp] theorem rgF_setCtrl (k : Nat) (c : Ctrl) (q j hi' lo' : Nat) : rgF (setCtrl s k c) q j hi' lo' = rgF s q j hi' lo' := rfl
@[simp] theorem rg64_setCtrl (k : Nat) (c : Ctrl) (q j : Nat) : rg64 (setCtrl s k c) q j = rg64 s q j := rfl
@[simp] theorem getPage_setCtrl (k : Nat) (c : Ctrl) (q : Nat) : getPage (setCtrl s k c) q = getPage s q := rfl
@[simp] theorem isDone_setCtrl (k : Nat) (c : Ctrl) (q : Nat) : isDone (setCtrl s k c) q = isDone s q := rfl
@[simp] theorem getBlk_setCtrl (k : Nat) (c : Ctrl) (q : Nat) : getBlk (setCtrl s k c) q = getBlk s q := rfl
@[simp] theorem getReady_setCtrl (k : Nat) (c : Ctrl) (q : Nat) : getReady (setCtrl s k c) q = getReady s q := rfl
@[simp] theorem getPart_setCtrl (k : Nat) (c : Ctrl) (q : Nat) : getPart (setCtrl s k c) q = getPart s q := rfl
@[simp] theorem hasImage_setCtrl (k : Nat) (c : Ctrl) (q : Nat) : hasImage (setCtrl s k c) q = hasImage s q := rfl
@[simp] theorem isRunning_setCtrl (k : Nat) (c : Ctrl) (q : Nat) : isRunning (setCtrl s k c) q = isRunning s q := rfl
@[simp] theorem getTile_setCtrl (k : Nat) (c : Ctrl) (q : Nat) : getTile (setCtrl s k c) q = getTile s q := rfl
@[simp] theorem getCnt_setCtrl (k : Nat) (c : Ctrl) (q j : Nat) : getCnt (setCtrl s k c) q j = getCnt s q j := rfl
@[simp] theorem lk_setCtrl (k : Nat) (c : Ctrl) (q : Nat) : lk (setCtrl s k c) q = lk s q := rfl
@[simp] theorem syncObj_setCtrl (k : Nat) (c : Ctrl) (q : Nat) : syncObj (setCtrl s k c) q = syncObj s q := rfl
@[simp] theorem getDesc_setCtrl (k : Nat) (c : Ctrl) (q j : Nat) : getDesc (setCtrl s k c) q j = getDesc s q j := rfl
@[simp] theorem getAlloc_setCtrl (k : Nat) (c : Ctrl) (q j : Nat) : getAlloc (setCtrl s k c) q j = getAlloc s q j := rfl
@[simp] theorem now_setCtrl (k : Nat) (c : Ctrl) : now (setCtrl s k c) = now s := rfl
@[simp] theorem siteOf_setCtrl (k : Nat) (c : Ctrl) (q : Nat) : siteOf (setCtrl s k c) q = siteOf s q := rfl
@[simp] theorem role_setCtrl (k : Nat) (c : Ctrl) : role (setCtrl s k c) = role s := rfl
@[simp] theorem nParts_setCtrl (k : Nat) (c : Ctrl) : nParts (setCtrl s k c) = nParts s := rfl
@[simp] theorem warmActive_setCtrl (k : Nat) (c : Ctrl) : warmActive (setCtrl s k c) = warmActive s := rfl
@[simp] theorem fwRunning_setCtrl (k : Nat) (c : Ctrl) : fwRunning (setCtrl s k c) = fwRunning s := rfl
@[simp] theorem anyImage_setCtrl (k : Nat) (c : Ctrl) : anyImage (setCtrl s k c) = anyImage s := rfl

@[simp] theorem rg_setLk (n : Nat) (l : LinkSt) (q j : Nat) : rg (setLk s n l) q j = rg s q j := rfl
@[simp] theorem rgF_setLk (n : Nat) (l : LinkSt) (q j hi' lo' : Nat) : rgF (setLk s n l) q j hi' lo' = rgF s q j hi' lo' := rfl
@[simp] theorem rg64_setLk (n : Nat) (l : LinkSt) (q j : Nat) : rg64 (setLk s n l) q j = rg64 s q j := rfl
@[simp] theorem getPage_setLk (n : Nat) (l : LinkSt) (q : Nat) : getPage (setLk s n l) q = getPage s q := rfl
@[simp] theorem isDone_setLk (n : Nat) (l : LinkSt) (q : Nat) : isDone (setLk s n l) q = isDone s q := rfl
@[simp] theorem getBlk_setLk (n : Nat) (l : LinkSt) (q : Nat) : getBlk (setLk s n l) q = getBlk s q := rfl
@[simp] theorem getReady_setLk (n : Nat) (l : LinkSt) (q : Nat) : getReady (setLk s n l) q = getReady s q := rfl
@[simp] theorem getPart_setLk (n : Nat) (l : LinkSt) (q : Nat) : getPart (setLk s n l) q = getPart s q := rfl
@[simp] theorem hasImage_setLk (n : Nat) (l : LinkSt) (q : Nat) : hasImage (setLk s n l) q = hasImage s q := rfl
@[simp] theorem isRunning_setLk (n : Nat) (l : LinkSt) (q : Nat) : isRunning (setLk s n l) q = isRunning s q := rfl
@[simp] theorem getTile_setLk (n : Nat) (l : LinkSt) (q : Nat) : getTile (setLk s n l) q = getTile s q := rfl
@[simp] theorem getCnt_setLk (n : Nat) (l : LinkSt) (q j : Nat) : getCnt (setLk s n l) q j = getCnt s q j := rfl
@[simp] theorem getCtrl_setLk (n : Nat) (l : LinkSt) (q : Nat) : getCtrl (setLk s n l) q = getCtrl s q := rfl
@[simp] theorem syncObj_setLk (n : Nat) (l : LinkSt) (q : Nat) : syncObj (setLk s n l) q = syncObj s q := rfl
@[simp] theorem getDesc_setLk (n : Nat) (l : LinkSt) (q j : Nat) : getDesc (setLk s n l) q j = getDesc s q j := rfl
@[simp] theorem getAlloc_setLk (n : Nat) (l : LinkSt) (q j : Nat) : getAlloc (setLk s n l) q j = getAlloc s q j := rfl
@[simp] theorem now_setLk (n : Nat) (l : LinkSt) : now (setLk s n l) = now s := rfl
@[simp] theorem siteOf_setLk (n : Nat) (l : LinkSt) (q : Nat) : siteOf (setLk s n l) q = siteOf s q := rfl
@[simp] theorem role_setLk (n : Nat) (l : LinkSt) : role (setLk s n l) = role s := rfl
@[simp] theorem nParts_setLk (n : Nat) (l : LinkSt) : nParts (setLk s n l) = nParts s := rfl
@[simp] theorem warmActive_setLk (n : Nat) (l : LinkSt) : warmActive (setLk s n l) = warmActive s := rfl
@[simp] theorem fwRunning_setLk (n : Nat) (l : LinkSt) : fwRunning (setLk s n l) = fwRunning s := rfl
@[simp] theorem anyImage_setLk (n : Nat) (l : LinkSt) : anyImage (setLk s n l) = anyImage s := rfl

@[simp] theorem rg_setSync (n : Nat) (o : SyncObj) (q j : Nat) : rg (setSync s n o) q j = rg s q j := rfl
@[simp] theorem rgF_setSync (n : Nat) (o : SyncObj) (q j hi' lo' : Nat) : rgF (setSync s n o) q j hi' lo' = rgF s q j hi' lo' := rfl
@[simp] theorem rg64_setSync (n : Nat) (o : SyncObj) (q j : Nat) : rg64 (setSync s n o) q j = rg64 s q j := rfl
@[simp] theorem getPage_setSync (n : Nat) (o : SyncObj) (q : Nat) : getPage (setSync s n o) q = getPage s q := rfl
@[simp] theorem isDone_setSync (n : Nat) (o : SyncObj) (q : Nat) : isDone (setSync s n o) q = isDone s q := rfl
@[simp] theorem getBlk_setSync (n : Nat) (o : SyncObj) (q : Nat) : getBlk (setSync s n o) q = getBlk s q := rfl
@[simp] theorem getReady_setSync (n : Nat) (o : SyncObj) (q : Nat) : getReady (setSync s n o) q = getReady s q := rfl
@[simp] theorem getPart_setSync (n : Nat) (o : SyncObj) (q : Nat) : getPart (setSync s n o) q = getPart s q := rfl
@[simp] theorem hasImage_setSync (n : Nat) (o : SyncObj) (q : Nat) : hasImage (setSync s n o) q = hasImage s q := rfl
@[simp] theorem isRunning_setSync (n : Nat) (o : SyncObj) (q : Nat) : isRunning (setSync s n o) q = isRunning s q := rfl
@[simp] theorem getTile_setSync (n : Nat) (o : SyncObj) (q : Nat) : getTile (setSync s n o) q = getTile s q := rfl
@[simp] theorem getCnt_setSync (n : Nat) (o : SyncObj) (q j : Nat) : getCnt (setSync s n o) q j = getCnt s q j := rfl
@[simp] theorem getCtrl_setSync (n : Nat) (o : SyncObj) (q : Nat) : getCtrl (setSync s n o) q = getCtrl s q := rfl
@[simp] theorem lk_setSync (n : Nat) (o : SyncObj) (q : Nat) : lk (setSync s n o) q = lk s q := rfl
@[simp] theorem getDesc_setSync (n : Nat) (o : SyncObj) (q j : Nat) : getDesc (setSync s n o) q j = getDesc s q j := rfl
@[simp] theorem getAlloc_setSync (n : Nat) (o : SyncObj) (q j : Nat) : getAlloc (setSync s n o) q j = getAlloc s q j := rfl
@[simp] theorem now_setSync (n : Nat) (o : SyncObj) : now (setSync s n o) = now s := rfl
@[simp] theorem siteOf_setSync (n : Nat) (o : SyncObj) (q : Nat) : siteOf (setSync s n o) q = siteOf s q := rfl
@[simp] theorem role_setSync (n : Nat) (o : SyncObj) : role (setSync s n o) = role s := rfl
@[simp] theorem nParts_setSync (n : Nat) (o : SyncObj) : nParts (setSync s n o) = nParts s := rfl
@[simp] theorem warmActive_setSync (n : Nat) (o : SyncObj) : warmActive (setSync s n o) = warmActive s := rfl
@[simp] theorem fwRunning_setSync (n : Nat) (o : SyncObj) : fwRunning (setSync s n o) = fwRunning s := rfl
@[simp] theorem anyImage_setSync (n : Nat) (o : SyncObj) : anyImage (setSync s n o) = anyImage s := rfl

@[simp] theorem rg_sendMsix (v : Nat) (q j : Nat) : rg (sendMsix s v) q j = rg s q j := rfl
@[simp] theorem rgF_sendMsix (v : Nat) (q j hi' lo' : Nat) : rgF (sendMsix s v) q j hi' lo' = rgF s q j hi' lo' := rfl
@[simp] theorem rg64_sendMsix (v : Nat) (q j : Nat) : rg64 (sendMsix s v) q j = rg64 s q j := rfl
@[simp] theorem getPage_sendMsix (v : Nat) (q : Nat) : getPage (sendMsix s v) q = getPage s q := rfl
@[simp] theorem isDone_sendMsix (v : Nat) (q : Nat) : isDone (sendMsix s v) q = isDone s q := rfl
@[simp] theorem getBlk_sendMsix (v : Nat) (q : Nat) : getBlk (sendMsix s v) q = getBlk s q := rfl
@[simp] theorem getReady_sendMsix (v : Nat) (q : Nat) : getReady (sendMsix s v) q = getReady s q := rfl
@[simp] theorem getPart_sendMsix (v : Nat) (q : Nat) : getPart (sendMsix s v) q = getPart s q := rfl
@[simp] theorem hasImage_sendMsix (v : Nat) (q : Nat) : hasImage (sendMsix s v) q = hasImage s q := rfl
@[simp] theorem isRunning_sendMsix (v : Nat) (q : Nat) : isRunning (sendMsix s v) q = isRunning s q := rfl
@[simp] theorem getTile_sendMsix (v : Nat) (q : Nat) : getTile (sendMsix s v) q = getTile s q := rfl
@[simp] theorem getCnt_sendMsix (v : Nat) (q j : Nat) : getCnt (sendMsix s v) q j = getCnt s q j := rfl
@[simp] theorem getCtrl_sendMsix (v : Nat) (q : Nat) : getCtrl (sendMsix s v) q = getCtrl s q := rfl
@[simp] theorem lk_sendMsix (v : Nat) (q : Nat) : lk (sendMsix s v) q = lk s q := rfl
@[simp] theorem syncObj_sendMsix (v : Nat) (q : Nat) : syncObj (sendMsix s v) q = syncObj s q := rfl
@[simp] theorem getDesc_sendMsix (v : Nat) (q j : Nat) : getDesc (sendMsix s v) q j = getDesc s q j := rfl
@[simp] theorem getAlloc_sendMsix (v : Nat) (q j : Nat) : getAlloc (sendMsix s v) q j = getAlloc s q j := rfl
@[simp] theorem now_sendMsix (v : Nat) : now (sendMsix s v) = now s := rfl
@[simp] theorem siteOf_sendMsix (v : Nat) (q : Nat) : siteOf (sendMsix s v) q = siteOf s q := rfl
@[simp] theorem role_sendMsix (v : Nat) : role (sendMsix s v) = role s := rfl
@[simp] theorem nParts_sendMsix (v : Nat) : nParts (sendMsix s v) = nParts s := rfl
@[simp] theorem warmActive_sendMsix (v : Nat) : warmActive (sendMsix s v) = warmActive s := rfl
@[simp] theorem fwRunning_sendMsix (v : Nat) : fwRunning (sendMsix s v) = fwRunning s := rfl
@[simp] theorem anyImage_sendMsix (v : Nat) : anyImage (sendMsix s v) = anyImage s := rfl

@[simp] theorem rg_postResult (p code echo : Nat) (q j : Nat) : rg (postResult s p code echo) q j = rg s q j := rfl
@[simp] theorem rgF_postResult (p code echo : Nat) (q j hi' lo' : Nat) : rgF (postResult s p code echo) q j hi' lo' = rgF s q j hi' lo' := rfl
@[simp] theorem rg64_postResult (p code echo : Nat) (q j : Nat) : rg64 (postResult s p code echo) q j = rg64 s q j := rfl
@[simp] theorem getBlk_postResult (p code echo : Nat) (q : Nat) : getBlk (postResult s p code echo) q = getBlk s q := rfl
@[simp] theorem getReady_postResult (p code echo : Nat) (q : Nat) : getReady (postResult s p code echo) q = getReady s q := rfl
@[simp] theorem getPart_postResult (p code echo : Nat) (q : Nat) : getPart (postResult s p code echo) q = getPart s q := rfl
@[simp] theorem hasImage_postResult (p code echo : Nat) (q : Nat) : hasImage (postResult s p code echo) q = hasImage s q := rfl
@[simp] theorem isRunning_postResult (p code echo : Nat) (q : Nat) : isRunning (postResult s p code echo) q = isRunning s q := rfl
@[simp] theorem getTile_postResult (p code echo : Nat) (q : Nat) : getTile (postResult s p code echo) q = getTile s q := rfl
@[simp] theorem getCnt_postResult (p code echo : Nat) (q j : Nat) : getCnt (postResult s p code echo) q j = getCnt s q j := rfl
@[simp] theorem getCtrl_postResult (p code echo : Nat) (q : Nat) : getCtrl (postResult s p code echo) q = getCtrl s q := rfl
@[simp] theorem lk_postResult (p code echo : Nat) (q : Nat) : lk (postResult s p code echo) q = lk s q := rfl
@[simp] theorem syncObj_postResult (p code echo : Nat) (q : Nat) : syncObj (postResult s p code echo) q = syncObj s q := rfl
@[simp] theorem getDesc_postResult (p code echo : Nat) (q j : Nat) : getDesc (postResult s p code echo) q j = getDesc s q j := rfl
@[simp] theorem getAlloc_postResult (p code echo : Nat) (q j : Nat) : getAlloc (postResult s p code echo) q j = getAlloc s q j := rfl
@[simp] theorem now_postResult (p code echo : Nat) : now (postResult s p code echo) = now s := rfl
@[simp] theorem siteOf_postResult (p code echo : Nat) (q : Nat) : siteOf (postResult s p code echo) q = siteOf s q := rfl
@[simp] theorem role_postResult (p code echo : Nat) : role (postResult s p code echo) = role s := rfl
@[simp] theorem nParts_postResult (p code echo : Nat) : nParts (postResult s p code echo) = nParts s := rfl
@[simp] theorem warmActive_postResult (p code echo : Nat) : warmActive (postResult s p code echo) = warmActive s := rfl
@[simp] theorem fwRunning_postResult (p code echo : Nat) : fwRunning (postResult s p code echo) = fwRunning s := rfl
@[simp] theorem anyImage_postResult (p code echo : Nat) : anyImage (postResult s p code echo) = anyImage s := rfl

@[simp] theorem rg_postDone (p code echo : Nat) (q j : Nat) : rg (postDone s p code echo) q j = rg s q j := rfl
@[simp] theorem rgF_postDone (p code echo : Nat) (q j hi' lo' : Nat) : rgF (postDone s p code echo) q j hi' lo' = rgF s q j hi' lo' := rfl
@[simp] theorem rg64_postDone (p code echo : Nat) (q j : Nat) : rg64 (postDone s p code echo) q j = rg64 s q j := rfl
@[simp] theorem getBlk_postDone (p code echo : Nat) (q : Nat) : getBlk (postDone s p code echo) q = getBlk s q := rfl
@[simp] theorem getReady_postDone (p code echo : Nat) (q : Nat) : getReady (postDone s p code echo) q = getReady s q := rfl
@[simp] theorem getPart_postDone (p code echo : Nat) (q : Nat) : getPart (postDone s p code echo) q = getPart s q := rfl
@[simp] theorem hasImage_postDone (p code echo : Nat) (q : Nat) : hasImage (postDone s p code echo) q = hasImage s q := rfl
@[simp] theorem isRunning_postDone (p code echo : Nat) (q : Nat) : isRunning (postDone s p code echo) q = isRunning s q := rfl
@[simp] theorem getTile_postDone (p code echo : Nat) (q : Nat) : getTile (postDone s p code echo) q = getTile s q := rfl
@[simp] theorem getCnt_postDone (p code echo : Nat) (q j : Nat) : getCnt (postDone s p code echo) q j = getCnt s q j := rfl
@[simp] theorem getCtrl_postDone (p code echo : Nat) (q : Nat) : getCtrl (postDone s p code echo) q = getCtrl s q := rfl
@[simp] theorem lk_postDone (p code echo : Nat) (q : Nat) : lk (postDone s p code echo) q = lk s q := rfl
@[simp] theorem syncObj_postDone (p code echo : Nat) (q : Nat) : syncObj (postDone s p code echo) q = syncObj s q := rfl
@[simp] theorem getDesc_postDone (p code echo : Nat) (q j : Nat) : getDesc (postDone s p code echo) q j = getDesc s q j := rfl
@[simp] theorem getAlloc_postDone (p code echo : Nat) (q j : Nat) : getAlloc (postDone s p code echo) q j = getAlloc s q j := rfl
@[simp] theorem now_postDone (p code echo : Nat) : now (postDone s p code echo) = now s := rfl
@[simp] theorem siteOf_postDone (p code echo : Nat) (q : Nat) : siteOf (postDone s p code echo) q = siteOf s q := rfl
@[simp] theorem role_postDone (p code echo : Nat) : role (postDone s p code echo) = role s := rfl
@[simp] theorem nParts_postDone (p code echo : Nat) : nParts (postDone s p code echo) = nParts s := rfl
@[simp] theorem warmActive_postDone (p code echo : Nat) : warmActive (postDone s p code echo) = warmActive s := rfl
@[simp] theorem fwRunning_postDone (p code echo : Nat) : fwRunning (postDone s p code echo) = fwRunning s := rfl
@[simp] theorem anyImage_postDone (p code echo : Nat) : anyImage (postDone s p code echo) = anyImage s := rfl

@[simp] theorem rg_postRunning (p echo : Nat) (q j : Nat) : rg (postRunning s p echo) q j = rg s q j := rfl
@[simp] theorem rgF_postRunning (p echo : Nat) (q j hi' lo' : Nat) : rgF (postRunning s p echo) q j hi' lo' = rgF s q j hi' lo' := rfl
@[simp] theorem rg64_postRunning (p echo : Nat) (q j : Nat) : rg64 (postRunning s p echo) q j = rg64 s q j := rfl
@[simp] theorem getBlk_postRunning (p echo : Nat) (q : Nat) : getBlk (postRunning s p echo) q = getBlk s q := rfl
@[simp] theorem getReady_postRunning (p echo : Nat) (q : Nat) : getReady (postRunning s p echo) q = getReady s q := rfl
@[simp] theorem getPart_postRunning (p echo : Nat) (q : Nat) : getPart (postRunning s p echo) q = getPart s q := rfl
@[simp] theorem hasImage_postRunning (p echo : Nat) (q : Nat) : hasImage (postRunning s p echo) q = hasImage s q := rfl
@[simp] theorem isRunning_postRunning (p echo : Nat) (q : Nat) : isRunning (postRunning s p echo) q = isRunning s q := rfl
@[simp] theorem getTile_postRunning (p echo : Nat) (q : Nat) : getTile (postRunning s p echo) q = getTile s q := rfl
@[simp] theorem getCnt_postRunning (p echo : Nat) (q j : Nat) : getCnt (postRunning s p echo) q j = getCnt s q j := rfl
@[simp] theorem getCtrl_postRunning (p echo : Nat) (q : Nat) : getCtrl (postRunning s p echo) q = getCtrl s q := rfl
@[simp] theorem lk_postRunning (p echo : Nat) (q : Nat) : lk (postRunning s p echo) q = lk s q := rfl
@[simp] theorem syncObj_postRunning (p echo : Nat) (q : Nat) : syncObj (postRunning s p echo) q = syncObj s q := rfl
@[simp] theorem getDesc_postRunning (p echo : Nat) (q j : Nat) : getDesc (postRunning s p echo) q j = getDesc s q j := rfl
@[simp] theorem getAlloc_postRunning (p echo : Nat) (q j : Nat) : getAlloc (postRunning s p echo) q j = getAlloc s q j := rfl
@[simp] theorem now_postRunning (p echo : Nat) : now (postRunning s p echo) = now s := rfl
@[simp] theorem siteOf_postRunning (p echo : Nat) (q : Nat) : siteOf (postRunning s p echo) q = siteOf s q := rfl
@[simp] theorem role_postRunning (p echo : Nat) : role (postRunning s p echo) = role s := rfl
@[simp] theorem nParts_postRunning (p echo : Nat) : nParts (postRunning s p echo) = nParts s := rfl
@[simp] theorem warmActive_postRunning (p echo : Nat) : warmActive (postRunning s p echo) = warmActive s := rfl
@[simp] theorem fwRunning_postRunning (p echo : Nat) : fwRunning (postRunning s p echo) = fwRunning s := rfl
@[simp] theorem anyImage_postRunning (p echo : Nat) : anyImage (postRunning s p echo) = anyImage s := rfl

@[simp] theorem rg_noteWrite (p : Nat) (q j : Nat) : rg (noteWrite s p) q j = rg s q j := rfl
@[simp] theorem rgF_noteWrite (p : Nat) (q j hi' lo' : Nat) : rgF (noteWrite s p) q j hi' lo' = rgF s q j hi' lo' := rfl
@[simp] theorem rg64_noteWrite (p : Nat) (q j : Nat) : rg64 (noteWrite s p) q j = rg64 s q j := rfl
@[simp] theorem getBlk_noteWrite (p : Nat) (q : Nat) : getBlk (noteWrite s p) q = getBlk s q := rfl
@[simp] theorem getReady_noteWrite (p : Nat) (q : Nat) : getReady (noteWrite s p) q = getReady s q := rfl
@[simp] theorem getPart_noteWrite (p : Nat) (q : Nat) : getPart (noteWrite s p) q = getPart s q := rfl
@[simp] theorem hasImage_noteWrite (p : Nat) (q : Nat) : hasImage (noteWrite s p) q = hasImage s q := rfl
@[simp] theorem isRunning_noteWrite (p : Nat) (q : Nat) : isRunning (noteWrite s p) q = isRunning s q := rfl
@[simp] theorem getTile_noteWrite (p : Nat) (q : Nat) : getTile (noteWrite s p) q = getTile s q := rfl
@[simp] theorem getCnt_noteWrite (p : Nat) (q j : Nat) : getCnt (noteWrite s p) q j = getCnt s q j := rfl
@[simp] theorem getCtrl_noteWrite (p : Nat) (q : Nat) : getCtrl (noteWrite s p) q = getCtrl s q := rfl
@[simp] theorem lk_noteWrite (p : Nat) (q : Nat) : lk (noteWrite s p) q = lk s q := rfl
@[simp] theorem syncObj_noteWrite (p : Nat) (q : Nat) : syncObj (noteWrite s p) q = syncObj s q := rfl
@[simp] theorem getDesc_noteWrite (p : Nat) (q j : Nat) : getDesc (noteWrite s p) q j = getDesc s q j := rfl
@[simp] theorem getAlloc_noteWrite (p : Nat) (q j : Nat) : getAlloc (noteWrite s p) q j = getAlloc s q j := rfl
@[simp] theorem now_noteWrite (p : Nat) : now (noteWrite s p) = now s := rfl
@[simp] theorem siteOf_noteWrite (p : Nat) (q : Nat) : siteOf (noteWrite s p) q = siteOf s q := rfl
@[simp] theorem role_noteWrite (p : Nat) : role (noteWrite s p) = role s := rfl
@[simp] theorem nParts_noteWrite (p : Nat) : nParts (noteWrite s p) = nParts s := rfl
@[simp] theorem warmActive_noteWrite (p : Nat) : warmActive (noteWrite s p) = warmActive s := rfl
@[simp] theorem fwRunning_noteWrite (p : Nat) : fwRunning (noteWrite s p) = fwRunning s := rfl
@[simp] theorem anyImage_noteWrite (p : Nat) : anyImage (noteWrite s p) = anyImage s := rfl

@[simp] theorem rg_setCtl (p i : Nat) (b : Bool) (q j : Nat) : rg (setCtl s p i b) q j = rg s q j := rfl
@[simp] theorem rgF_setCtl (p i : Nat) (b : Bool) (q j hi' lo' : Nat) : rgF (setCtl s p i b) q j hi' lo' = rgF s q j hi' lo' := rfl
@[simp] theorem rg64_setCtl (p i : Nat) (b : Bool) (q j : Nat) : rg64 (setCtl s p i b) q j = rg64 s q j := rfl
@[simp] theorem getPage_setCtl (p i : Nat) (b : Bool) (q : Nat) : getPage (setCtl s p i b) q = getPage s q := rfl
@[simp] theorem isDone_setCtl (p i : Nat) (b : Bool) (q : Nat) : isDone (setCtl s p i b) q = isDone s q := rfl
@[simp] theorem getReady_setCtl (p i : Nat) (b : Bool) (q : Nat) : getReady (setCtl s p i b) q = getReady s q := rfl
@[simp] theorem getPart_setCtl (p i : Nat) (b : Bool) (q : Nat) : getPart (setCtl s p i b) q = getPart s q := rfl
@[simp] theorem hasImage_setCtl (p i : Nat) (b : Bool) (q : Nat) : hasImage (setCtl s p i b) q = hasImage s q := rfl
@[simp] theorem isRunning_setCtl (p i : Nat) (b : Bool) (q : Nat) : isRunning (setCtl s p i b) q = isRunning s q := rfl
@[simp] theorem getTile_setCtl (p i : Nat) (b : Bool) (q : Nat) : getTile (setCtl s p i b) q = getTile s q := rfl
@[simp] theorem getCnt_setCtl (p i : Nat) (b : Bool) (q j : Nat) : getCnt (setCtl s p i b) q j = getCnt s q j := rfl
@[simp] theorem getCtrl_setCtl (p i : Nat) (b : Bool) (q : Nat) : getCtrl (setCtl s p i b) q = getCtrl s q := rfl
@[simp] theorem lk_setCtl (p i : Nat) (b : Bool) (q : Nat) : lk (setCtl s p i b) q = lk s q := rfl
@[simp] theorem syncObj_setCtl (p i : Nat) (b : Bool) (q : Nat) : syncObj (setCtl s p i b) q = syncObj s q := rfl
@[simp] theorem getDesc_setCtl (p i : Nat) (b : Bool) (q j : Nat) : getDesc (setCtl s p i b) q j = getDesc s q j := rfl
@[simp] theorem getAlloc_setCtl (p i : Nat) (b : Bool) (q j : Nat) : getAlloc (setCtl s p i b) q j = getAlloc s q j := rfl
@[simp] theorem now_setCtl (p i : Nat) (b : Bool) : now (setCtl s p i b) = now s := rfl
@[simp] theorem siteOf_setCtl (p i : Nat) (b : Bool) (q : Nat) : siteOf (setCtl s p i b) q = siteOf s q := rfl
@[simp] theorem role_setCtl (p i : Nat) (b : Bool) : role (setCtl s p i b) = role s := rfl
@[simp] theorem nParts_setCtl (p i : Nat) (b : Bool) : nParts (setCtl s p i b) = nParts s := rfl
@[simp] theorem warmActive_setCtl (p i : Nat) (b : Bool) : warmActive (setCtl s p i b) = warmActive s := rfl
@[simp] theorem fwRunning_setCtl (p i : Nat) (b : Bool) : fwRunning (setCtl s p i b) = fwRunning s := rfl
@[simp] theorem anyImage_setCtl (p i : Nat) (b : Bool) : anyImage (setCtl s p i b) = anyImage s := rfl

@[simp] theorem rg_sealAlloc (p h : Nat) (b : Bool) (q j : Nat) : rg (sealAlloc s p h b) q j = rg s q j := rfl
@[simp] theorem rgF_sealAlloc (p h : Nat) (b : Bool) (q j hi' lo' : Nat) : rgF (sealAlloc s p h b) q j hi' lo' = rgF s q j hi' lo' := rfl
@[simp] theorem rg64_sealAlloc (p h : Nat) (b : Bool) (q j : Nat) : rg64 (sealAlloc s p h b) q j = rg64 s q j := rfl
@[simp] theorem getPage_sealAlloc (p h : Nat) (b : Bool) (q : Nat) : getPage (sealAlloc s p h b) q = getPage s q := rfl
@[simp] theorem isDone_sealAlloc (p h : Nat) (b : Bool) (q : Nat) : isDone (sealAlloc s p h b) q = isDone s q := rfl
@[simp] theorem getBlk_sealAlloc (p h : Nat) (b : Bool) (q : Nat) : getBlk (sealAlloc s p h b) q = getBlk s q := rfl
@[simp] theorem getReady_sealAlloc (p h : Nat) (b : Bool) (q : Nat) : getReady (sealAlloc s p h b) q = getReady s q := rfl
@[simp] theorem getPart_sealAlloc (p h : Nat) (b : Bool) (q : Nat) : getPart (sealAlloc s p h b) q = getPart s q := rfl
@[simp] theorem hasImage_sealAlloc (p h : Nat) (b : Bool) (q : Nat) : hasImage (sealAlloc s p h b) q = hasImage s q := rfl
@[simp] theorem isRunning_sealAlloc (p h : Nat) (b : Bool) (q : Nat) : isRunning (sealAlloc s p h b) q = isRunning s q := rfl
@[simp] theorem getTile_sealAlloc (p h : Nat) (b : Bool) (q : Nat) : getTile (sealAlloc s p h b) q = getTile s q := rfl
@[simp] theorem getCnt_sealAlloc (p h : Nat) (b : Bool) (q j : Nat) : getCnt (sealAlloc s p h b) q j = getCnt s q j := rfl
@[simp] theorem getCtrl_sealAlloc (p h : Nat) (b : Bool) (q : Nat) : getCtrl (sealAlloc s p h b) q = getCtrl s q := rfl
@[simp] theorem lk_sealAlloc (p h : Nat) (b : Bool) (q : Nat) : lk (sealAlloc s p h b) q = lk s q := rfl
@[simp] theorem syncObj_sealAlloc (p h : Nat) (b : Bool) (q : Nat) : syncObj (sealAlloc s p h b) q = syncObj s q := rfl
@[simp] theorem getDesc_sealAlloc (p h : Nat) (b : Bool) (q j : Nat) : getDesc (sealAlloc s p h b) q j = getDesc s q j := rfl
@[simp] theorem now_sealAlloc (p h : Nat) (b : Bool) : now (sealAlloc s p h b) = now s := rfl
@[simp] theorem siteOf_sealAlloc (p h : Nat) (b : Bool) (q : Nat) : siteOf (sealAlloc s p h b) q = siteOf s q := rfl
@[simp] theorem role_sealAlloc (p h : Nat) (b : Bool) : role (sealAlloc s p h b) = role s := rfl
@[simp] theorem nParts_sealAlloc (p h : Nat) (b : Bool) : nParts (sealAlloc s p h b) = nParts s := rfl
@[simp] theorem warmActive_sealAlloc (p h : Nat) (b : Bool) : warmActive (sealAlloc s p h b) = warmActive s := rfl
@[simp] theorem fwRunning_sealAlloc (p h : Nat) (b : Bool) : fwRunning (sealAlloc s p h b) = fwRunning s := rfl
@[simp] theorem anyImage_sealAlloc (p h : Nat) (b : Bool) : anyImage (sealAlloc s p h b) = anyImage s := rfl

@[simp] theorem getPage_setImgState (p v : Nat) (q : Nat) : getPage (setImgState s p v) q = getPage s q := rfl
@[simp] theorem isDone_setImgState (p v : Nat) (q : Nat) : isDone (setImgState s p v) q = isDone s q := rfl
@[simp] theorem getBlk_setImgState (p v : Nat) (q : Nat) : getBlk (setImgState s p v) q = getBlk s q := rfl
@[simp] theorem getReady_setImgState (p v : Nat) (q : Nat) : getReady (setImgState s p v) q = getReady s q := rfl
@[simp] theorem getPart_setImgState (p v : Nat) (q : Nat) : getPart (setImgState s p v) q = getPart s q := rfl
@[simp] theorem hasImage_setImgState (p v : Nat) (q : Nat) : hasImage (setImgState s p v) q = hasImage s q := rfl
@[simp] theorem isRunning_setImgState (p v : Nat) (q : Nat) : isRunning (setImgState s p v) q = isRunning s q := rfl
@[simp] theorem getTile_setImgState (p v : Nat) (q : Nat) : getTile (setImgState s p v) q = getTile s q := rfl
@[simp] theorem getCnt_setImgState (p v : Nat) (q j : Nat) : getCnt (setImgState s p v) q j = getCnt s q j := rfl
@[simp] theorem getCtrl_setImgState (p v : Nat) (q : Nat) : getCtrl (setImgState s p v) q = getCtrl s q := rfl
@[simp] theorem lk_setImgState (p v : Nat) (q : Nat) : lk (setImgState s p v) q = lk s q := rfl
@[simp] theorem syncObj_setImgState (p v : Nat) (q : Nat) : syncObj (setImgState s p v) q = syncObj s q := rfl
@[simp] theorem getDesc_setImgState (p v : Nat) (q j : Nat) : getDesc (setImgState s p v) q j = getDesc s q j := rfl
@[simp] theorem getAlloc_setImgState (p v : Nat) (q j : Nat) : getAlloc (setImgState s p v) q j = getAlloc s q j := rfl
@[simp] theorem now_setImgState (p v : Nat) : now (setImgState s p v) = now s := rfl
@[simp] theorem siteOf_setImgState (p v : Nat) (q : Nat) : siteOf (setImgState s p v) q = siteOf s q := rfl
@[simp] theorem anyImage_setImgState (p v : Nat) : anyImage (setImgState s p v) = anyImage s := rfl

@[simp] theorem rg_taken (p c : Nat) (a : Arg) (q j : Nat) : rg (taken s p c a) q j = rg s q j := rfl
@[simp] theorem rgF_taken (p c : Nat) (a : Arg) (q j hi' lo' : Nat) : rgF (taken s p c a) q j hi' lo' = rgF s q j hi' lo' := rfl
@[simp] theorem rg64_taken (p c : Nat) (a : Arg) (q j : Nat) : rg64 (taken s p c a) q j = rg64 s q j := rfl
@[simp] theorem getBlk_taken (p c : Nat) (a : Arg) (q : Nat) : getBlk (taken s p c a) q = getBlk s q := rfl
@[simp] theorem getReady_taken (p c : Nat) (a : Arg) (q : Nat) : getReady (taken s p c a) q = getReady s q := rfl
@[simp] theorem getPart_taken (p c : Nat) (a : Arg) (q : Nat) : getPart (taken s p c a) q = getPart s q := rfl
@[simp] theorem hasImage_taken (p c : Nat) (a : Arg) (q : Nat) : hasImage (taken s p c a) q = hasImage s q := rfl
@[simp] theorem isRunning_taken (p c : Nat) (a : Arg) (q : Nat) : isRunning (taken s p c a) q = isRunning s q := rfl
@[simp] theorem getTile_taken (p c : Nat) (a : Arg) (q : Nat) : getTile (taken s p c a) q = getTile s q := rfl
@[simp] theorem getCnt_taken (p c : Nat) (a : Arg) (q j : Nat) : getCnt (taken s p c a) q j = getCnt s q j := rfl
@[simp] theorem getCtrl_taken (p c : Nat) (a : Arg) (q : Nat) : getCtrl (taken s p c a) q = getCtrl s q := rfl
@[simp] theorem lk_taken (p c : Nat) (a : Arg) (q : Nat) : lk (taken s p c a) q = lk s q := rfl
@[simp] theorem syncObj_taken (p c : Nat) (a : Arg) (q : Nat) : syncObj (taken s p c a) q = syncObj s q := rfl
@[simp] theorem getDesc_taken (p c : Nat) (a : Arg) (q j : Nat) : getDesc (taken s p c a) q j = getDesc s q j := rfl
@[simp] theorem getAlloc_taken (p c : Nat) (a : Arg) (q j : Nat) : getAlloc (taken s p c a) q j = getAlloc s q j := rfl
@[simp] theorem now_taken (p c : Nat) (a : Arg) : now (taken s p c a) = now s := rfl
@[simp] theorem siteOf_taken (p c : Nat) (a : Arg) (q : Nat) : siteOf (taken s p c a) q = siteOf s q := rfl
@[simp] theorem role_taken (p c : Nat) (a : Arg) : role (taken s p c a) = role s := rfl
@[simp] theorem nParts_taken (p c : Nat) (a : Arg) : nParts (taken s p c a) = nParts s := rfl
@[simp] theorem warmActive_taken (p c : Nat) (a : Arg) : warmActive (taken s p c a) = warmActive s := rfl
@[simp] theorem fwRunning_taken (p c : Nat) (a : Arg) : fwRunning (taken s p c a) = fwRunning s := rfl
@[simp] theorem anyImage_taken (p c : Nat) (a : Arg) : anyImage (taken s p c a) = anyImage s := rfl

end Sys2Proof.Machine
end

