-- ==== Sys2Proof/Laws/Ops.lean ====
section
/-! SUPPORT. What the shared operations do: reading after writing, and the gates of commands and instructions. -/

namespace Sys2Proof.Machine

/-! The parts of the canonical form. -/

theorem canon_iff (s : State) : s.canon = true ↔
    s.mem.wf = true ∧ smWf regReset s.regs = true ∧ smWf pageReset s.pages = true ∧
    smWf (fun _ => ({} : Blk)) s.blks = true ∧ smWf (fun _ => false) s.ready = true ∧
    smWf (fun _ => ({} : Counter)) s.cnt = true ∧ smWf (fun _ => ({} : Part)) s.parts = true ∧
    smWf (fun _ => ({} : Tile)) s.tiles = true ∧ smWf (fun _ => ({} : SyncObj)) s.sync = true ∧
    smWf (fun _ => (0 : BitVec 1024)) s.descs = true ∧ smWf (fun _ => ({} : Ctrl)) s.ctrls = true ∧
    smWf (fun _ => ({} : LinkSt)) s.links = true ∧ smWf (fun _ => ([] : List CLine)) s.cache = true := by
  simp only [State.canon, Bool.and_eq_true, and_assoc]

theorem canon_regs {s : State} (h : s.canon = true) : smRising none s.regs = true := smWf_rising ((canon_iff s).mp h).2.1
theorem canon_pages {s : State} (h : s.canon = true) : smRising none s.pages = true := smWf_rising ((canon_iff s).mp h).2.2.1
theorem canon_blks {s : State} (h : s.canon = true) : smRising none s.blks = true := smWf_rising ((canon_iff s).mp h).2.2.2.1
theorem canon_ready {s : State} (h : s.canon = true) : smRising none s.ready = true := smWf_rising ((canon_iff s).mp h).2.2.2.2.1
theorem canon_cnt {s : State} (h : s.canon = true) : smRising none s.cnt = true := smWf_rising ((canon_iff s).mp h).2.2.2.2.2.1
theorem canon_parts {s : State} (h : s.canon = true) : smRising none s.parts = true :=
  smWf_rising ((canon_iff s).mp h).2.2.2.2.2.2.1
theorem canon_tiles {s : State} (h : s.canon = true) : smRising none s.tiles = true :=
  smWf_rising ((canon_iff s).mp h).2.2.2.2.2.2.2.1
theorem canon_sync {s : State} (h : s.canon = true) : smRising none s.sync = true :=
  smWf_rising ((canon_iff s).mp h).2.2.2.2.2.2.2.2.1
theorem canon_descs {s : State} (h : s.canon = true) : smRising none s.descs = true :=
  smWf_rising ((canon_iff s).mp h).2.2.2.2.2.2.2.2.2.1
theorem canon_ctrls {s : State} (h : s.canon = true) : smRising none s.ctrls = true :=
  smWf_rising ((canon_iff s).mp h).2.2.2.2.2.2.2.2.2.2.1
theorem canon_links {s : State} (h : s.canon = true) : smRising none s.links = true :=
  smWf_rising ((canon_iff s).mp h).2.2.2.2.2.2.2.2.2.2.2.1
theorem canon_cache {s : State} (h : s.canon = true) : smRising none s.cache = true :=
  smWf_rising ((canon_iff s).mp h).2.2.2.2.2.2.2.2.2.2.2.2

/-! Reading after writing. -/

theorem getPage_setPage_same {s : State} (p : Nat) (x : Page) (h : smRising none s.pages = true) :
    getPage (setPage s p x) p = x := smGet_smSet_same _ _ _ _ h
theorem getPage_setPage_ne {s : State} {p q : Nat} (x : Page) (hq : q ≠ p) (h : smRising none s.pages = true) :
    getPage (setPage s p x) q = getPage s q := smGet_smSet_ne _ _ _ hq h
theorem rg_setRg_same {s : State} (p o : Nat) (v : Word) (h : smRising none s.regs = true) : rg (setRg s p o v) p o = v :=
  smGet_smSet_same _ _ _ _ h
theorem rg_setRg_ne {s : State} {p o q k : Nat} (v : Word) (hq : q * 4096 + k ≠ p * 4096 + o)
    (h : smRising none s.regs = true) : rg (setRg s p o v) q k = rg s q k := smGet_smSet_ne _ _ _ hq h
theorem getPart_setPart_same {s : State} (p : Nat) (x : Part) (h : smRising none s.parts = true) :
    getPart (setPart s p x) p = x := smGet_smSet_same _ _ _ _ h
theorem getPart_setPart_ne {s : State} {p q : Nat} (x : Part) (hq : q ≠ p) (h : smRising none s.parts = true) :
    getPart (setPart s p x) q = getPart s q := smGet_smSet_ne _ _ _ hq h
theorem getTile_setTile_same {s : State} (t : Nat) (x : Tile) (h : smRising none s.tiles = true) :
    getTile (setTile s t x) t = x := smGet_smSet_same _ _ _ _ h
theorem getTile_setTile_ne {s : State} {t u : Nat} (x : Tile) (hu : u ≠ t) (h : smRising none s.tiles = true) :
    getTile (setTile s t x) u = getTile s u := smGet_smSet_ne _ _ _ hu h
theorem getCnt_setCnt_same {s : State} (p i : Nat) (c : Counter) (h : smRising none s.cnt = true) :
    getCnt (setCnt s p i c) p i = c := smGet_smSet_same _ _ _ _ h
theorem getBlk_setBlk_same {s : State} (p : Nat) (b : Blk) (h : smRising none s.blks = true) :
    getBlk (setBlk s p b) p = b := smGet_smSet_same _ _ _ _ h
theorem getReady_setReady_same {s : State} (p : Nat) (b : Bool) (h : smRising none s.ready = true) :
    getReady (setReady s p b) p = b := smGet_smSet_same _ _ _ _ h
theorem getCtrl_setCtrl_same {s : State} (k : Nat) (c : Ctrl) (h : smRising none s.ctrls = true) :
    getCtrl (setCtrl s k c) k = c := smGet_smSet_same _ _ _ _ h
theorem lk_setLk_same {s : State} (n : Nat) (l : LinkSt) (h : smRising none s.links = true) : lk (setLk s n l) n = l :=
  smGet_smSet_same _ _ _ _ h
theorem syncObj_setSync_same {s : State} (n : Nat) (o : SyncObj) (h : smRising none s.sync = true) :
    syncObj (setSync s n o) n = o := smGet_smSet_same _ _ _ _ h

/-! The updates keep the canonical form. -/

theorem setPage_canon {s : State} (p : Nat) (x : Page) (h : s.canon = true) : (setPage s p x).canon = true := by
  rw [canon_iff] at h ⊢; obtain ⟨h1, h2, h3, h4⟩ := h; exact ⟨h1, h2, smWf_smSet _ _ h3, h4⟩
theorem setRg_canon {s : State} (p o : Nat) (v : Word) (h : s.canon = true) : (setRg s p o v).canon = true := by
  rw [canon_iff] at h ⊢; obtain ⟨h1, h2, h3⟩ := h; exact ⟨h1, smWf_smSet _ _ h2, h3⟩
theorem setBlk_canon {s : State} (p : Nat) (b : Blk) (h : s.canon = true) : (setBlk s p b).canon = true := by
  rw [canon_iff] at h ⊢; obtain ⟨h1, h2, h3, h4, h5⟩ := h; exact ⟨h1, h2, h3, smWf_smSet _ _ h4, h5⟩
theorem setReady_canon {s : State} (p : Nat) (b : Bool) (h : s.canon = true) : (setReady s p b).canon = true := by
  rw [canon_iff] at h ⊢; obtain ⟨h1, h2, h3, h4, h5, h6⟩ := h; exact ⟨h1, h2, h3, h4, smWf_smSet _ _ h5, h6⟩
theorem setCnt_canon {s : State} (p i : Nat) (c : Counter) (h : s.canon = true) : (setCnt s p i c).canon = true := by
  rw [canon_iff] at h ⊢; obtain ⟨h1, h2, h3, h4, h5, h6, h7⟩ := h; exact ⟨h1, h2, h3, h4, h5, smWf_smSet _ _ h6, h7⟩
theorem setPart_canon {s : State} (p : Nat) (x : Part) (h : s.canon = true) : (setPart s p x).canon = true := by
  rw [canon_iff] at h ⊢; obtain ⟨h1, h2, h3, h4, h5, h6, h7, h8⟩ := h
  exact ⟨h1, h2, h3, h4, h5, h6, smWf_smSet _ _ h7, h8⟩
theorem setTile_canon {s : State} (t : Nat) (x : Tile) (h : s.canon = true) : (setTile s t x).canon = true := by
  rw [canon_iff] at h ⊢; obtain ⟨h1, h2, h3, h4, h5, h6, h7, h8, h9⟩ := h
  exact ⟨h1, h2, h3, h4, h5, h6, h7, smWf_smSet _ _ h8, h9⟩
theorem setSync_canon {s : State} (n : Nat) (o : SyncObj) (h : s.canon = true) : (setSync s n o).canon = true := by
  rw [canon_iff] at h ⊢; obtain ⟨h1, h2, h3, h4, h5, h6, h7, h8, h9, h10⟩ := h
  exact ⟨h1, h2, h3, h4, h5, h6, h7, h8, smWf_smSet _ _ h9, h10⟩
theorem setCtrl_canon {s : State} (k : Nat) (c : Ctrl) (h : s.canon = true) : (setCtrl s k c).canon = true := by
  rw [canon_iff] at h ⊢; obtain ⟨h1, h2, h3, h4, h5, h6, h7, h8, h9, h10, h11, h12⟩ := h
  exact ⟨h1, h2, h3, h4, h5, h6, h7, h8, h9, h10, smWf_smSet _ _ h11, h12⟩
theorem setLk_canon {s : State} (n : Nat) (l : LinkSt) (h : s.canon = true) : (setLk s n l).canon = true := by
  rw [canon_iff] at h ⊢; obtain ⟨h1, h2, h3, h4, h5, h6, h7, h8, h9, h10, h11, h12, h13⟩ := h
  exact ⟨h1, h2, h3, h4, h5, h6, h7, h8, h9, h10, h11, smWf_smSet _ _ h12, h13⟩
theorem sendMsix_canon {s : State} (v : Nat) (h : s.canon = true) : (sendMsix s v).canon = true := h
theorem noteWrite_canon {s : State} (p : Nat) (h : s.canon = true) : (noteWrite s p).canon = true := setPage_canon _ _ h
theorem taken_canon {s : State} (p c : Nat) (a : Arg) (h : s.canon = true) : (taken s p c a).canon = true :=
  setPage_canon _ _ (noteWrite_canon _ h)
theorem postResult_canon {s : State} (p c e : Nat) (h : s.canon = true) : (postResult s p c e).canon = true :=
  setPage_canon _ _ h

/-! Memory keeps its form. -/

theorem memSetByte_wf {m : Mem} (a : Nat) (b : Byte) (h : m.wf = true) : (memSetByte m a b).wf = true := by
  simp only [Mem.wf, Bool.and_eq_true] at h ⊢
  exact ⟨smWf_smSet (d := memDflt m) a b h.1, h.2⟩

theorem memSetBytes_wf {m : Mem} (a : Nat) (l : List Byte) (h : m.wf = true) : (memSetBytes m a l).wf = true := by
  induction l generalizing m a with
  | nil => exact h
  | cons b l ih => exact ih _ (memSetByte_wf a b h)

theorem setPoison_wf {m : Mem} (a : Nat) (b : Bool) (h : m.wf = true) : (setPoison m a b).wf = true := by
  simp only [Mem.wf, Bool.and_eq_true] at h ⊢
  exact ⟨h.1, smWf_smSet (d := fun _ => false) a b h.2⟩

theorem memDflt_blank {m : Mem} {base size stamp a : Nat} (h : ¬(base ≤ a ∧ a < base + size)) :
    memDflt (memBlank m base size stamp) a = memDflt m a := by
  simp [memDflt, memBlank, h]

theorem memBlank_wf {m : Mem} (base size stamp : Nat) (h : m.wf = true) : (memBlank m base size stamp).wf = true := by
  simp only [Mem.wf, smWf, Bool.and_eq_true] at h ⊢
  obtain ⟨⟨h1, h2⟩, h3⟩ := h
  refine ⟨⟨smRising_filter _ h1, ?_⟩, h3⟩
  simp only [List.all_eq_true] at h2 ⊢
  intro x hx
  obtain ⟨hm, hx⟩ := List.mem_filter.mp hx
  have hx' : ¬(base ≤ x.1 ∧ x.1 < base + size) := by simp at hx; omega
  rw [memDflt_blank hx']
  exact h2 x hm

/-- A byte written reads back. -/
theorem memByte_memSetByte_same {m : Mem} (a : Nat) (b : Byte) (h : m.wf = true) : memByte (memSetByte m a b) a = b := by
  simp only [Mem.wf, Bool.and_eq_true] at h
  exact smGet_smSet_same _ _ _ _ (smWf_rising h.1)

/-- The other bytes read as before. -/
theorem memByte_memSetByte_ne {m : Mem} {a c : Nat} (b : Byte) (hc : c ≠ a) (h : m.wf = true) :
    memByte (memSetByte m a b) c = memByte m c := by
  simp only [Mem.wf, Bool.and_eq_true] at h
  exact smGet_smSet_ne _ _ _ hc (smWf_rising h.1)

/-! The gate of `BLK_CMD`. -/

theorem cmdBusy_noteWrite {s : State} (p : Nat) (h : smRising none s.pages = true) : cmdBusy (noteWrite s p) p = cmdBusy s p := by
  unfold cmdBusy isDone noteWrite
  rw [getPage_setPage_same _ _ h]

/-- A block takes new work or not whatever its page shows. -/
@[simp] theorem refusesWork_setPage (s : State) (p : Nat) (x : Page) (q : Nat) : refusesWork (setPage s p x) q = refusesWork s q := rfl
@[simp] theorem refusesWork_noteWrite (s : State) (p q : Nat) : refusesWork (noteWrite s p) q = refusesWork s q := rfl

/-- A command that is taken acts on the state `taken`. -/
theorem command_takes {s : State} {p code : Nat} {arg : Arg} {u : Bool} {refuse act : State → State}
    (h : takesCommand s p = true) : command s p code arg u refuse act = act (taken s p code arg) := by
  simp only [takesCommand, takesUnready, reachesPage, Bool.and_eq_true, Bool.not_eq_true'] at h
  obtain ⟨⟨⟨⟨⟨⟨hc, hs⟩, hd⟩, ho⟩, hw⟩, hn⟩, hr⟩ := h
  simp [command, hs, (cmdBusy_noteWrite p (canon_pages hc)).trans hd, ho, hw, hr, hn, taken]

/-- So does one that a page takes before it is READY. -/
theorem command_takes_unready {s : State} {p code : Nat} {arg : Arg} {refuse act : State → State}
    (h : takesUnready s p = true) : command s p code arg true refuse act = act (taken s p code arg) := by
  simp only [takesUnready, reachesPage, Bool.and_eq_true, Bool.not_eq_true'] at h
  obtain ⟨⟨⟨⟨⟨hc, hs⟩, hd⟩, ho⟩, hw⟩, hn⟩ := h
  simp [command, hs, (cmdBusy_noteWrite p (canon_pages hc)).trans hd, ho, hw, hn, taken]

/-- So does one that only ends work, on a block that takes no new work too. -/
theorem command_takes_ending {s : State} {p code : Nat} {arg : Arg} {u : Bool} {refuse act : State → State}
    (h : takesEnding s p = true) (he : endsWork code = true) :
    command s p code arg u refuse act = act (taken s p code arg) := by
  simp only [takesEnding, reachesPage, Bool.and_eq_true, Bool.not_eq_true'] at h
  obtain ⟨⟨⟨⟨⟨hc, hs⟩, hd⟩, ho⟩, hw⟩, hr⟩ := h
  simp [command, hs, (cmdBusy_noteWrite p (canon_pages hc)).trans hd, ho, hw, hr, he, taken]

/-- And on a page that is not READY, where the command may come before. -/
theorem command_reaches {s : State} {p code : Nat} {arg : Arg} {refuse act : State → State}
    (h : reachesPage s p = true) (he : endsWork code = true) :
    command s p code arg true refuse act = act (taken s p code arg) := by
  simp only [reachesPage, Bool.and_eq_true, Bool.not_eq_true'] at h
  obtain ⟨⟨⟨⟨hc, hs⟩, hd⟩, ho⟩, hw⟩ := h
  simp [command, hs, (cmdBusy_noteWrite p (canon_pages hc)).trans hd, ho, hw, he, taken]

theorem command0_takes {s : State} {p code : Nat} {refuse act : State → State} (h : takesCommand s p = true) :
    command0 s p code 0#24 refuse act = act (taken s p code 0#24) := by
  rw [command0, command_takes h]; simp

/-- An instruction that may issue acts on the state `issued`. -/
theorem issueStep_issues {s : State} {t stream acy opcode : Nat} {e : BitVec 128} {is unitOk : BitVec 128 → Bool}
    {unitFrom : BitVec 128 → Option Nat} {act : BitVec 128 → State → State}
    (h : mayIssueFrom s t stream acy e opcode (unitFrom e) = true)
    (hi : eOpcode e = opcode → is e = true) (hu : unitOk e = true) :
    issueStep s t stream (absAcy s t acy) is unitOk unitFrom act = .next (act e (issued s t stream acy e)) := by
  simp only [mayIssueFrom, Bool.and_eq_true, beq_iff_eq, Bool.not_eq_true'] at h
  obtain ⟨⟨⟨hf, hm⟩, ho⟩, hc⟩ := h
  simp [issueStep, hf, guarded, hm, hi ho, hu, hc, issued]

/-- So does one whose unit always accepts. -/
theorem issueFree_issues {s : State} {t stream acy opcode : Nat} {e : BitVec 128} {is : BitVec 128 → Bool}
    {act : BitVec 128 → State → State} (h : mayIssue s t stream acy e opcode = true) (hi : eOpcode e = opcode → is e = true) :
    issueFree s t stream (absAcy s t acy) is act = .next (act e (issued s t stream acy e)) :=
  issueStep_issues h hi rfl

/-- A lane or reduction instruction that may issue acts on the tile, and on the site that shadows it. -/
theorem skinkIssue_issues {s : State} {t acy opcode : Nat} {e : BitVec 128} {act : Nat → BitVec 128 → State → State}
    (h : mayIssue s t 3 acy e opcode = true) :
    skinkIssue t acy opcode act s = .next (skinkAct t (absAcy s t acy) opcode (act (absAcy s t acy) e) (issued s t 3 acy e)) :=
  issueFree_issues h (fun ho => by simp [ho])

/-- What the tile has executed stands: beside it only the site's copies change. -/
theorem twinStep_twin (u v : State) (t acy : Nat) (b : Bool) (act : State → State) :
    ∃ y, twinStep u v t acy b act = withTwin v t y := by
  cases h : samples v t
  · exact ⟨{}, by simp [twinStep, withTwin, h]⟩
  · cases b
    · exact ⟨twinOf (getTile (act (updTile u t (onTwin acy))) t), by simp [twinStep, withTwin, h]⟩
    · exact ⟨twinOf (getTile v t), by simp [twinStep, withTwin, h, updTile]⟩

/-- So it is for a lane or reduction instruction. -/
theorem skinkAct_twin (t acy opcode : Nat) (act : State → State) (u : State) :
    ∃ y, skinkAct t acy opcode act u =
      withTwin (act (tcount u t (if 0x40 ≤ opcode && opcode ≤ 0x45 then 0x49 else 0x48) 1)) t y := twinStep_twin ..

/-- A lane or reduction instruction that may issue leaves on the tile what it does there. -/
theorem skinkIssue_twin {s : State} {t acy opcode : Nat} {e : BitVec 128} {act : Nat → BitVec 128 → State → State}
    (h : mayIssue s t 3 acy e opcode = true) :
    ∃ y, skinkIssue t acy opcode act s = .next (withTwin (act (absAcy s t acy) e
      (tcount (issued s t 3 acy e) t (if 0x40 ≤ opcode && opcode ≤ 0x45 then 0x49 else 0x48) 1)) t y) :=
  (skinkAct_twin ..).imp (fun _ hy => (skinkIssue_issues h).trans (congrArg _ hy))

/-- Where the launch does not sample, nothing runs beside the tile. -/
theorem twinStep_off {u v : State} {t acy : Nat} {b : Bool} {act : State → State} (h : samples v t = false) :
    twinStep u v t acy b act = v := by simp [twinStep, h]

end Sys2Proof.Machine
end

