-- ==== Sys2Proof/Tests/Slice0.lean ====
section
/-! SUPPORT. The author's own tests: ill-formed commands refused, small steps with values taken from the spec, and a witness
for the hypotheses of every statement of Certificates/Slice0/Obligations.lean. -/

open Sys2Proof Sys2Proof.Machine

namespace Sys2Proof.Tests

set_option Elab.async false

/-! Small states. -/

/-- Firmware runs. -/
def fw : State := setRgF State.reset 0x010 0x40 2 0 3
/-- Firmware runs and a page is READY. -/
def on (p : Nat) : State := setReady fw p true
/-- An allocation at the base of tier F. -/
def alloc1 : Alloc := { part := 0, handle := 1, base := 0, size := 72 * 1024, tierS := false, sealed := false }
/-- A loaded image with nothing in it. -/
def img1 : Img :=
  { handle := 1, base := 0, size := 0, tiles := 0, group := false, modes := 4, relaxed := false, recOff := 0, recSize := 0,
    sched := [1, 1, 1], sigOff := 0, signed := false, digest := [], descs := [], loading := false }
def withImg (s : State) : State := updPart s 0 (fun x => { x with img := some img1 })
/-- A launch under way in segment 0. -/
def run1 : Run := { g := 0, mode := 2, segStart := 0, begun := true, replayMax := 0, dupN := 0, dupPhi := 0, committed := true }
def running (s : State) : State := updPart s 0 (fun x => { x with run := some run1 })
/-- Tile 0 of a running partition. -/
def tileIn (x : Tile) : State := setTile (running fw) 0 x
/-- Tile 0 of a running partition with one entry in a stream. -/
def strm (st : Nat) (e : BitVec 128) : State := tileIn (setStrm {} st { q := [e] })
/-- Link 0 up. -/
def linkUp : State := setLkState (on 0x50) 0 2
def role2 : State := setRgF (on 0x071) 0x071 0x40 1 0 2
def role1 : State := setRgF (on 0x071) 0x071 0x40 1 0 1
/-- The entry of a stream with an instruction word at OFFSET 0. -/
def ent (w : Nat) : BitVec 128 := BitVec.ofNat 128 w

/-! Ill-formed commands. -/
theorem wf_nop : Instr.wellFormed (.nop 0x84 0) = false := by decide
theorem wf_undefinedCommand : Instr.wellFormed (.undefinedCommand 4 0 0) = false ∧ Instr.wellFormed (.undefinedCommand 0x188 1 0) = false := by decide
theorem wf_pages : (Instr.enable 0x90 0).wellFormed = false ∧ (Instr.quiesce 0x90 0).wellFormed = false ∧
    (Instr.quiesceIdle 0x90).wellFormed = false ∧ (Instr.selftest 0x90 0).wellFormed = false ∧
    (Instr.pwrReq 0x90 0).wellFormed = false ∧ (Instr.powerDomainOn 0x90).wellFormed = false ∧
    (Instr.powerDomainOff 0x90).wellFormed = false ∧ (Instr.evtStickyClear 0x90 0 []).wellFormed = false ∧
    (Instr.counterClear 0x90 0 []).wellFormed = false ∧ (Instr.selftestEnd 0x90 true []).wellFormed = false ∧
    (Instr.blockReady 0x90 true []).wellFormed = false ∧ (Instr.upperWordWrite 0x90 0 0).wellFormed = false ∧
    (Instr.partialRegisterWrite 0x90 0).wellFormed = false ∧ (Instr.registerWrite 0x90 0 (.word 0)).wellFormed = false := by decide
theorem wf_faultCells : (Instr.selftestEnd 0x100 true [(65, 0)]).wellFormed = false ∧
    (Instr.blockReady 0x100 true [(0, 65)]).wellFormed = false ∧ (Instr.rotSelftestDone 0 true [(65, 65)]).wellFormed = false := by decide
theorem wf_offsets : (Instr.lowerWordRead 0 ⟨2, false, false⟩).wellFormed = false ∧ (Instr.lowerWordRead 0 ⟨4, false, true⟩).wellFormed = false ∧ (Instr.upperWordWrite 0 2 0).wellFormed = false ∧
    (Instr.partialRegisterWrite 0 2).wellFormed = false ∧ (Instr.registerWrite 0 2 (.word 0)).wellFormed = false ∧ (Instr.registerWrite 0 4 (.wide 0 0)).wellFormed = false ∧
    (Instr.syncObjectDefine 0 1 (.wide 0 0)).wellFormed = false ∧
    (Instr.siteMapStageWrite 0x42 0).wellFormed = false ∧ (Instr.hostMemRead 0 32 false [] []).wellFormed = false ∧
    (Instr.hostMemWrite 0 32 0 0 false).wellFormed = false := by decide
theorem wf_sites : (Instr.rngSeedWrite 136 none 0).wellFormed = false ∧ (Instr.skinkFirstClear 136 0).wellFormed = false ∧
    (Instr.arrayRepairWrite 136 0).wellFormed = false ∧ (Instr.dupVerdict 136 true).wellFormed = false := by decide
theorem wf_errorPatterns : (Instr.lineRead 0 0 0 [(80, 1)]).wellFormed = false ∧ (Instr.scrubLine 0 [(80, 1)]).wellFormed = false ∧
    (Instr.lineArrival 0 0 0 0 [[], [(80, 1)]] false []).wellFormed = false ∧ (Instr.hostMemRead 0 0 false [(80, 1)] []).wellFormed = false ∧
    (Instr.hostMemRead 0 0 false [] [(80, 1)]).wellFormed = false := by decide
theorem wf_streams : (Instr.scheduleFetch 0 5 0 []).wellFormed = false ∧ (Instr.epochPointMark 0 5 0).wellFormed = false ∧
    (Instr.contractViolation 0 5 0).wellFormed = false ∧ (Instr.hangDetected 0 5).wellFormed = false := by decide
theorem wf_cells : (Instr.arrayStep 0 65 0 0).wellFormed = false ∧ (Instr.arrayStep 0 0 65 0).wellFormed = false ∧
    (Instr.outlierStep 0 65 0 0).wellFormed = false ∧ (Instr.arraySwap 0 65 0).wellFormed = false := by decide
theorem wf_others : (Instr.bootRomDone 1).wellFormed = false ∧ (Instr.hostLinkUp 3 0 false).wellFormed = false ∧
    (Instr.hostLinkUp 0 3 false).wellFormed = false ∧ (Instr.sensorSample [(152, 0, true)]).wellFormed = false ∧
    (Instr.remapCopyDone 0 40 0 []).wellFormed = false ∧ (Instr.linkCodewordBad 0 []).wellFormed = false := by decide

/-! Witnesses: states and operands that meet the hypotheses of each statement, a line for each clause. -/

theorem w_StepRunsFront : ({ State.reset with pending := [.chorusRound] } : State).pending = .chorusRound :: [] := by decide
theorem w_IdleStepIsATick : State.reset.pending = [] ∧ State.reset.boot.hold = false ∧ State.reset.boot.perst = false := by decide
theorem w_FlashNeverWritten : ∃ t, step { State.reset with pending := [.perstAssert] } = .next t := ⟨_, rfl⟩
theorem w_CommandsLeaveTheQueue : ∃ t, exec .perstAssert State.reset = .next t := ⟨_, rfl⟩
theorem w_CanonicalFormKept : State.reset.canon = true ∧ ∃ t, step State.reset = .next t := ⟨by decide, _, rfl⟩
theorem w_TilesKeepTheirQuadrant : State.reset.sitesOk ∧ ∃ t, step State.reset = .next t := by
  refine ⟨fun t ht => ?_, _, rfl⟩
  have h : ∀ u, siteOf State.reset u = 34 * (u / 32) + u % 32 := fun _ => rfl
  simp only [h]
  refine ⟨by omega, fun u hu he => by omega⟩
theorem w_ResetValues : (0x100 : Nat) < 0x188 ∧ hasHeader 0x100 = true ∧ (15 : Nat) < 16 := by decide
theorem w_MemoryFrame : reachesMemory .chorusRound = false ∧ ∃ t, exec .chorusRound State.reset = .next t := ⟨by decide, _, rfl⟩
theorem w_NopAndUndefinedCodes : (on 4).canon = true ∧ pageServed (on 4) 4 = true ∧ cmdBusy (on 4) 4 = false ∧
    takesCommand (on 4) 4 = true ∧ (0xFF : Byte).toNat ∉ cmdDefined 4 ∧ (0xFF : Byte) ≠ 0 := by decide
theorem w_BusyPageIgnoresCommands : (postRunning (on 2) 2 0).canon = true ∧ hostCommand (.partReset 0) = some (2, 0x99) ∧
    pageServed (postRunning (on 2) 2 0) 2 = true ∧ isDone (postRunning (on 2) 2 0) 2 = false := by decide
theorem w_OutOfServiceRefusesCommands : (goOos (on 2)).canon = true ∧ pageServed (goOos (on 2)) 2 = true ∧
    cmdBusy (goOos (on 2)) 2 = false ∧ (goOos (on 2)).oos = true := by decide
theorem w_RegistersHoldWrites : State.reset.canon = true ∧ (1 : Nat) < 2 ^ (3 + 1 - 3) ∧ 0x40 + 1 ≠ 0x40 := by decide
theorem w_CountersCount : (getCnt State.reset 0 0).sat = false ∧ (getCnt State.reset 0 0).value.toNat + 1 < 2 ^ 48 - 1 ∧
    (getCnt (setCnt State.reset 0 0 { value := BitVec.ofNat 48 (2 ^ 48 - 1), sat := true }) 0 0).sat = true ∧
    (setCnt State.reset 0 0 { value := BitVec.ofNat 48 (2 ^ 48 - 1), sat := true }).canon = true ∧
    (getCnt (setCnt State.reset 0 0 { value := BitVec.ofNat 48 (2 ^ 48 - 2), sat := false }) 0 0).sat = false ∧
    2 ^ 48 - 1 ≤ (getCnt (setCnt State.reset 0 0 { value := BitVec.ofNat 48 (2 ^ 48 - 2), sat := false }) 0 0).value.toNat + 1 := by decide
theorem w_EventsLatch : (getPage State.reset 0).sticky = 0 ∧ (getPage (latch State.reset 0 0 5) 0).sticky ≠ 0 ∧
    (getPage (latch State.reset 0 0 5) 0).sticky.getLsbD 0 = true ∧ (latch State.reset 0 0 5).canon = true ∧
    (getPage (latch State.reset 0 5 5) 0).sticky.getLsbD 4 = false ∧
    (getPage (latch State.reset 0 5 5) 0).errAt = (latch State.reset 0 5 5).fcyc ∧
    4 < fld (getPage (latch State.reset 0 5 5) 0).errFirst 3 0 ∧
    (getPage ({ latch State.reset 0 5 5 with fcyc := 1 } : State) 0).errAt ≠ ({ latch State.reset 0 5 5 with fcyc := 1 } : State).fcyc := by decide
theorem w_PartitionResetClears : 0 < nParts State.reset ∧ (127 : Nat) < 128 ∧ partOf State.reset 127 = 0 := by decide
theorem w_cacheOk : State.reset.cacheOk := by
  intro k
  have h : getSet State.reset k = [] := rfl
  simp [h]
theorem w_MemoryHoldsWrites : State.reset.canon = true ∧ isLine State.reset 0 = true ∧ isLine State.reset 72 = true ∧
    (List.replicate 72 (1 : Byte)).length = 72 := by decide
theorem w_CacheLinesStayInTheirSets : (∃ t, exec (.lineRead 0 0 0 []) fw = .next t) ∧ (∃ t, exec (.lineWrite 0 0 0 1 none) fw = .next t) ∧
    (∃ t, exec (.hostMemRead 0 0 false [] []) fw = .next t) ∧ (∃ t, exec (.hostMemWrite 0 0 1 1 false) fw = .next t) :=
  ⟨⟨_, rfl⟩, ⟨_, rfl⟩, ⟨_, rfl⟩, ⟨_, rfl⟩⟩
theorem w_SiteMapApplied : takesCommand (on 4) 4 = true ∧ anyImage (on 4) = false ∧ mapOk (on 4) = true ∧
    mapOk (setRg (on 4) 4 0x40 0x22222222) = false ∧ takesCommand (setRg (on 4) 4 0x40 0x22222222) 4 = true ∧
    takesCommand (withImg (on 4)) 4 = true ∧ anyImage (withImg (on 4)) = true := by decide +kernel
theorem w_PartitionCommands : takesCommand (on 1) 1 = true ∧ (2 : Arg).toNat < 3 ∧ anyImage (on 1) = false ∧ (on 1).allocs = [] ∧
    role (on 1) = 0 ∧ 3 ≤ (3 : Arg).toNat ∧ takesCommand (withImg (on 1)) 1 = true ∧ anyImage (withImg (on 1)) = true ∧
    role (setRgF (on 1) 0x071 0x40 1 0 1) ≠ 0 ∧ takesCommand (setRgF (on 1) 0x071 0x40 1 0 1) 1 = true ∧
    takesEnding (on 2) 2 = true ∧ (0 : Arg).toNat < nParts (on 2) ∧ nParts (on 2) ≤ (1 : Arg).toNat ∧ 4 ≤ (4 : Arg).toNat := by decide

/-- A wide FP32 descriptor of one line, readable and writable, in allocation 1. -/
def desc1 : BitVec 1024 :=
  BitVec.ofNat 1024 (1 * 2 ^ 64 + (9 + 16 + 2 * 2 ^ 12) * 2 ^ 96 + 18 * 2 ^ (8 * 0x18) + 1 * 2 ^ (8 * 0x30))
/-- The same with its line at 72. -/
def desc2 : BitVec 1024 := desc1 ||| 72
/-- A descriptor staged on page 028h beside its allocation. -/
def staged : State :=
  { setRg (setRg (setRg (setRg (on 0x28) 0x28 0x48 1) 0x28 0x4C 0x2019) 0x28 0x58 18) 0x28 0x70 1 with allocs := [alloc1] }
def readyAll (l : List Nat) : State := l.foldl (fun s p => setReady s p true) fw

theorem w_DescriptorCommands : takesCommand staged 0x28 = true ∧ (5 : Arg).toNat < 2 ^ 20 ∧ 0 < nParts staged ∧
    (hasImage staged 0 && (getDesc staged 0 5).isSome) = false ∧
    validate (getDesc staged 0) (getAlloc staged 0) (descStage staged 0) = none ∧ hasImage staged 0 = false ∧
    isIndexOf staged 0 5 = false ∧ copyNames staged 0 5 = false ∧ getDesc (setDesc staged 0 5 desc1) 0 5 = some desc1 ∧
    takesCommand (setDesc staged 0 5 desc1) 0x28 = true := by decide +kernel

/-- Every tile of partition 0 and both tiers READY. -/
def allReady : State := readyAll (0x2C :: ((List.range 16).map (0x40 + ·) ++ (List.range 136).map (0x100 + ·)))
def loading : State :=
  postRunning { updPart (on 0x2C) 0 (fun x => { x with img := some { img1 with loading := true } }) with allocs := [alloc1] } 0x2C 0x20
theorem w_ImageCommands : takesCommand allReady 0x2C = true ∧ 0 < nParts allReady ∧ hasImage allReady 0 = false ∧
    partReady allReady 0 = true ∧ isRunning allReady 0 = false ∧ (getPart allReady 0).armed = none ∧
    (getPart loading 0).img = some { img1 with loading := true } ∧ cmdRuns loading 0x2C 0x20 = true ∧
    getAlloc loading 0 1 = some alloc1 := by decide +kernel

/-- A loaded image, its state register, and an allocation that a context fits into named by CTX_ALLOC. -/
def ctxState : State :=
  { setRg (setRg (withImg (on 0x2C)) 0x2C 0x44 2) 0x2C 0x4C 1 with allocs := [{ alloc1 with size := 2 ^ 36 }] }
theorem w_ContextCommands : takesCommand ctxState 0x2C = true ∧ 0 < nParts ctxState ∧
    launchBusy (taken ctxState 0x2C 0x22 0#24) 0 = false ∧ imgReady (taken ctxState 0x2C 0x22 0#24) 0 = true ∧
    getAlloc (taken ctxState 0x2C 0x22 0#24) 0 (ctxHandle (taken ctxState 0x2C 0x22 0#24) 0) = some { alloc1 with size := 2 ^ 36 } ∧
    ctxSize (taken ctxState 0x2C 0x22 0#24) 0 ≤ 2 ^ 36 ∧
    launchBusy (taken ctxState 0x2C 0x23 0#24) 0 = false ∧ imgReady (taken ctxState 0x2C 0x23 0#24) 0 = true ∧
    (getPart (updPart ctxState 0 (fun x => { x with saving := some 1 })) 0).saving = some 1 ∧
    getAlloc (updPart ctxState 0 (fun x => { x with saving := some 1 })) 0 1 = some { alloc1 with size := 2 ^ 36 } ∧
    (getPart (updPart ctxState 0 (fun x => { x with restoring := some 1 })) 0).restoring = some 1 := by decide +kernel

/-- An allocation request staged on page 024h. -/
def asking : State :=
  setRg (setRg (readyAll (0x24 :: (List.range 16).map (0x40 + ·))) 0x24 0x40 1) 0x24 0x50 72
def zeroing : State := { updPart fw 0 (fun x => { x with zeroing := some 1 }) with allocs := [alloc1] }
theorem w_AllocationCommands : takesCommand asking 0x24 = true ∧ tierReady asking (allocTierS asking 0) = true ∧
    allocCheck asking 0 = none ∧ takesCommand { asking with allocs := [alloc1] } 0x24 = true ∧
    getAlloc { asking with allocs := [alloc1] } 0 (allocHandle { asking with allocs := [alloc1] } 0) = some alloc1 ∧
    alloc1.sealed = false ∧ allocNamed { asking with allocs := [alloc1] } 0 1 = false ∧ alloc1.base < 2 ^ 64 ∧
    zeroing.canon = true ∧ (getPart zeroing 0).zeroing = some 1 ∧ getAlloc zeroing 0 1 = some alloc1 := by decide +kernel

/-- A row record of controller 0 staged: row 5 of channel 0 to a spare row. -/
def remapRec : DWord := BitVec.ofNat 64 (2 ^ 63 + 5 + 2 ^ 36)
def remapping : State := setRg (setRg (on 0x40) 0x40 0x60 (BitVec.ofNat 32 remapRec.toNat)) 0x40 0x64 (BitVec.ofNat 32 (remapRec.toNat / 2 ^ 32))
theorem w_RemapCommands : takesCommand remapping 0x40 = true ∧ remapRec.toNat = rg64 (taken remapping 0x40 0x40 0#24) 0x40 0x60 ∧
    remapCheck (taken remapping 0x40 0x40 0#24) 0 remapRec = none ∧ (0 : Arg).toNat < 65536 ∧
    (remaps (getCtrl (setCtrl remapping 0 { field := [remapRec] }) 0))[(0 : Arg).toNat]? = some remapRec ∧
    takesCommand (setCtrl remapping 0 { field := [remapRec] }) 0x40 = true ∧
    (getCtrl (setCtrl remapping 0 { copies := [2 ^ 24 + 7] }) 0).copies.contains ((1 : BitVec 6).toNat * 2 ^ 24 + (7 : BitVec 24).toNat) = true := by
  decide +kernel

theorem w_ControllerSteps : takesCommand (on 0x30) 0x30 = true ∧
    (getBlk (setBlk (on 0x30) 0x30 { cleaning := true }) 0x30).cleaning = true ∧
    isPoison State.reset.mem (scrubAddr 0 0) = false ∧
    isPoison ({ poison := [(scrubAddr 0 0, true)] } : Mem) (scrubAddr 0 0) = true ∧
    8 * ((getCtrl State.reset 0).scrub + 1) + (0 : CtrlIx).toNat % 8 < tierLines State.reset (decide (8 ≤ (0 : CtrlIx).toNat)) ∧
    tierLines State.reset false ≤ 8 * ((getCtrl (setCtrl State.reset 7 { scrub := 2 ^ 40 }) 7).scrub + 1) + 7 % 8 ∧
    (7 : CtrlIx).toNat < 8 ∧ 105 ≤ (105 : Byte).toNat ∧ 8 ≤ (15 : CtrlIx).toNat ∧ State.reset.flash.part ≠ 0 ∧
    rgF State.reset (0x40 + 15) 0x40 31 24 < (105 : Byte).toNat := by decide +kernel

/-- Control flits that a link with nothing received sends, and one of them with a wrong CRC. -/
def ctlFlit (kind : Nat) (body : BitVec 160) : BitVec 256 := controlBody {} kind 0 body
def wrongFlit : BitVec 256 := ctlFlit 0 0 ^^^ 2 ^ 255
/-- A codeword of zeros on the lanes with its last 16 symbols changed: those of lanes 0 to 6 and lane 7. -/
def wrongLanes (a b : Nat) : List (BitVec 680) := List.replicate 7 (BitVec.ofNat 680 (a * 2 ^ 660)) ++ [BitVec.ofNat 680 (b * 2 ^ 660)]
theorem w_FlitsReceived : lkUp linkUp 0 = true ∧ [0, 2, 4].all (fun k => flitGood (lk (count1 linkUp 0x50 1) 0) (ctlFlit k 0) && fKind (ctlFlit k 0) == k) = true ∧
    flitGood (lk linkUp 0) wrongFlit = false ∧ flitGood (lk (count1 linkUp 0x50 1) 0) wrongFlit = false ∧
    lkUp (count1 (count1 linkUp 0x50 1) 0x50 6) 0 = true ∧
    retryRuns (goodCtl linkUp 0 (ctlFlit 2 0)) 0 (ctlFlit 2 0) < 8 ∧
    8 ≤ retryRuns (goodCtl (setLk linkUp 0 { retryAck := some 4096, retryRun := 7 }) 0 (ctlFlit 2 0)) 0 (ctlFlit 2 0) ∧
    lkUp (count1 linkUp 0x50 5) 0 = true := by decide +kernel
theorem w_codewords : [(0, 0), (0, 1024), (1025, 1025)].map (fun (e : Nat × Nat) =>
      match flitsOfLanes (wrongLanes e.1 e.2) with | some (k, _) => k | none => 16) = [0, 1, 16] := by decide +kernel

/-- A header of a packet for tile 0 of a device, with 3 data flits of zeros, and the IDLE flit that verifies them. -/
def dataHead (dest seq : Nat) : BitVec 256 := controlBody {} 1 seq (BitVec.ofNat 160 (dest + 3 * 2 ^ 32 + 1 * 2 ^ 40))
def dataNext : BitVec 256 := controlBody { txData := [0, 0, 0] } 0 0 0
def queued : State := setLk linkUp 0 { dataQ := [{ data := true, body := 0 }] }
def headTaken (f : BitVec 256) : State := recvData (goodCtl (count1 linkUp 0x50 1) 0 f) 0 [0, 0, 0]
def headDue (f : BitVec 256) : State := setLk (headTaken f) 0 { lk (headTaken f) 0 with ackDue := true }
theorem w_DataPackets : lkUp queued 0 = true ∧ (lk queued 0).dataQ = [{ data := true, body := 0 }] ∧ (lk queued 0).syncQ = [] ∧
    flitsOf ([] : List Byte) ≤ (lk queued 0).credits ∧ (lk queued 0).unacked.length < 2048 ∧
    [dataHead 0 0, dataHead 5 0, dataHead 0 1].all (fun f => flitGood (lk (count1 linkUp 0x50 1) 0) f && fKind f == 1 &&
      fB f 12 1 == 3 && flitGood (lk (headTaken f) 0) dataNext && !flitGood (lk (headTaken f) 0) (ctlFlit 0 0)) = true ∧
    fSeq (dataHead 0 0) = (lk (headDue (dataHead 0 0)) 0).rxNext ∧ fSeq (dataHead 5 0) = (lk (headDue (dataHead 5 0)) 0).rxNext ∧
    fSeq (dataHead 0 1) ≠ (lk (headDue (dataHead 0 1)) 0).rxNext ∧
    bB (fBody (dataHead 0 0)) 8 2 = devNum (accepted (headDue (dataHead 0 0)) 0) ∧
    bB (fBody (dataHead 5 0)) 8 2 ≠ devNum (accepted (headDue (dataHead 5 0)) 0) := by decide +kernel

/-- Link 0 in training towards a declared neighbour of device 7, chip identity 9, and that neighbour's TRAIN flit. -/
def declared : State := setRg64 (setRg (setLkState (on 0x50) 0 1) 0x50 0x48 0x80000007) 0x50 0x4C 9
def trainOf (dev flags : Nat) : BitVec 256 := ctlFlit 5 (BitVec.ofNat 160 (dev + 9 * 2 ^ 16 + flags * 2 ^ 80))
def trainTaken (s : State) (f : BitVec 256) : State := goodCtl (count1 (setLk s 0 { lk s 0 with locked := true }) 0x50 1) 0 f
def trainAnswered (f : BitVec 256) : State :=
  sendTrain (setLk (trainSeen (trainTaken declared f) 0 f) 0 { lk (trainSeen (trainTaken declared f) 0 f) 0 with ownMatch := true }) 0
theorem w_LinkTraining : lkUp linkUp 0 = true ∧ rgF linkUp (lkPage 0) 0x44 2 2 = 0 ∧ (lk linkUp 0).rxMove = none ∧
    (setLk linkUp 0 { rxMove := some (3, 900) }).canon = true ∧ (lk (setLk linkUp 0 { rxMove := some (3, 900) }) 0).rxMove = some (3, 900) ∧
    (lk (setLk linkUp 0 { rxMove := some (3, 900) }) 0).txMove = none ∧
    takesUnready fw (lkPage 0) = true ∧ lkUp fw 0 = false ∧ reachesPage linkUp (lkPage 0) = true ∧ lkState linkUp 0 ≠ 0 ∧
    lkState (postRunning declared 0x50 0x60) 0 = 1 ∧ cmdRuns (postRunning declared 0x50 0x60) (lkPage 0) 0x60 = true ∧ lkState linkUp 0 = 2 ∧
    aclkOn declared = true ∧ [trainOf 7 1, trainOf 7 3, trainOf 8 3].all (fun f => fKind f == 5 &&
      [declared, linkUp, setLkState (on 0x50) 0 1].all (fun s => flitGood (lk (count1 (setLk s 0 { lk s 0 with locked := true }) 0x50 1) 0) f)) = true ∧
    lkState (trainTaken linkUp (trainOf 7 3)) 0 = 2 ∧ lkState (trainTaken declared (trainOf 7 3)) 0 = 1 ∧
    rgF (trainSeen (trainTaken (setLkState (on 0x50) 0 1) (trainOf 7 3)) 0 (trainOf 7 3)) (lkPage 0) 0x48 31 31 = 0 ∧
    rgF (trainSeen (trainTaken declared (trainOf 7 3)) 0 (trainOf 7 3)) (lkPage 0) 0x48 31 31 = 1 ∧
    trainMatches (trainSeen (trainTaken declared (trainOf 7 3)) 0 (trainOf 7 3)) 0 (trainOf 7 3) = true ∧
    (lk (trainAnswered (trainOf 7 3)) 0).farMatch = true ∧ (lk (trainAnswered (trainOf 7 1)) 0).farMatch = false ∧
    trainMatches (trainSeen (trainTaken declared (trainOf 8 3)) 0 (trainOf 8 3)) 0 (trainOf 8 3) = false := by decide +kernel

/-- A worker of the timing tree whose parent, link 0, is up with its delay known and its far end at depth 2. -/
def timed : State := setLk (setRg (setLkState (on 0x70) 0 2) 0x50 0x54 0x80000005) 0 { farDepth := 0x82 }
theorem w_TimeAndChorusCommands : takesCommand timed 0x070 = true ∧ anyImage (taken timed 0x070 0x68 0#24) = false ∧
    timeRoot (taken timed 0x070 0x68 0#24) = false ∧
    linkDelay (taken timed 0x070 0x68 0#24) (parentLink timed) = some 5 ∧ lkUp (taken timed 0x070 0x68 0#24) (parentLink timed) = true ∧
    bit (lk (taken timed 0x070 0x68 0#24) (parentLink timed)).farDepth 7 = true ∧
    (lk (taken timed 0x070 0x68 0#24) (parentLink timed)).farDepth % 16 < 7 ∧
    takesCommand role2 0x071 = true ∧ role role2 = 2 ∧ anyImage role2 = false ∧
    (updChorus role2 (fun c => { c with openChk := some 3 })).chorus.openChk = some 3 ∧
    takesEnding role2 0x071 = true ∧
    takesEnding (updChorus role2 (fun c => { c with openChk := some 3 })) 0x071 = true := by decide +kernel

/-- A manager that drives the bus. -/
def driving : State := setRgF role2 0x071 0x04C 0 0 1
def announcing : State := updChorus driving (fun c => { c with ann := some (1, 0, 9), copies := 3 })
theorem w_ChorusRounds : drivesBus driving = true ∧ warmActive (updChorus (count1 driving 0x071 0) (fun c => { c with rounds := c.rounds + 1 })) = false ∧
    (updChorus (count1 driving 0x071 0) (fun c => { c with rounds := c.rounds + 1 })).oos = false ∧
    (updChorus (count1 announcing 0x071 0) (fun c => { c with rounds := c.rounds + 1 })).oos = false ∧
    driving.chorus.ann = none ∧ drivesBus announcing = true ∧ announcing.chorus.ann = some (1, 0, 9) ∧ 0 < announcing.chorus.copies ∧
    announcing.chorus.annFrom ≤ now (updChorus (count1 announcing 0x071 0) (fun c => { c with rounds := c.rounds + 1 })) ∧
    announcing.chorus.openChk = none := by decide +kernel

/-- A worker locked to the bus, waiting at check 0. -/
def waitingRun : Run := { run1 with waiting := some 0, answer := 2 }
def worker : State := setRgF (updPart role1 0 (fun x => { x with img := some { img1 with group := true }, run := some waitingRun })) 0x071 0x04C 1 1 1
theorem w_WorkerWords : role role1 = 1 ∧ goodWord (mkWord 0 0 0) = true ∧ goodWord 0 = false ∧ onBus worker = true ∧
    waitsAt worker 0 = some waitingRun ∧ now (count1 worker 0x071 2) < resumeCount worker 1000 ∧
    resumeCount worker 1000 ≤ expectedAt (count1 worker 0x071 2) 0 waitingRun + 2048 ∧
    now (count1 (setRgF worker 0x071 0x04C 11 8 4) 0x071 2) < resumeCount worker 1000 ∧
    resumeCount worker 1000 ≤ expectedAt (count1 (setRgF worker 0x071 0x04C 11 8 4) 0x071 2) 0 waitingRun + 2048 := by decide +kernel

/-- A manager with slots 1 and 2 in its roster. -/
def rosterOf : State := setRg driving 0x071 0x44 6
def checking (f : Chorus → Chorus) : State := updChorus rosterOf (fun c => f { c with openChk := some 0 })
theorem w_ChorusSlots : rosterOf.canon = true ∧ drivesBus rosterOf = true ∧ rosterOf.chorus.openChk = none ∧ (1 : BitVec 4).toNat ≠ 0 ∧
    inRoster rosterOf 1 = true ∧ (checking id).chorus.openChk = some 0 ∧ inRoster (checking id) 1 = true ∧
    inRoster (checking id) 2 = true ∧ 2 ∉ (checking id).chorus.counted ∧ 16 ≤ missingRun (setMissing (checking id) 1 16) 1 ∧
    missingRun (setMissing (checking id) 1 16) 1 < reportedRun ∧
    65 ≤ (checking (fun c => { c with lowRounds := 65 })).chorus.lowRounds := by decide +kernel

/-- Object 0 of one type and value, named by `SYNC_SEL`. -/
def objOf (type : Word) (v : DWord) : State := setSync (on 0x72) 0 { ctl := type, value := v, limit := 10 }
theorem w_HostSyncOperations : takesCommand (objOf 2 1) 0x072 = true ∧ rgF (objOf 2 1) 0x072 0x040 15 0 = 0 ∧
    oScope (syncObj (objOf 2 1) 0) = 0 ∧ (objOf 2 1).hif.binds = [] ∧ (getCnt (objOf 2 1) 0x072 0).sat = false ∧
    (getCnt (objOf 2 1) 0x072 0).value.toNat < 2 ^ 48 - 2 ∧ (0 : DWord).toNat = rg64 (objOf 2 1) 0x072 0x044 ∧
    oType (syncObj (objOf 1 0) 0) = 1 ∧ oType (syncObj (objOf 2 1) 0) = 2 ∧ oType (syncObj (objOf 3 1) 0) = 3 ∧
    1 ≤ (syncObj (objOf 2 1) 0).value.toNat ∧ (syncObj (objOf 2 0) 0).value = 0 := by decide +kernel

/-- A SYNC_OP entry on object 0; wait-until-at-least 0 is satisfied, wait-until-set is not. -/
def syncEnt (op : Nat) : BitVec 128 := ent (9 + op * 2 ^ 24)
theorem w_TileSyncOperations : mayIssue (strm 4 (syncEnt 1)) 0 4 0 (syncEnt 1) 9 = true ∧ wOp (eWord (syncEnt 1)) = 1 ∧
    mayIssue (strm 4 (syncEnt 2)) 0 4 0 (syncEnt 2) 9 = true ∧ mayIssue (strm 4 (syncEnt 3)) 0 4 0 (syncEnt 3) 9 = true ∧
    mayIssueFrom (strm 4 (syncEnt 4)) 0 4 0 (syncEnt 4) 9 none = true ∧ waitOk (strm 4 (syncEnt 4)) 0 4 (syncEnt 4) = true ∧
    mayIssueFrom (strm 4 (syncEnt 6)) 0 4 0 (syncEnt 6) 9 none = true ∧ waitOk (strm 4 (syncEnt 6)) 0 6 (syncEnt 6) = true ∧
    mayIssueFrom (setSync (strm 4 (syncEnt 5)) 0 { ctl := 0xB, value := 1 }) 0 4 0 (syncEnt 5) 9 none = true ∧
    waitOk (setSync (strm 4 (syncEnt 5)) 0 { ctl := 0xB, value := 1 }) 0 5 (syncEnt 5) = true ∧
    mayIssueFrom (setSync (strm 4 (syncEnt 5)) 0 { ctl := 0xB }) 0 4 0 (syncEnt 5) 9 none = true ∧
    waitOk (setSync (strm 4 (syncEnt 5)) 0 { ctl := 0xB }) 0 5 (syncEnt 5) = false ∧
    oScope (syncObj (setSync (strm 4 (syncEnt 5)) 0 { ctl := 0xB }) (wObj (eWord (syncEnt 5)))) ≠ 0 := by decide +kernel

/-- SYNC flits of each message, with object operation 1, and a group or system manager that receives them. -/
def syncFlit (msg dest seq : Nat) : BitVec 256 := controlBody {} 3 seq (BitVec.ofNat 160 (msg + (if msg = 0 then 2 ^ 8 else 0) + dest * 2 ^ 16))
def manager : State := setRg (setRgF (setReady linkUp 0x071 true) 0x071 0x40 1 0 2) 0x071 0x05C 0x80000000
/-- A system manager whose object 0 is a GROUP COUNTER at home here. -/
def grouped : State := setSync (setRg manager 0x073 0xC0 1) 0 { ctl := 9 }
def syncDue (f : BitVec 256) : State :=
  setLk (goodCtl (count1 grouped 0x50 1) 0 f) 0 { lk (goodCtl (count1 grouped 0x50 1) 0 f) 0 with ackDue := true }
def syncIn (f : BitVec 256) : State := accepted (syncDue f) 0
theorem w_SyncMessages : lkUp grouped 0 = true ∧ [0, 1, 2, 3, 4].all (fun m => [(0, 0), (5, 0), (0, 1)].all (fun (e : Nat × Nat) =>
      let f := syncFlit m e.1 e.2
      fKind f == 3 && flitGood (lk (count1 grouped 0x50 1) 0) f && bB (fBody f) 8 1 % 16 == m &&
      (fSeq f == (lk (syncDue f) 0).rxNext) == (e.2 == 0) && (bB (fBody f) 10 2 == devNum (syncIn f)) == (e.1 == 0))) = true ∧
    isHome (syncIn (syncFlit 0 0 0)) (syncObj (syncIn (syncFlit 0 0 0)) (bB (fBody (syncFlit 0 0 0)) 14 2)) = true ∧
    opAllowed (oType (syncObj (syncIn (syncFlit 0 0 0)) (bB (fBody (syncFlit 0 0 0)) 14 2))) (bB (fBody (syncFlit 0 0 0)) 9 1) = true ∧
    oType (syncObj (syncIn (syncFlit 1 0 0)) 0) ≠ 0 ∧ oScope (syncObj (syncIn (syncFlit 1 0 0)) 0) ≠ 2 ∧
    isSysMgr (syncIn (syncFlit 2 0 0)) = true ∧
    (groups (syncIn (syncFlit 2 0 0))).find? (fun k => groupMgr (syncIn (syncFlit 2 0 0)) k == bB (fBody (syncFlit 2 0 0)) 12 2) = some 0 ∧
    role (syncIn (syncFlit 3 0 0)) = 2 := by decide +kernel

/-- Partition 0 with a copy queue of 16 entries that runs, and an entry in it; a copy of descriptor 5's line to descriptor 6,
a fetch of one line into descriptor 5, and an entry with nothing in it, which fails. -/
def queueUp : State :=
  setRg (setRg (setDesc (setDesc (setReady (on 0x21) 0x20 true) 0 5 desc1) 0 6 desc2) 0x021 (cq 0 0x08) 4) 0x021 (cq 0 0x0C) 1
def copyE : BitVec 512 := BitVec.ofNat 512 (1 + 5 * 2 ^ 64 + 6 * 2 ^ 96)
def fetchE : BitVec 512 := BitVec.ofNat 512 (2 + 5 * 2 ^ 96 + 1 * 2 ^ 256)
theorem w_CopyQueues : takesCommand queueUp 0x021 = true ∧ (getPart queueUp 0).cqBusy = none ∧ hostServed queueUp = true ∧
    (getPage queueUp 0x07C).held = none ∧ (15 : Word).toNat < cqSize queueUp 0 ∧ cqSize queueUp 0 ≤ (16 : Word).toNat ∧
    queueRuns queueUp 0 = true ∧
    copyCheck (count1 queueUp 0x020 5) 0 (leBytes 64 (0 : BitVec 512).toNat) = some (1, rUNSUP) ∧
    isFetch (leBytes 64 (0 : BitVec 512).toNat) = false ∧
    copyCheck (count1 queueUp 0x020 5) 0 (leBytes 64 copyE.toNat) = none ∧ isFetch (leBytes 64 copyE.toNat) = false ∧
    copyCheck (count1 queueUp 0x020 5) 0 (leBytes 64 fetchE.toNat) = none ∧ isFetch (leBytes 64 fetchE.toNat) = true ∧
    (copyCheck (count1 queueUp 0x020 5) 0 (leBytes 64 (fetchE + 2 ^ 97).toNat)).isSome = true ∧
    isFetch (leBytes 64 (fetchE + 2 ^ 97).toNat) = true ∧
    (getPart (updPart queueUp 0 (fun x => { x with cqBusy := some (leBytes 64 copyE.toNat) })) 0).cqBusy = some (leBytes 64 copyE.toNat) := by
  decide +kernel

/-- A binding on COUNTER object 0: wait-until-at-least 0. -/
def binding : State := setRg (setReady (objOf 1 0) 0x22 true) 0x022 0x40 0x40000
theorem w_BindingsAndDefinitions : takesCommand binding 0x022 = true ∧ (1983 : Arg).toNat < 1984 ∧
    (0 = rgF binding 0x022 0x40 15 0 ∧ 4 = rgF binding 0x022 0x40 19 16 ∧ (0 : DWord).toNat = rg64 binding 0x022 0x44 ∧
      oType (syncObj binding 0) ≠ 0) ∧
    fw.canon = true ∧ fwRunning fw = true ∧ hostServed fw = true ∧ hasImage fw (oPart (syncObj fw 0)) = false ∧ fld (4 : Word) 4 3 = 0 ∧ fld (4 : Word) 2 0 ≤ 4 ∧
    hasImage fw (fld (4 : Word) 6 5) = false ∧ oScope (syncObj fw 0) = 0 ∧ oType (syncObj fw 0) ≤ 4 := by decide +kernel

theorem w_MemoryAccesses : hdmInside fw 0 0 = true ∧ fwRunning fw = true ∧ hostServed fw = true ∧ aclkOn fw = true ∧
    (hostReads ((touched fw (hdmAddr 0 0)).zip [[], []]) fw).2.1 = false ∧ hdmInside fw 0 (2 ^ 52 - 1) = false ∧
    ({ fw with hif := { fw.hif with snoops := [72] } } : State).hif.snoops.contains 72 = true ∧ isLine fw 72 = true ∧ fw.canon = true ∧
    fw.fi.left = 0 ∧ isPoison fw.mem 72 = false ∧ (∃ u, exec (.lineRead 72 0 0 []) fw = .next u) ∧ 71 < 72 :=
  ⟨by decide, by decide, by decide, by decide, by decide +kernel, by decide, by decide, by decide, by decide, by decide, by decide, ⟨_, rfl⟩, by decide⟩

/-- A warm reset under way, begun by a command. -/
def warm : State := warmBegin (on 2) 3
/-- A warm reset whose held firmware is intact. -/
def warmHeld : State := setFwDigest { warm with hif := { warm.hif with fw := [1] } } (sha256 [1])
theorem w_ResetsFromOutside : ({ State.reset with boot := { hold := true } } : State).boot.hold = true ∧ State.reset.boot.perst = false ∧
    ({ State.reset with boot := { perst := true } } : State).boot.perst = true ∧ State.reset.boot.hold = false ∧
    hostServed fw = true ∧ warmActive warm = true ∧ warmActive (raiseOpen (latch fw 1 0 0) 0x001 0) = false ∧ hostServed (latch fw 1 0 0) = true ∧ warmActive fw = false ∧
    warmActive (raiseOpen fw 0x001 0) = true ∧ takesEnding (on 2) 0x002 = true ∧
    warmActive warmHeld = true ∧ fwHeld warmHeld = true ∧
    rgF warmHeld 0x002 0x4C 5 5 = 0 ∧ aclkOn warmHeld = true ∧ (flushCache warmHeld).fc.warmPll = false ∧
    (setRgF (readyAgain (flushCache warmHeld)) 0x002 0x4C 0 0 0).fc.escalate = false := by decide +kernel

/-- Right after a start with PERST# high, before the boot ROM. -/
def opening : State := { fw with hif := { fw.hif with fwLen := some 4096 }, regs := [] }
theorem w_StartUp : State.reset.boot.hold = false ∧ State.reset.boot.perst = false ∧ getReady State.reset 0x10 = false ∧
    State.reset.flash.ok = true ∧ State.reset.canon = true ∧ doeServed State.reset = true ∧
    (getReady (setReady State.reset 0x10 true) 0x10 = true ∧ State.reset.oos = false ∧ fwRunning State.reset = false ∧
      State.reset.hif.fwLen = none ∧ fwLengthOk (4096 : Word).toNat = true) ∧
    opening.hif.fwLen = some 4096 ∧ (0 : Word).toNat = opening.hif.fwBytes.length ∧ ([1] : List Byte).length ≤ 2 ^ 18 ∧ opening.canon = true ∧
    fwGood 4096 opening.hif.fwBytes = false ∧
    [0x24, 0x30, 0x40, 0x80, 0x100].all (fun p => startsUp p && (getBlk fw p).pwrOn && !getReady fw p &&
      (getBlk fw p).testPage.isNone && !(getBlk fw p).failed && !isRetiredPage fw p) = true ∧ fwRunning fw = true ∧
    [0x24, 0x30, 0x40, 0x80, 0x100].map hasTest = [false, true, true, true, true] ∧ isTilePage 0x100 = true ∧ isCtrlPage 0x40 = true ∧
    isTilePage 0x30 = false ∧ isCtrlPage 0x30 = false ∧ warmActive fw = false ∧ rgF (setRgF fw 0x020 0x40 8 8 1) 0x020 0x40 8 8 = 1 ∧
    rgF (setRgF fw 0x020 0x40 7 7 1) 0x020 0x40 7 7 = 1 := by decide +kernel

theorem w_TestPorts : (∀ s ∈ [setRgF (setReady { State.reset with boot := { testEn := true } } 0x10 true) 0x011 0x40 1 1 1,
      { State.reset with boot := { testEn := true }, hif := { challenge := some [1] } }],
      doeServed s = true ∧ s.boot.testEn = true ∧ fwRunning s = false) ∧
    getReady (setRgF (setReady { State.reset with boot := { testEn := true } } 0x10 true) 0x011 0x40 1 1 1) 0x10 = true ∧
    trngOk (setRgF (setReady { State.reset with boot := { testEn := true } } 0x10 true) 0x011 0x40 1 1 1) = true ∧
    ({ State.reset with boot := { testEn := true }, hif := { challenge := some [1] } } : State).hif.challenge = some [1] ∧
    State.reset.boot.hold = false ∧ (4 : Byte).toNat ≤ 4 ∧ 0x40 ≤ (0x44 : Byte).toNat ∧ (0x44 : Byte).toNat ≤ 0x44 ∧
    4 < (5 : Byte).toNat ∧ ((5 : Byte).toNat < 0x40 ∨ 0x44 < (5 : Byte).toNat) := by decide +kernel

/-- A device that attests, in a state of its sessions; and a staged image key, the base point of the curve. -/
def attests (c : Sec) : State := { setRgF (setReady State.reset 0x10 true) 0x011 0x40 1 1 1 with sec := c }
def keyStaged : State := [(0x50, 0xF2D1176B), (0x54, 0x47422CE1), (0x58, 0xE5E6BCF8), (0x5C, 0xF240A463), (0x60, 0x817D0377), (0x64, 0xA033EB2D), (0x68, 0x4539A1F4), (0x6C, 0x96C298D8), (0x70, 0xE242E34F), (0x74, 0x9B7F1AFE), (0x78, 0x4AEBE78E), (0x7C, 0x169E0F7C), (0x80, 0x5733CE2B), (0x84, 0xCE5E316B), (0x88, 0x6840B6CB), (0x8C, 0xF551BF37)].foldl (fun s (w : Nat × Word) => setRg s 0x011 w.1 w.2) (on 0x10)
theorem w_SecurityCommands : (∀ c ∈ [({ spdm := 3 } : Sec), { spdm := 3, sessions := [7, 1, 2, 3] }, { spdm := 3, opening := [7] }],
      doeServed (attests c) = true ∧ getReady (attests c) 0x10 = true ∧ warmActive (count1 (attests c) 0x011 0) = false ∧
      (count1 (attests c) 0x011 0).sec = c ∧ trngOk (count1 (attests c) 0x011 0) = true) ∧
    takesCommand keyStaged 0x011 = true ∧ keyLocked keyStaged = false ∧ anyImage keyStaged = false ∧ onCurve (stagedKey keyStaged) = true ∧
    takesCommand (setRgF keyStaged 0x011 0x44 1 1 1) 0x011 = true ∧ keyLocked (setRgF keyStaged 0x011 0x44 1 1 1) = true := by decide +kernel

/-- An image of 128 tiles that uses every tile. -/
def used : State := updPart fw 0 (fun x => { x with img := some { img1 with tiles := 128 } })
theorem w_BlockControl : hostCommand (.partReset 0) = some (2, 0x99) ∧ (setPage (on 2) 2 { run := some 0x99 }).canon = true ∧
    (getPage (setPage (on 2) 2 { run := some 0x99 }) 2).run.isSome = true ∧ pageServed (setPage (on 2) 2 { run := some 0x99 }) 2 = true ∧
    hubServed fw 0x100 = true ∧ keepsBlock (noteWrite fw 0x100) 0x100 0 = false ∧
    hubServed used 0x100 = true ∧ keepsBlock (noteWrite used 0x100) 0x100 0 = true ∧
    (4 : Word).getLsbD 2 = true ∧ blkBusy (noteWrite fw 0x100) 0x100 = true ∧ hubServed (on 0x100) 0x100 = true ∧
    blkBusy (noteWrite (on 0x100) 0x100) 0x100 = false ∧ hasTest 0x100 = true ∧
    (getBlk (noteWrite (on 0x100) 0x100) 0x100).pwrOn = true ∧ testRefused (noteWrite (on 0x100) 0x100) 0x100 = false ∧
    hubServed fw 0x24 = true ∧ blkBusy (noteWrite fw 0x24) 0x24 = false ∧ hasTest 0x24 = false ∧ hasDomain 0x100 = true ∧
    isRetiredPage (noteWrite fw 0x100) 0x100 = false ∧ (8 : Word).getLsbD 3 = true ∧ keepsBlock (noteWrite fw 0x100) 0x100 8 = false ∧
    (0 : Word).getLsbD 3 = false ∧ powerRefused (noteWrite fw 0x100) 0x100 = false ∧
    hasHeader 0x100 = true ∧ ctl (setBlk fw 0x100 { control := 2 }) 0x100 1 = true ∧ workInFlight (setBlk fw 0x100 { control := 2 }) 0x100 = false ∧
    (getBlk (setBlk fw 0x100 { testPage := some 0x100 }) 0x100).testPage = some 0x100 ∧ hasDomain 0x30 = true ∧ isTilePage 0x30 = false ∧
    ctl (setBlk fw 0x30 { control := 1 }) 0x30 3 = false ∧ (getBlk (setBlk fw 0x30 { control := 1 }) 0x30).pwrOn = true ∧
    ctl (setBlk fw 0x30 { control := 9, pwrOn := false }) 0x30 3 = true ∧
    (getBlk (setBlk fw 0x30 { control := 9, pwrOn := false }) 0x30).pwrOn = false := by decide +kernel

/-- A member beside a loaded image, whose roster is held. -/
def rosterBound : State := updPart role1 0 (fun x => { x with img := some { img1 with group := true } })
theorem w_RegisterAccesses : fw.canon = true ∧ hostServed fw = true ∧ (getPage fw 0x24).snap = none ∧ pairLo 0x24 0x44 = false ∧
    pairLo 0x24 0x48 = true ∧ pageServed fw 0x24 = true ∧ regServed fw 0x24 = true ∧ (0x4C : BitVec 12).toNat = 0x48 + 4 ∧ pairLo 0x24 0x4C = false ∧
    hubServed fw 0x24 = true ∧ pairRW 0x24 0x48 = true ∧ rosterHeld fw 0x24 0x4C = false ∧
    pageServed rosterBound 0x071 = true ∧ pairRW 0x071 0x44 = true ∧ rosterHeld rosterBound 0x071 0x48 = true ∧
    ownWrite 0x24 0x44 = false ∧ pairRW 0x24 0x44 = false ∧ ownWrite 0x24 0x48 = false ∧ heldUpper fw 0x24 0x48 = none ∧
    heldUpper (setPage fw 0x24 { getPage fw 0x24 with held := some (0x4C, 9) }) 0x24 0x48 = some 9 ∧ isTilePage 0x24 = false ∧
    (getPage fw 0x24).raw &&& (0xFFFF : Word).setWidth 16 = 0 ∧ (getPage fw 0x24).sticky = 0 ∧ (1 : Word) ≠ 0 ∧
    cntDefined 0x20 (getPage fw 0x20).cntSel.toNat = true ∧ pageServed fw 0x20 = true ∧ (0 : Nat) ≠ 0x20 * 256 := by decide +kernel

theorem w_ControlWrites : pageServed (withImg fw) 0x07C = true ∧ (1024 : Word).toNat + 2 ^ 32 * (0 : Word).toNat ≠ 2 ^ 64 - 1 ∧
    hasImage (withImg fw) 0 = true ∧ now (withImg fw) + 1024 ≤ (1024 : Word).toNat ∧ (withImg fw).canon = true ∧
    pageServed fw 0x100 = true ∧ tileAt fw 0 = some 0 ∧ (0x80000000 : Word).getLsbD 31 = true ∧ hasImage fw (partOf fw 0) = false ∧
    (getBlk fw 0x100).testPage = none ∧ fw.fc.rot.any (fun (r : Nat × Nat) => r.2 == 0) = false ∧
    pageServed fw 0x004 = true ∧ (0xBC : BitVec 12).toNat % 4 = 0 ∧ anyImage fw = false ∧ pageServed fw 0x001 = true ∧
    fld (2 : Word) 1 0 < 3 ∧ fw.canon = true ∧
    pageServed { fw with boot := { testMode := true } } 0x003 = true ∧ (0x109 : Word).getLsbD 0 = true ∧ 1 ≤ fld (0x109 : Word) 3 1 ∧
    fld (0x109 : Word) 3 1 ≤ 4 ∧ fld (0x109 : Word) 15 8 ≠ 0 := by decide +kernel

/-- Samples, averages, a step decided and a stretch in force. -/
def pw (f : Power → Power) : State := updPower fw f
theorem w_PowerSteps : takesCommand (setRgF (on 1) 1 0x40 1 0 3) 0x001 = true ∧ rgF (setRgF (on 1) 1 0x40 1 0 3) 0x001 0x40 1 0 = 3 ∧
    takesCommand (running (on 1)) 0x001 = true ∧ rgF (running (on 1)) 0x001 0x40 1 0 ≠ 3 ∧ anyRunning (running (on 1)) = true ∧
    anyRunning (on 1) = false ∧
    rgF (setRgF (on 1) 0x007 0x4C 11 0 780) 0x001 0x48 11 0 ≤ rgF (setRgF (on 1) 0x007 0x4C 11 0 780) 0x007 0x4C 11 0 + 10 ∧
    [(4, some 2), (7, none), (5, none)].all (fun d => (pw (fun x => { x with switch := some (d.1, d.2, 0) })).power.switch == some (d.1, d.2, 0) &&
      switchEdge fw d.1 0 && aclkOn fw) = true ∧
    divider fw < 7 ∧ 5 ≤ divider fw ∧ divider fw < 8 ∧ fw.power.switch = none ∧ fw.power.lastStep = none ∧
    (pw (fun x => { x with pwrViol := true })).power.pwrViol = true ∧
    stretch (setRgF (pw (fun x => { x with relSince := some 0 })) 0x001 0x44 10 8 1) ≠ 0 ∧
    0 + 100 * 1050000 ≤ now { fw with gcnt := 105000000 } ∧ fw.boot.hold = false ∧ fw.boot.perst = false ∧
    setpoint (powerMode fw) ≤ (780 : BitVec 12).toNat + 5 ∧ fw.power.energy + (399 : BitVec 16).toNat < 400 ∧
    (findHottest (([(0, 380, true)] : List (BitVec 8 × Int × Bool)).foldl takeReading fw)).1 ≤ 380 ∧
    fw.boot.tripPin = false ∧ 440 ≤ (440 : BitVec 10).toNat ∧
    (pw (fun x => { x with samples := List.replicate 10 8000 })).canon = true ∧
    (List.replicate 10 8000).foldl (· + ·) 0 ≤ 4 * 2000 * 10 ∧ (List.replicate 10 8000).foldl (· + ·) 0 % 10 = 0 ∧
    fw.power.overHist = [] ∧ fw.power.msAvgs.length < 999 ∧
    (List.replicate 10 8000).foldl (· + ·) 0 ≤ 400 * effCap fw := by decide +kernel

/-- A loaded image armed for count 0, and a running one whose stream 0 holds one entry. -/
def armed : State := setRg (updPart (setReady fw 0x2C true) 0 (fun x => { x with img := some img1, armed := some 0 })) 0x2C 0x44 2
/-- The image's schedule: the directory at line 1, of which stream 0 of tile 0 has one entry. -/
def fetching : State := { updPart (running fw) 0 (fun x => { x with img := some img1 }) with mem := { cells := [⟨17, 1⟩] } }
def fetchingAhead : State := { armed with mem := { cells := [⟨17, 1⟩] } }
def runIs (r : Run) : State := updPart fw 0 (fun x => { x with run := some r })
def markE : BitVec 128 := ent (2 ^ 95)
/-- Every tile has issued all of its schedule. -/
def finished : State := (List.range 128).foldl (fun s t => setTile s t { streams := List.replicate 5 { ended := true } }) (running fw)
/-- A block of one pass of one step, in BF16 class so that the checksum cells take no part. -/
def pass1 : KPassSt := { fcbR := 0, fcbC := 0, klen := 1, steps := 1, base := 0, step0 := 0, stepLen := 1, cap := 0, excl := [] }
def blk1 : OBlock :=
  { id := 0, op := 0, num := 0, rung := 0, level := 0, kind := 0, shape := 0, arec := 0, prec := none, slack := 0, schedSwap := 0,
    bf16 := true, passes := [pass1], complete := true }
def rep1 : Repeat := { blk := blk1, rung := 1, kind := 1, cost := 0, at_ := 0 }
/-- A run in an epoch of its check, with a repeat still queued on tile 0. -/
def inEpoch (l : List Repeat) : State := setTile (runIs { run1 with resume := some 0, inEpoch := true }) 0 { replay := l }
theorem w_ScheduleCourse : armed.canon = true ∧ (getPart armed 0).armed = some 0 ∧ 0 ≤ now armed ∧ armed.oos = false ∧ warmActive armed = false ∧
    (getPart armed 0).img = some img1 ∧ img1.sched.getD (powerMode armed) 0 ≠ 0 ∧ (getPart armed 0).run = none ∧
    (getPart armed 0).lastEnd = none ∧ rgF armed (imgPage 0) 0x44 1 0 = 2 ∧ role armed ≠ 2 ∧ stretch armed = 0 ∧
    (getCnt armed (imgPage 0) 0).sat = false ∧ (getCnt armed (imgPage 0) 0).value.toNat < 2 ^ 48 - 2 ∧
    (getPart (updPart armed 0 (fun x => { x with lastEnd := some 1 })) 0).lastEnd = some 1 ∧ 0 < 1 + 64 ∧
    rgF (setRg armed 0x2C 0x44 0) (imgPage 0) 0x44 1 0 ≠ 2 ∧ (getPart (setRg armed 0x2C 0x44 0) 0).armed = some 0 ∧
    (getPart (updPart armed 0 (fun x => { x with run := some run1 })) 0).run.isSome = true ∧
    aclkOn fw = true ∧ alignUp 0 (divAlign (divider fw)) ≤ now fw ∧ warmActive fw = false ∧
    [{ run1 with begun := false }, { run1 with seg := 1, begun := false }, { run1 with resume := some 0, abandonAnn := some 0 },
      { run1 with resume := some 0, replayAnn := true }, { run1 with resume := some 0 }].all (fun r => (getPart (runIs r) 0).run == some r) = true ∧
    (partTiles (runIs { run1 with resume := some 0 }) 0).all (fun t => repeatsDone (getTile (runIs { run1 with resume := some 0 }) t)) = true ∧
    (partTiles (inEpoch []) 0).all (fun t => repeatsDone (getTile (inEpoch []) t)) = true ∧ needsEpoch (inEpoch []) 0 = false ∧
    isCommit (inEpoch []) 0 0 = false ∧ needsEpoch (inEpoch [rep1]) 0 = true ∧
    (partTiles (inEpoch [rep1]) 0).all (fun t => repeatsDone (getTile (inEpoch [rep1]) t)) = true ∧
    (getPart (running fw) 0).run = some run1 ∧ run1.begun = true ∧
    (partTiles finished 0).all (fun t => (getTile finished t).streams.all (fun y => y.ended && y.q.isEmpty) &&
          (getTile finished t).moves.isEmpty && (getTile finished t).replay.isEmpty && (getTile finished t).conv.isEmpty &&
          (getTile finished t).running.isNone && (getTile finished t).feeds.isEmpty && (getTile finished t).blocks.all (fun b => b.verd)) = true ∧
    (nextGroup fetching 0 run1.mode 0 (getStrm (getTile fetching 0) 0).fetched).any (fun g => groupDue (getTile fetching 0) run1 g 0) = true ∧
    (getPart fetchingAhead 0).run = none ∧ (aheadGroup fetchingAhead 0 0).isSome = true ∧
    front (strm 2 markE) 0 2 = some markE ∧ eMark markE = true ∧
    canIssue (strm 2 markE) 0 2 (absAcy (strm 2 markE) 0 0) markE true (some 0) = true := by decide +kernel

/-- Tile 0 in strict mode, its page 0 pending, before a SCALE_SET; in strict mode before a second pass of no feeds; and before
an entry that has not been fetched; and a tile whose stream 0 waits 2^20 counts. -/
def strictTile : State :=
  setRgF (tileIn { setStrm {} 4 { q := [ent 5] } with pend := [{ unit := 0, since := 0, upto := none, tag := 0, off := 0 }] }) 0x001 0x200 0 0 1
def strictPass : State := setRgF (strm 2 (ent 0x10)) 0x001 0x200 0 0 1
def strictLate : State := setRgF fetching 0x001 0x200 0 0 1
def hung : State := { setRg (strm 0 (ent 1)) 0x002 0x040 100 with gcnt := 1048576 }
def shadow1 : Shadow := { tile := 0, unit := 0, kind := 0, op := 0, site := 32 }
theorem w_FaultsAndRecovery : front strictTile 0 4 = some (ent 5) ∧
    ((issueObstacles strictTile 0 4 (ent 5)).find? (fun b => b.at_ (absAcy strictTile 0 0))).isSome = true ∧
    [(strictTile, 4), (strictPass, 2), (strictLate, 0)].all (fun e => issuing e.1 0 && strict e.1 0 &&
      !(getStrm (getTile e.1 0) e.2).marked && rgF e.1 0x100 0x268 31 31 == 0) = true ∧ eOffset (ent 5) = 0 ∧ eOffset (ent 0x10) = 0 ∧
    front strictPass 0 2 = some (ent 0x10) ∧
    (issueObstacles strictPass 0 2 (ent 0x10)).find? (fun b => b.at_ (absAcy strictPass 0 0)) = none ∧
    unitAccepts strictPass 0 2 (absAcy strictPass 0 0) (ent 0x10) = false ∧
    front strictLate 0 0 = none ∧ (unfetched strictLate 0 0).head? = some 0 ∧ eOffset 0 = 0 ∧
    (getPart hung (partOf hung 0)).run = some run1 ∧ run1.begun = true ∧ warmActive hung = false ∧
    rgF hung 0x002 0x040 19 0 < streamLag hung 0 0 ∧ hangFirst hung 0 0 = true ∧ rgF hung 0x002 0x044 31 31 = 0 ∧ hostServed fw = true ∧
    ({ fw with fc := { fw.fc with shadows := [shadow1] } } : State).fc.shadows.find? (fun h => h.site == 32) = some shadow1 ∧ fw.fi.left = 0 ∧
    ({ shadow1 with differs := true } : Shadow).differs = true ∧ rgF fw 0x003 0x68 31 31 = 0 ∧
    (getPart fw (partOf fw 0)).run = none ∧ ({ fw with fc := { fw.fc with due := [0] } } : State).fc.due = [0] ∧
    freeSites fw (siteOf fw 0 / 34) = 32 :: [33] ∧ nextRot fw 3 = some 134 ∧ rgF fw 0x000 0x50 0 0 = 1 ∧ fwRunning fw = true ∧
    warmActive fw = false ∧ aclkOn fw = true ∧ rotDue fw 3 = true ∧ fw.fc.rot = [] ∧ fw.fc.shadows = [] ∧
    ({ fw with fc := { fw.fc with rot := [(3, 134)] } } : State).fc.rot = [((3 : BitVec 2).toNat, 134)] ∧
    ({ fw with fc := { fw.fc with active := true } } : State).fc.active = true ∧ fw.oos = false ∧ 0 ≤ now fw := by decide +kernel

/-- A pass entry and the two feeds it takes. -/
def feed0 : FeedSt := { side := 0, op := 0, occ := 0, fcb := 0, shape := 0, rung := 0, issue := 0 }
def feed1 : FeedSt := { feed0 with side := 1, tag := 1 }
def passTile : State := tileIn { setStrm {} 2 { q := [ent 0x10] } with feeds := [feed0, feed1] }
theorem w_ArrayInstructions : [0, 1].all (fun k =>
      mayIssueFrom (strm k (ent 1)) 0 k 0 (ent 1) 1 (some (feederFrom (getTile (strm k (ent 1)) 0) k (wShape (eWord (ent 1))))) &&
      feederRoom (getTile (strm k (ent 1)) 0) k (wShape (eWord (ent 1))) && (issued (strm k (ent 1)) 0 k 0 (ent 1)).canon &&
      smWf (fun _ => 0) (getTile (issued (strm k (ent 1)) 0 k 0 (ent 1)) 0).occurs) = true ∧
    (getTile passTile 0).feeds.find? (passMate (getTile passTile 0) 0 (ent 0x10)) = some feed0 ∧
    (getTile passTile 0).feeds.find? (passMate (getTile passTile 0) 1 (ent 0x10)) = some feed1 ∧
    mayIssueFrom passTile 0 2 0 (ent 0x10) 0x10 (some (max feed0.issue feed1.issue)) = true ∧
    (getTile (issued passTile 0 2 0 (ent 0x10)) 0).feeds.find? (passMate (getTile (issued passTile 0 2 0 (ent 0x10)) 0) 0 (ent 0x10)) = some feed0 ∧
    (getTile (issued passTile 0 2 0 (ent 0x10)) 0).feeds.find? (passMate (getTile (issued passTile 0 2 0 (ent 0x10)) 0) 1 (ent 0x10)) = some feed1 ∧
    (issued passTile 0 2 0 (ent 0x10)).canon = true := by decide +kernel

def le : LinkEntry := { blk := 0, step := 0, elems := [] }
def cells1 (v : Cell) : List (Nat × Cell) := (List.range 64).map (fun c => (c, v))
def convRow : ConvRow := { blk := 0, row := 0, acc := [], res := [], chk := 0, entered := 0 }
def feeding : State := tileIn { feeds := [{ feed0 with blk := some 0, first := 12 }], blocks := [blk1] }
def cellTile : Tile := { blocks := [blk1], rowLinks := [(63, [le])], colLinks := [(63, [le])] }
def outlierTile : Tile := { blocks := [blk1], cells := [(0, { next := 1, outDue := true, at_ := 8 })] }
def swapTile : Tile := { blocks := [{ blk1 with schedSwap := 5 }], cells := cells1 { blkDone := 1 } }
def enterTile : Tile := { blocks := [blk1], rows := [(0, { swaps := 1 })] }
def convTile : Tile := { blocks := [blk1], conv := [convRow] }
def blk2 : OBlock := { blk1 with bf16 := false, drainDone := some 4, lastAcy := 7 }
def repTile : State := tileIn { replay := [rep1], streams := List.replicate 5 { ended := true } }
theorem w_ArrayEvents : aclkOn (tileIn {}) = true ∧
    (presentOf (updTile feeding 0 (landDue 12)) 0 0 63).any (fun q => presentAt (getTile (updTile feeding 0 (landDue 12)) 0) q == 12 &&
      presentDue (getTile (updTile feeding 0 (landDue 12)) 0) 12 q && smWf (fun _ => (0, 0)) q.fd.lanes) = true ∧
    (cellEntries cellTile 63 63).isSome = true ∧ smWf (fun _ => {}) cellTile.cells = true ∧
    (outlierDue outlierTile 0 0).isSome = true ∧ (getCell outlierTile 0 0).outDue = true ∧ 0 < (getCell outlierTile 0 0).next ∧
    smWf (fun _ => {}) outlierTile.cells = true ∧
    (swapBlock swapTile 0).any (fun b => swapReady swapTile 0 b && decide (swapAcy swapTile 0 b ≤ b.schedSwap + b.slack)) = true ∧
    (tileIn swapTile).canon = true ∧ smWf (fun _ => {}) swapTile.cells = true ∧
    (enterBlock enterTile 0).any (fun b => enterReady enterTile 0 1 b) = true ∧ (tileIn enterTile).canon = true ∧
    smWf (fun _ => {}) enterTile.rows = true ∧ (enterRivals enterTile 1).all (fun q => q.1 == 0) = true ∧
    (landDue 9 convTile).conv.find? (fun v => v.row == 0) = some convRow ∧ blockById (landDue 9 convTile) 0 = some blk1 ∧
    (drainOf (tileIn convTile) 0 9 blk1 0).any (fun q => q.fmt.isNarrow && 9 == convRow.entered + 9) = true ∧
    verdictBlock { blocks := [blk2] } 100 = some blk2 ∧ checksBad blk2 = false ∧
    verdictBlock { blocks := [{ blk2 with rowBad := [1] }] } 100 = some { blk2 with rowBad := [1] } ∧ checksBad { blk2 with rowBad := [1] } = true ∧
    statsFeed { feeds := [{ feed0 with lastAcy := 7 }] } 0 9 = some { feed0 with lastAcy := 7 } ∧
    decisionBlock { blocks := [blk2] } 9 = some blk2 ∧ trigger blk2 (precAt (tileIn { blocks := [blk2] }) 0 none) = 0 ∧
    [0, 2].all (fun k => decisionBlock { blocks := [{ blk2 with rung := k, ins := { zblk := 1 } }] } 9 == some { blk2 with rung := k, ins := { zblk := 1 } }) = true ∧
    (getTile repTile 0).replay = rep1 :: [] ∧ repeatStart (getTile repTile 0) rep1 = 17 ∧ warmActive repTile = false ∧ repTile.oos = false ∧
    windowFits repTile 0 rep1 = true := by decide +kernel

def skinkOps : List Nat :=
  [0x01, 0x02, 0x03, 0x04, 0x05, 0x06, 0x0C, 0x10, 0x11, 0x12, 0x18, 0x19, 0x1A, 0x1B, 0x20, 0x21, 0x22, 0x23, 0x24, 0x30, 0x31, 0x32, 0x33,
   0x08, 0x09, 0x0A, 0x0B]
theorem w_LaneInstructions : ∀ op ∈ skinkOps, mayIssue (strm 3 (ent op)) 0 3 0 (ent op) op = true := by decide +kernel
theorem w_LaneArithmetic : (2 ^ 32 - 1 < 2 ^ kWidth (kType 0)) ∧ (∃ w, kSat w = false) ∧ (∃ w, kSat w = true ∧ kUns w = true) ∧
    (∃ w, kSat w = true ∧ kUns w = false) ∧ ((2 : Int) ^ (8 - 1) ≤ signExt 8 127 + signExt 8 127) ∧
    (signExt 8 128 + signExt 8 128 < -((2 : Int) ^ (8 - 1))) :=
  ⟨by decide, ⟨0, by decide⟩, ⟨2 ^ 37 + 2 ^ 36, by decide⟩, ⟨2 ^ 36, by decide⟩, by decide, by decide⟩
theorem w_ReductionInstructions : [0x40, 0x41, 0x42, 0x43, 0x44, 0x45].all (fun op => [0, 1].all (fun last =>
    mayIssue (strm 3 (ent (op + last * 2 ^ 39))) 0 3 0 (ent (op + last * 2 ^ 39)) op &&
    bit (kImm (eWord (ent (op + last * 2 ^ 39)))) 1 == decide (last = 1))) = true := by decide +kernel
/-- PACK and UNPACK of a code that no format has. -/
def oddFmt (op : Nat) : BitVec 128 := ent (op + 5 * 2 ^ 38)
theorem w_VectorMoves : [0x38, 0x39, 0x3B, 0x3C, 0x28, 0x29, 0x2A, 0x48].all (fun op => mayIssue (strm 3 (ent op)) 0 3 0 (ent op) op) = true ∧
    (Fmt.ofCode (kImm (eWord (ent 0x29)) % 8)).isSome = true ∧ Fmt.ofCode (kImm (eWord (oddFmt 0x29)) % 8) = none ∧
    [0x29, 0x2A].all (fun op => mayIssue (strm 3 (oddFmt op)) 0 3 0 (oddFmt op) op) = true := by decide +kernel

/-- A line of a move that is due. -/
def move1 : MoveSt := { tag := 0, op := 0, desc := 0, first := 0, count := 1, ts := 0, hint := 0, issue := 0, src := [some 0] }
def moving : State := tileIn { moves := [move1] }
/-- A LINK_SEND whose record, at byte 0 of memory, names the tile store as its source. -/
def sendStore : State := { updPart (strm 4 (ent 3)) 0 (fun x => { x with img := some img1 }) with mem := { cells := [⟨0x14, 1⟩] } }
theorem w_MoveInstructions : [1, 2, 3].all (fun op => mayIssue (strm 4 (ent op)) 0 4 0 (ent op) op) = true ∧
    (mrecAt (issued (strm 4 (ent 3)) 0 4 0 (ent 3)) 0 0).srcTs = false ∧ mayIssue sendStore 0 4 0 (ent 3) 3 = true ∧
    (mrecAt (issued sendStore 0 4 0 (ent 3)) 0 0).srcTs = true ∧
    dIdxEn (tdesc (issued (strm 4 (ent 2)) 0 4 0 (ent 2)) 0 0) = false ∧
    dIdxEn (tdesc (issued (setDesc (strm 4 (ent 2)) 0 0 (2 ^ 112)) 0 4 0 (ent 2)) 0 0) = true ∧
    aclkOn moving = true ∧ (getTile moving 0).moves.find? (fun m => m.tag == move1.tag) = some move1 ∧ 0 < move1.count ∧
    move1.issue + ((0 / 2 : Nat) : Int) < ((1 : Nat) : Int) ∧ 0 ∉ move1.arrived ∧ moveLine moving 0 move1 0 = some 0 ∧
    ({ moving with hif := { moving.hif with held := [0] } } : State).hif.held.contains 0 = true ∧
    (moveLine moving 0 move1 0).any moving.hif.held.contains = false ∧ (moveLine moving 0 move1 0).any moving.hif.snoops.contains = false ∧
    smWf (fun _ => (0 : Byte)) ({} : Tile).store = true := by decide +kernel
/-- A tile that holds sixteen bindings, before a SLOT_BIND of another descriptor. -/
def boundFull : State := tileIn { setStrm {} 4 { q := [ent 7] } with binds := (List.range 16).map (fun i => (i + 1, 0, i)) }
theorem w_SmallMoveInstructions : [4, 5, 6, 7, 8].all (fun op => mayIssue (strm 4 (ent op)) 0 4 0 (ent op) op) = true ∧
    ((getTile (issued (strm 4 (ent 7)) 0 4 0 (ent 7)) 0).binds.filter (fun (c : Nat × Nat × Nat) => c.1 ≠ 0)).length < 16 ∧
    mayIssue boundFull 0 4 0 (ent 7) 7 = true ∧
    16 ≤ ((getTile (issued boundFull 0 4 0 (ent 7)) 0).binds.filter (fun (c : Nat × Nat × Nat) => c.1 ≠ bits (eWord (ent 7)) 27 8)).length ∧
    (parseDrec [0, 0, 0, 0, 0, 0, 0, 0, 1, 0, 1]).overflow < (parseDrec [0, 0, 0, 0, 0, 0, 0, 0, 1, 0, 1]).e := by decide +kernel

/-! Values from the spec's own examples, named in each comment, and from the standards it cites. -/

/-- 01, the example after R26: tile 77 leaves site 81 for site 100. -/
theorem test_siteMove : (match exec (.siteMove 77) { fw with fc := { due := [77] } } with
    | .next s => [0x08C, 0xC8, 0xD4, 0xD8].map (fun o => (readReg s 4 o).toNat) == [0x53526450, 0x00020000, 0x2122, 0x8064514D]
    | _ => false) = true := by decide +kernel
/-- 01, the example after R21: a site that fails its rotating self-test is retired. -/
theorem test_rotatingFailure : (match exec (.rotSelftestDone 3 false []) { fw with fc := { rot := [(3, 135)] } } with
    | .next s => [0xD0, 0xD4, 0xD8].map (fun o => (readReg s 4 o).toNat) == [0x80, 0x1222, 0x80FF877F]
    | _ => false) = true := by decide +kernel
/-- 02, the example after R40: identity of the tile page of site 81 and of chip page 004h. -/
theorem test_blockIdent : (readReg fw 0x151 0).toNat = 0x10051001 ∧ (readReg fw 4 0).toNat = 0x01000010 := by decide +kernel
/-- 02, the example after R74: counter 20h through its snapshot. -/
theorem test_counterSnapshot : (match exec (.lowerWordRead 0x151 ⟨0x34, false, false⟩)
      (setPage (setCnt fw 0x151 0x20 { value := BitVec.ofNat 48 0x3FFFFFFF0 }) 0x151 { getPage fw 0x151 with cntSel := 0x20 }) with
    | .next s => (leNat s.resp.data, (getPage s 0x151).snap) == (0xFFFFFFF0, some (0x38, 3))
    | _ => false) = true := by decide +kernel
/-- 03, the example after R98, and 03's value from end to end under R102. -/
theorem test_tag : mkTag 0 false true false false true = 0x240 := by decide
theorem test_fp4 : (convTo .fp4 .rne (.fin false (45 / 32))).code = 3 ∧ (convTo .fp4 .rne (.fin false 5)).code = 6 ∧
    (convTo .fp4 .rne (.fin false 20)).code = 7 ∧ (convTo .e4m3 .rne (.fin false 20)).code = 0x5A := by decide +kernel
/-- 03, the example after R109: 1.2 rounds up for r of 0 to 5. -/
theorem test_stochastic : (List.range 16).filter (fun r => (convTo .fp4 (.sr r) (.fin false (6 / 5))).code == 3) = [0, 1, 2, 3, 4, 5] := by decide +kernel
/-- 04, the example after R127: a step's sixteen terms of 0.5 are rounded once. -/
theorem test_cellStep : (cellStep 0x4F80000000 (List.replicate 16 (.fin false (1 / 2), .fin false 1))).1 = 0x4F80000004 := by decide +kernel
/-- 05, the example after R173: residues of the products. -/
theorem test_residue : toRes (229376 * 229376) = 51897 ∧ toRes (512 * 1536) = 180 ∧ toRes (229376 * 512) = 26880 ∧
    toRes (1536 * 229376) = 15119 := by decide +kernel
/-- 06, the example after R209: 10.0 + 1.0 + 4.0 + 0.5 in FP32. -/
theorem test_scatterAdd : (scatterElem .fp32 0x41200000 [0x3F800000, 0x40800000, 0x3F000000]).1.code = 0x41780000 := by decide +kernel
/-- 11, the example after R364: a dispatch of 8 tokens. -/
def example364 : List Int := [1, 2, 1, 0, 1, 3, 2, 1, 1, 2, 0, -1, 2, 1, 3, 2]
def record364 : Drec :=
  { assign := 0, n := 8, k := 2, policy := 1, e := 4, cap := 3, index := 0, drop := 0, occBase := 0x20, overflow := 3, resZero := true }
theorem test_dispatch : ((dispatch record364 (fun p => example364.getD p (-1))).excess.length = 5) ∧
    leNat (dropBytes record364 (dispatch record364 (fun p => example364.getD p (-1)))) = 0xB100 ∧
    (List.range 4).map (dispatch record364 (fun p => example364.getD p (-1))).cnt = [2, 3, 3, 3] := by decide +kernel
/-- 14, the example after R466: where a tier S line lies. -/
theorem test_lineAddress : lineIx 0x40044AA2D8 = 1000003 ∧ stackOf 0x40044AA2D8 = 3 ∧ channelOf 0x40044AA2D8 = 0 ∧
    rowOf 0x40044AA2D8 = 390 ∧ setKey 0x40044AA2D8 = 3 * 16384 + 4248 := by decide +kernel
/-- 16, the example after R555: the two lines of a host read. -/
theorem test_hostLines : touched fw 0x100C0 = [72 * 912, 72 * 913] := by decide +kernel
/-- 21, the example after R707: a staged key enabled and locked. -/
theorem test_keys : (match exec (.keyEnable 0) keyStaged with
    | .next s => (rg s 0x011 0x44 == 1) && (match exec (.keyLock 0) s with | .next t => rg t 0x011 0x44 == 3 | _ => false)
    | _ => false) = true := by decide +kernel
/-- SHA-256 of "abc" (FIPS 180-4). -/
theorem test_sha256 : sha256 [0x61, 0x62, 0x63] = beBytes 32 0xBA7816BF8F01CFEA414140DE5DAE2223B00361A396177A9CB410FF61F20015AD := by decide +kernel
/-- 04, the example after R139: the record of a first arithmetic event. -/
theorem test_arithFirst : (let q : APlace := { op := 0x1A4, stage := 0, row := 5, col := 40, kstep := 0, num := 0, order := 0, acy := 9 }
    let s := arithEvent fw 0 q { overflow := true, nanSeen := true }
    [0xC0, 0xC4, 0xC8, 0xCC].map (fun o => (rg s 0x100 o).toNat)) = [0x860001A4, 0x00280005, 0, 0] := by decide +kernel
/-- 05, the example after R181: the record of a mismatch, and the repair a self-test sets. -/
theorem test_chkFirst : (let s := chkRecord fw 0 { blk1 with op := 0x2B7, num := 5, rowBad := [1], colSum := [1], chkRow := [0] }
    [0x100, 0x104, 0x108, 0x110].map (fun o => (rg s 0x100 o).toNat)) = [0x800002B7, 5, 2, 1] := by decide +kernel
theorem test_arrayRepair : (match exec (.selftestEnd 0x100 true [(1, 3), (1, 9)]) (setBlk fw 0x100 { testPage := some 0x100 }) with
    | .next s => rg s 0x100 0x118 == 0x00010081 | _ => false) = true := by decide +kernel
/-- 17, the example after R603: site 45 fails its self-test at start. -/
theorem test_startFailure : (match exec (.blockReady 0x12D false []) fw with
    | .next s => [0x68, 0xC4, 0xD4, 0xD8].map (fun o => (readReg s 4 o).toNat) == [0x422C2B2A, 0x2000, 0x2212, 0x80422D2B]
    | _ => false) = true := by decide +kernel
/-- 19, the example after R669: a duplicate mismatch. -/
theorem test_duplicateMismatch : (match exec (.dupVerdict 32 false)
      { updPart fw 0 (fun x => { x with img := some img1, run := some { run1 with seg := 2, committed := false } }) with
        fc := { shadows := [{ shadow1 with tile := 21 }] } } with
    | .next s => ((getPage s 3).errInfo.toNat, (rg s 3 0x60).toNat, (readReg s 3 0xC8).toNat, (getPart s 0).poison)
        == (0x2015, 0x80020003, 0x00100000, true)
    | _ => false) = true := by decide +kernel
/-- 20, the example after R692: a hang of the move stream of logical tile 37. -/
theorem test_hang : (match exec (.hangDetected 37 4) { updPart (setSync (setTile fw 37 (setStrm {} 4 { q := [syncEnt 5] })) 0 { ctl := 3 }) 0
      (fun x => { x with run := some run1 }) with gcnt := 735000000, fc := { warmHist := [1] } } with
    | .next s => ((rg s 2 0x44).toNat, (rg s 2 0x4C).toNat % 256, ownAnswer s) == (0x80042500, 3, 6)
    | _ => false) = true := by decide +kernel
/-- 06, the example after R206: a live descriptor, and one refused at check 9. -/
def staged206 (stride1 : Nat) : State :=
  let d : Nat := 0x4000012000 + 0x31 * 2 ^ 64 + (9 + 3 * 16 + 2 * 2 ^ 12) * 2 ^ 96 + (64 + 32 * 2 ^ 32 + 8 * 2 ^ 64) * 2 ^ (8 * 0x18)
    + 1 * 2 ^ (8 * 0x30) + stride1 * 2 ^ (8 * 0x38) + (2 ^ 64 - 2560) * 2 ^ (8 * 0x40)
  { (List.range 32).foldl (fun s k => setRg s 0x28 (0x40 + 4 * k) (BitVec.ofNat 32 (d / 2 ^ (32 * k)))) (on 0x28) with
    allocs := [{ part := 0, handle := 0x31, base := 0x4000000000, size := 0x1000000, tierS := true, sealed := false }] }
theorem test_descCreate : ([80, 60].map (fun n => match exec (.descCreate 0 5) (staged206 n) with
    | .next s => ((getPage s 0x28).result.toNat, (rg s 0x28 0xC4).toNat) | _ => (0, 0))) = [(0x100100, 0), (0x100103, 0x80000019)] := by decide +kernel
/-- 11, the example after R375: line 63 of a move arrives late. -/
def late493 : MoveSt :=
  { tag := 0, op := 0x39C, desc := 0, first := 0, count := 64, ts := 0x60000, hint := 0, issue := 10000, arrived := List.range 63,
    src := (List.range 64).map (fun (i : Nat) => some (i : Int)) }
theorem test_lateLine : (match exec (.lineArrival 12 0 63 12739 [] false []) (setTile (updPart fw 0 (fun x => { x with
      img := some img1, run := some { run1 with mode := 1, seg := 3 } })) 12 { moves := [late493] }) with
    | .next s => ((rg s 1 0x210).toNat, (rg s 1 0x214).toNat, (getCnt s 0x10C 0x5A).value.toNat) == (0x800030C2, 0x39C, 1)
    | _ => false) = true := by decide +kernel
/-- 15, the example after R520: the manager's decision at check 5. -/
theorem test_decision : decision (updPart role2 0 (fun x => { x with run := some { run1 with g := 0x20000012C, seg := 5 } })) 2 0x20000018F
    = (1, 0x20000098F) := by decide +kernel
theorem w_OutputPins : State.reset.boot.hold = false ∧ State.reset.boot.perst = false ∧ State.reset.boot.tripPin = false ∧
    440 ≤ (440 : BitVec 10).toNat := by decide
/-- 22 R720: CROAK is low before firmware, toggles with it, and holds its level in the fault state. -/
def fwHeld : State := { fw with hif := { fw.hif with fw := [0] } }
theorem test_croak : [croak State.reset, croak fwHeld, croak { fwHeld with fc := { fwHeld.fc with active := true } }]
    = [.low, .toggling, .held] := by decide +kernel
/-- The CRC-32 of "123456789", the check value of its polynomial (15 R478). -/
theorem test_crc32 : crc32 [0x31, 0x32, 0x33, 0x34, 0x35, 0x36, 0x37, 0x38, 0x39] = 0xCBF43926 := by decide +kernel
/-- The roots of the link code's generator are the powers 0 to 29 of α (15 R474). -/
theorem test_linkGenerator : linkGen.length = 31 ∧ (List.range 31).map (fun j => gxEval linkGen.reverse (gxPow j) == 0) =
    List.replicate 30 true ++ [false] := by decide +kernel

end Sys2Proof.Tests
end

/-! What stands of the site map in force and of the staged one (01 R13 to R17, R728) while events are counted and
reported, and the statements about the map: the counterexample to O8, and O21. -/

namespace Sys2Proof.Machine

/-! Lists and sparse maps. -/

theorem length_eraseDups_le {α : Type} [DecidableEq α] : ∀ l : List α, l.eraseDups.length ≤ l.length
  | [] => Nat.le_refl _
  | a :: l => by
    rw [List.eraseDups_cons, List.length_cons, List.length_cons]
    exact Nat.succ_le_succ (Nat.le_trans (length_eraseDups_le _) (List.length_filter_le _ _))
termination_by l => l.length
decreasing_by exact Nat.lt_succ_of_le (List.length_filter_le _ _)

/-- A list without an element is what is left when the element is dropped. -/
theorem filter_ne_eq_self_iff {α : Type} [DecidableEq α] (a : α) (l : List α) : l.filter (fun b => !b == a) = l ↔ a ∉ l := by
  rw [List.filter_eq_self]
  refine ⟨fun h ha => ?_, fun h b hb => ?_⟩
  · have := h a ha
    rw [beq_self_eq_true] at this
    exact Bool.noConfusion this
  · have hne : b ≠ a := fun he => h (he ▸ hb)
    rw [beq_false_of_ne hne, Bool.not_false]

/-- Dropping repetitions keeps the length of a list just when there are none. -/
theorem length_eraseDups_eq_iff {α : Type} [DecidableEq α] (l : List α) : l.eraseDups.length = l.length ↔ l.Nodup := by
  induction l with
  | nil => exact ⟨fun _ => List.nodup_nil, fun _ => rfl⟩
  | cons a l ih =>
    rw [List.eraseDups_cons, List.length_cons, List.length_cons, Nat.add_right_cancel_iff, List.nodup_cons, ← ih]
    refine ⟨fun h => ?_, fun ⟨ha, h⟩ => by rw [(filter_ne_eq_self_iff a l).mpr ha]; exact h⟩
    have hle := length_eraseDups_le (l.filter (fun b => !b == a))
    have hself : l.filter (fun b => !b == a) = l := List.filter_sublist.eq_of_length_le (by omega)
    rw [hself] at h
    exact ⟨(filter_ne_eq_self_iff a l).mp hself, h⟩

/-- A function's values below n are listed without repetition just when it is injective there. -/
theorem nodup_map_range_iff {α : Type} (f : Nat → α) (n : Nat) :
    ((List.range n).map f).Nodup ↔ ∀ v, v < n → ∀ t, t < n → f v = f t → v = t := by
  have hlen : ((List.range n).map f).length = n := by rw [List.length_map, List.length_range]
  rw [List.Nodup, List.pairwise_iff_getElem]
  simp only [List.getElem_map, List.getElem_range, hlen]
  refine ⟨fun h v hv t ht he => ?_, fun h i j hi hj hij he => Nat.ne_of_lt hij (h i hi j hj he)⟩
  rcases Nat.lt_trichotomy v t with hlt | heq | hgt
  · exact absurd he (h v t hv ht hlt)
  · exact heq
  · exact absurd he.symm (h t v ht hv hgt)

/-- Dropping entries of other keys changes nothing at a key. -/
theorem smGet_filter {V : Type} (d : Nat → V) {m : List (Nat × V)} {p : Nat × V → Bool} {k : Nat}
    (hp : ∀ v, p (k, v) = true) (hm : smRising none m = true) : smGet d (m.filter p) k = smGet d m k := by
  induction m with
  | nil => rfl
  | cons e m ih =>
    obtain ⟨j, w⟩ := e
    have hr : smRising (some j) m = true := (smRising_cons.mp hm).2
    have ih := ih (smRising_none hr)
    by_cases hj : p (j, w) = true
    · rw [List.filter_cons_of_pos hj, smGet, smGet, ih]
    · have hk : k ≠ j := fun h => hj (h ▸ hp w)
      rw [List.filter_cons_of_neg hj, ih, smGet, if_neg hk]
      split
      · exact smGet_low d hr (by omega)
      · rfl

/-- The map that a function's values below n are set in one after another reads as the function there. -/
theorem smGet_foldl_range {V : Type} [DecidableEq V] (d f : Nat → V) (n : Nat) :
    let m := (List.range n).foldl (fun m t => smSet d m t (f t)) []
    smWf d m = true ∧ ∀ t, t < n → smGet d m t = f t := by
  induction n with
  | zero => exact ⟨rfl, by simp⟩
  | succ n ih =>
    obtain ⟨hwf, hget⟩ := ih
    rw [List.range_succ, List.foldl_append]
    refine ⟨smWf_smSet n _ hwf, fun t ht => ?_⟩
    by_cases h : t = n
    · subst h; exact smGet_smSet_same d _ t _ (smWf_rising hwf)
    · exact (smGet_smSet_ne d _ _ h (smWf_rising hwf)).trans (hget t (by omega))

/-- Setting a key keeps the keys rising. -/
theorem smRising_smSet {V : Type} [DecidableEq V] {d : Nat → V} {m : List (Nat × V)} (k : Nat) (v : V)
    (h : smRising none m = true) : smRising none (smSet d m k v) = true := by
  unfold smSet
  split
  · exact smRising_smDel k h
  · exact smRising_smPut k v h (by simp)

/-! The site map and the registers of page 004h stand. -/

/-- From one state to another the maps of the sites stand, and so do the registers of page 004h, where the next map is
staged. -/
structure SitesStand (s u : State) : Prop where
  map : u.map = s.map
  rising : smRising none s.regs = true → smRising none u.regs = true
  regs : smRising none s.regs = true → ∀ k, k / 4096 = 4 → smGet regReset u.regs k = smGet regReset s.regs k

namespace SitesStand

theorem refl (s : State) : SitesStand s s := ⟨rfl, id, fun _ _ _ => rfl⟩

variable {s u v : State}

/-- A change of other fields. -/
theorem of_eq (h : SitesStand s u) (hm : v.map = u.map) (hr : v.regs = u.regs) : SitesStand s v :=
  ⟨hm.trans h.map, fun hs => hr ▸ h.rising hs, fun hs k hk => hr ▸ h.regs hs k hk⟩

/-- Registers outside page 004h may go. -/
theorem of_filter {p : Nat × Word → Bool} (h : SitesStand s u) (hm : v.map = u.map) (hr : v.regs = u.regs.filter p)
    (hp : ∀ k x, k / 4096 = 4 → p (k, x) = true) : SitesStand s v :=
  ⟨hm.trans h.map, fun hs => hr ▸ smRising_filter p (h.rising hs),
    fun hs k hk => by rw [hr, smGet_filter regReset (fun x => hp k x hk) (h.rising hs), h.regs hs k hk]⟩

theorem ite {c : Prop} [Decidable c] (hu : SitesStand s u) (hv : SitesStand s v) : SitesStand s (if c then u else v) := by
  split
  · exact hu
  · exact hv

theorem foldl {α : Type} {f : State → α → State} {l : List α} (hf : ∀ x ∈ l, ∀ u, SitesStand s u → SitesStand s (f u x))
    (h : SitesStand s u) : SitesStand s (l.foldl f u) := by
  induction l generalizing u with
  | nil => exact h
  | cons x l ih => exact ih (fun y hy => hf y (List.mem_cons_of_mem x hy)) (hf x List.mem_cons_self u h)

theorem setRg {p o : Nat} {w : Word} (h : SitesStand s u) (hp : (p * 4096 + o) / 4096 ≠ 4) :
    SitesStand s (setRg u p o w) :=
  ⟨h.map, fun hs => smRising_smSet _ _ (h.rising hs),
    fun hs k hk => (smGet_smSet_ne _ _ _ (by rintro rfl; exact hp hk) (h.rising hs)).trans (h.regs hs k hk)⟩

theorem setRgF {p o hi lo x : Nat} (h : SitesStand s u) (hp : (p * 4096 + o) / 4096 ≠ 4) :
    SitesStand s (setRgF u p o hi lo x) := h.setRg hp

theorem updPart {p : Nat} {f : Part → Part} (h : SitesStand s u) : SitesStand s (updPart u p f) := h.of_eq rfl rfl

theorem updTile {t : Nat} {f : Tile → Tile} (h : SitesStand s u) : SitesStand s (updTile u t f) := h.of_eq rfl rfl

theorem sendMsix {x : Nat} (h : SitesStand s u) : SitesStand s (sendMsix u x) := h.of_eq rfl rfl

/-- The staged site of a tile stands. -/
theorem stagedSite (h : SitesStand s u) (hs : smRising none s.regs = true) {t : Nat} (ht : t < 128) :
    stagedSite u t = stagedSite s t := by
  unfold Machine.stagedSite rgF rg
  rw [h.regs hs _ (by omega)]

/-! A partition reset. -/

theorem abortRunning {pg : Nat} (h : SitesStand s u) : SitesStand s (abortRunning u pg) := by
  unfold Machine.abortRunning
  split
  · exact h.of_eq rfl rfl
  · exact h

theorem tileRegsReset {t : Nat} (h : SitesStand s u) : SitesStand s (tileRegsReset u t) := by
  have hpage : 0x100 ≤ tpage u t := Nat.le_add_right ..
  exact (h.setRg (by omega)).setRg (by omega)

theorem tilesReset {l : List Nat} (h : SitesStand s u) : SitesStand s (tilesReset u l) := by
  induction l generalizing u with
  | nil => exact h
  | cons t l ih => exact ih h.tileRegsReset.updTile

theorem dropAhead {p : Nat} (h : SitesStand s u) : SitesStand s (dropAhead u p) :=
  (h.foldl (fun _ _ _ hu => hu.updTile)).updPart

theorem setDigest {p : Nat} {d : List Byte} (h : SitesStand s u) : SitesStand s (setDigest u p d) :=
  h.foldl (fun k hk _ hu => hu.setRg (by have := List.mem_range.mp hk; omega))

theorem dropImage {p : Nat} (h : SitesStand s u) : SitesStand s (dropImage u p) := by
  unfold Machine.dropImage
  split
  · exact h
  · refine .setDigest (.setRg (.dropAhead (.updPart ?_)) (by omega))
    exact h.of_eq rfl rfl

theorem endQueue {p : Nat} (h : SitesStand s u) (hp : p < 4) : SitesStand s (endQueue u p) :=
  (h.setRgF (by omega)).updPart

theorem stopQueue {p : Nat} (h : SitesStand s u) (hp : p < 4) : SitesStand s (stopQueue u p) :=
  .ite (h.endQueue hp).sendMsix (h.endQueue hp)

theorem syncLaunchState {p : Nat} (h : SitesStand s u) (hp : p < 4) : SitesStand s (syncLaunchState u p) :=
  h.setRgF (by omega)

theorem partitionReset {p : Nat} (h : SitesStand s u) (hp : p < 4) : SitesStand s (partitionReset u p) := by
  have himage := (h.abortRunning (pg := 0x2C + p)).tilesReset (l := partTiles (Machine.abortRunning u (0x2C + p)) p)
    |>.dropImage (p := p)
  refine .syncLaunchState (.stopQueue (.setRg (.updPart (.ite (.setRgF ?_ (by omega)) ?_)) (by omega)) hp) hp
  · exact himage.of_eq rfl rfl
  · exact himage.of_eq rfl rfl

/-! A warm reset. -/

theorem warmPart {p : Nat} (h : SitesStand s u) (hp : p < 4) : SitesStand s (warmPart u p) := by
  unfold Machine.warmPart
  exact .updPart (.partitionReset (.updPart h) hp)

theorem warmClear (h : SitesStand s u) : SitesStand s (warmClear u) := by
  have hparts := (((h.warmPart (p := 0) (by decide)).warmPart (p := 1) (by decide)).warmPart (p := 2) (by decide)).warmPart
    (p := 3) (by decide)
  refine .endQueue (.endQueue (.endQueue (.endQueue ?_ (by decide)) (by decide)) (by decide)) (by decide)
  exact hparts.of_filter (p := fun e => warmKeepsReg e.1) rfl rfl
    (fun k _ hk => by simp [warmKeepsReg, hk, isTilePage])

theorem warmBegin {cause : Nat} (h : SitesStand s u) : SitesStand s (warmBegin u cause) := by
  refine .setRgF (.setRgF (.setRgF ?_ (by decide)) (by decide)) (by decide)
  exact h.warmClear.of_eq rfl rfl

/-! A report's entry in the collector. -/

theorem setPendingBit {p : Nat} (h : SitesStand s u) (hp : p < 0x1000) : SitesStand s (setPendingBit u p) :=
  h.setRg (by omega)

theorem faultEnter {p e cls : Nat} (h : SitesStand s u) : SitesStand s (faultEnter u p e cls) := by
  refine .ite ?_ (.setRg (.setRg ?_ (by decide)) (by decide))
  · exact h.of_eq rfl rfl
  · exact h.of_eq rfl rfl

end SitesStand

/-! Owning partitions. -/

theorem tilesPer_ge (s : State) : 32 ≤ tilesPer s := by
  unfold tilesPer nParts; split <;> decide

theorem partOf_lt (s : State) {t : Nat} (ht : t < 128) : partOf s t < 4 :=
  Nat.div_lt_of_lt_mul (by have := tilesPer_ge s; omega)

theorem nParts_le (s : State) : nParts s ≤ 4 := by
  unfold nParts; split <;> decide

theorem tileAt_lt {s : State} {x t : Nat} (h : tileAt s x = some t) : t < 128 :=
  List.mem_range.mp (List.mem_of_find?_eq_some h)

theorem partOfQuad_lt (s : State) {q : Nat} (hq : q < 4) : partOfQuad s q < 4 := by
  have := Nat.mul_le_mul (Nat.le_of_lt_succ hq) (nParts_le s)
  unfold partOfQuad; omega

/-- Every owning partition of a report is one of the four. -/
theorem ownersOf_lt (s : State) (p e info : Nat) : ∀ q ∈ ownersOf s p e info, q < 4 := by
  unfold ownersOf
  split
  case isTrue =>
    split
    next t ht => simpa using partOf_lt s (tileAt_lt ht)
    next => simp
  case isFalse =>
    split
    · simpa using partOf_lt s (Nat.mod_lt info (by decide : 0 < 128))
    · split
      next hf =>
        have hq : p - 0x80 < 4 := by simp [isFabricPage] at hf; omega
        simpa using partOfQuad_lt s hq
      next =>
        split
        · simp; omega
        · intro q hq
          exact Nat.lt_of_lt_of_le (List.mem_range.mp hq) (nParts_le s)

/-! Reports and counts. -/

/-- Counting leaves the sites and the staged map as they are. -/
def CountStands (count : State → Nat → Nat → State) : Prop :=
  ∀ s u p i, p < 0x1000 → SitesStand s u → SitesStand s (count u p i)

section
variable {count : State → Nat → Nat → State} {s u : State}

theorem containParts_stand (hc : CountStands count) {l : List Nat} (hl : ∀ q ∈ l, q < 4) (h : SitesStand s u) :
    SitesStand s (containParts count l u) := by
  induction l generalizing u with
  | nil => exact h
  | cons q l ih =>
    exact ih (fun r hr => hl r (List.mem_cons_of_mem q hr))
      (hc _ _ 0x002 2 (by decide) (h.partitionReset (hl q List.mem_cons_self)))

theorem poisonPart_stand (hc : CountStands count) {q : Nat} (h : SitesStand s u) : SitesStand s (poisonPart count u q) := by
  unfold poisonPart
  dsimp only
  split
  · exact .ite (hc _ _ 0x07D 3 (by decide) h.updPart).updPart h.updPart
  · exact h.updPart

theorem poisonParts_stand (hc : CountStands count) {l : List Nat} (hl : ∀ q ∈ l, q < 4) (h : SitesStand s u) :
    SitesStand s (poisonParts count l u) := by
  induction l generalizing u with
  | nil => exact h
  | cons q l ih =>
    exact ih (fun r hr => hl r (List.mem_cons_of_mem q hr))
      (.ite (poisonPart_stand hc h) (containParts_stand hc (by simpa using hl q List.mem_cons_self) h))

theorem collect_stand (hc : CountStands count) {p e cls : Nat} {hang : Bool} {owners : List Nat} (hp : p < 0x1000)
    (ho : ∀ q ∈ owners, q < 4) (h : SitesStand s u) : SitesStand s (collect count u p e cls hang owners) := by
  have hcount : ∀ i, SitesStand s (count (setPendingBit u p) 0x003 i) := fun i => hc _ _ _ i (by decide) (h.setPendingBit hp)
  have hfault : ∀ i, SitesStand s (faultEnter (count (setPendingBit u p) 0x003 i) p e cls) := fun i => (hcount i).faultEnter
  have hvec : ∀ v, SitesStand s v →
      SitesStand s (if owners.isEmpty then sendMsix v 9 else owners.foldl (fun s q => sendMsix s (4 + q)) v) :=
    fun v hv => .ite hv.sendMsix (hv.foldl (fun _ _ _ hw => hw.sendMsix))
  refine .ite (hcount 0).sendMsix (.ite ?contained (.ite ?poison ?reset))
  case contained => exact .ite (hvec _ (hfault _)) (containParts_stand hc ho (hvec _ (hfault _)))
  case poison => exact .ite (hfault _).sendMsix (poisonParts_stand hc ho (hfault _).sendMsix)
  case reset =>
    have hsent := (hfault (if cls = 3 then (if hang then 3 else 4) else cls)).sendMsix (x := if hang then 1 else 0)
    exact .ite (.ite (hsent.setRgF (by decide)) hsent) (.ite hsent (.warmBegin (hc _ _ 0x002 0 (by decide) hsent)))

theorem raiseWith_stand (hc : CountStands count) {p e info : Nat} {owners : List Nat} (hp : p < 0x1000)
    (ho : ∀ q ∈ owners, q < 4) (h : SitesStand s u) : SitesStand s (raiseWith count u p e info owners) := by
  have hlatch : SitesStand s (latch u p e info) := h.of_eq rfl rfl
  exact .ite hlatch (collect_stand hc hp ho hlatch)

theorem countRaw_stand {p i n : Nat} (h : SitesStand s u) : SitesStand s (countRaw u p i n).1 := h.of_eq rfl rfl

theorem choose_stand {n : Nat} (h : SitesStand s u) : SitesStand s (choose u n).2 := h.of_eq rfl rfl

end

/-- A count, and the event of a counter that saturates. -/
theorem countN_succ (n : Nat) (s : State) (p i : Nat) : countN (n + 1) s p i =
    if (countRaw s p i 1).2 then
      raiseWith (countN n) (choose (countRaw s p i 1).1 (2 ^ 32)).2 p 15 (choose (countRaw s p i 1).1 (2 ^ 32)).1
        (ownersOf (choose (countRaw s p i 1).1 (2 ^ 32)).2 p 15 (choose (countRaw s p i 1).1 (2 ^ 32)).1)
    else (countRaw s p i 1).1 := rfl

theorem countBy_eq (s : State) (p i n : Nat) : countBy s p i n =
    if (countRaw s p i n).2 then
      raiseWith (countN 3) (choose (countRaw s p i n).1 (2 ^ 32)).2 p 15 (choose (countRaw s p i n).1 (2 ^ 32)).1
        (ownersOf (choose (countRaw s p i n).1 (2 ^ 32)).2 p 15 (choose (countRaw s p i n).1 (2 ^ 32)).1)
    else (countRaw s p i n).1 := rfl

theorem countN_stand (n : Nat) : CountStands (countN n) := by
  induction n with
  | zero => exact fun _ _ _ _ _ h => countRaw_stand h
  | succ n ih =>
    intro s u p i hp h
    rw [countN_succ]
    exact .ite (raiseWith_stand ih hp (ownersOf_lt _ _ _ _) (choose_stand (countRaw_stand h))) (countRaw_stand h)

theorem countBy_stand {s u : State} {p i n : Nat} (hp : p < 0x1000) (h : SitesStand s u) : SitesStand s (countBy u p i n) := by
  rw [countBy_eq]
  exact .ite (raiseWith_stand (countN_stand 3) hp (ownersOf_lt _ _ _ _) (choose_stand (countRaw_stand h))) (countRaw_stand h)

theorem raiseOpen_map (s : State) {p : Nat} (e : Nat) (hp : p < 0x1000) : (raiseOpen s p e).map = s.map :=
  (raiseWith_stand (countN_stand 3) hp (ownersOf_lt _ _ _ _) (choose_stand (n := 2 ^ 32) (.refl s))).map

/-! The site map itself. -/

theorem abandonRot_stand {s u : State} {x : Nat} (h : SitesStand s u) : SitesStand s (abandonRot u x) := by
  refine .ite (countBy_stand (by decide) (.setRgF ?_ (by decide))) h
  exact h.of_eq rfl rfl

theorem domainOff_map (s : State) (p : Nat) : (domainOff s p).map = s.map :=
  (countBy_stand (by decide) (.refl _)).map

/-- Retiring a site changes what is marked retired, and moves no tile. -/
theorem retireSite_site (s : State) (x : Nat) : (retireSite s x).map.site = s.map.site := by
  unfold retireSite; rw [domainOff_map]

theorem foldl_retireSite_site (l : List Nat) (s : State) : (l.foldl retireSite s).map.site = s.map.site := by
  induction l generalizing s with
  | nil => rfl
  | cons x l ih => exact (ih _).trans (retireSite_site s x)

theorem foldl_setRg_map (p : Nat) (o : Nat → Nat) (w : State → Nat → Word) (l : List Nat) (s : State) :
    (l.foldl (fun s n => setRg s p (o n) (w s n)) s).map = s.map := by
  induction l generalizing s with
  | nil => rfl
  | cons n l ih => exact ih _

@[simp] theorem reloadMap_map (s : State) : (reloadMap s).map = s.map := by
  unfold reloadMap
  exact (foldl_setRg_map 0x004 (fun n => 0xC0 + 4 * n) _ _ _).trans (foldl_setRg_map 0x004 (fun n => 0x40 + 4 * n) _ _ s)

@[simp] theorem updRun_map (s : State) (p : Nat) (f : Run → Run) : (updRun s p f).map = s.map := rfl

/-- A move sets one key of the map. -/
theorem moveTile_site (s : State) (t x : Nat) : (moveTile s t x).map.site = smSet siteDefault s.map.site t x := by
  unfold moveTile
  extract_lets old abandoned _ _ moved retired
  rw [raiseOpen_map (p := 0x004) _ 0 (by decide), reloadMap_map, updRun_map, setRg_map]
  calc retired.map.site
    _ = smSet siteDefault abandoned.map.site t x := retireSite_site moved old
    _ = smSet siteDefault s.map.site t x := by rw [(abandonRot_stand (.refl s)).map]

/-- Applying the staged map puts every logical tile at its staged site. -/
theorem siteOf_applyMap {s : State} (hs : smRising none s.regs = true) {t : Nat} (ht : t < 128) :
    siteOf (applyMap s) t = stagedSite s t := by
  unfold applyMap siteOf
  dsimp only
  rw [foldl_retireSite_site]
  refine ((smGet_foldl_range siteDefault _ 128).2 t ht).trans ?_
  exact (SitesStand.foldl (fun _ _ _ hu => abandonRot_stand hu) (.refl s)).stagedSite hs ht

/-! 01 R16. -/

/-- The device's check of a staged map is R16's. -/
theorem mapOk_iff (s : State) : mapOk s = true ↔
    ∀ t, t < 128 → stagedSite s t / 34 = t / 32 ∧ stagedRetired s (stagedSite s t) = false ∧
      ∀ v, v < 128 → stagedSite s v = stagedSite s t → v = t := by
  have hdup : (((List.range 128).map (stagedSite s)).eraseDups.length = 128) ↔
      ∀ v < 128, ∀ t < 128, stagedSite s v = stagedSite s t → v = t := by
    have h := length_eraseDups_eq_iff ((List.range 128).map (stagedSite s))
    rw [List.length_map, List.length_range] at h
    exact h.trans (nodup_map_range_iff _ 128)
  simp only [mapOk, Bool.and_eq_true, List.all_eq_true, List.mem_range, beq_iff_eq, Bool.not_eq_true', hdup]
  exact ⟨fun ⟨hsite, hinj⟩ t ht => ⟨(hsite t ht).1, (hsite t ht).2, fun v hv => hinj v hv t ht⟩,
    fun h => ⟨fun t ht => ⟨(h t ht).1, (h t ht).2.1⟩, fun v hv t ht => (h t ht).2.2 v hv⟩⟩

/-- The write of a command leaves the staged map. -/
theorem mapOk_taken (s : State) (p c : Nat) (a : Arg) : mapOk (taken s p c a) = mapOk s := rfl

theorem takesCommand_canon {s : State} {p : Nat} (h : takesCommand s p = true) : s.canon = true := by
  simp only [takesCommand, takesUnready, reachesPage, Bool.and_eq_true] at h
  obtain ⟨⟨⟨⟨⟨⟨hc, _⟩, _⟩, _⟩, _⟩, _⟩, _⟩ := h
  exact hc

theorem exec_siteMapApply (arg : Arg) (s : State) : exec (.siteMapApply arg) s = execSiteMapApply arg s := rfl

/-- SITE_MAP_APPLY on a block that takes it. -/
theorem exec_siteMapApply_takes {s : State} (arg : Arg) (h : takesCommand s 0x004 = true) :
    exec (.siteMapApply arg) s = .next (
      if anyImage s then postResult (reloadMap (taken s 0x004 0x01 arg)) 0x004 rBUSY 0x01
      else if mapOk s then postResult (reloadMap (applyMap (taken s 0x004 0x01 arg))) 0x004 rOK 0x01
      else postResult (reloadMap (taken s 0x004 0x01 arg)) 0x004 rGEOM 0x01) := by
  rw [exec_siteMapApply, execSiteMapApply, command_takes h, anyImage_taken, mapOk_taken]

/-- A site stands where the map is shown and the result posted. -/
theorem siteOf_postResult_reloadMap (s : State) (p c e t : Nat) : siteOf (postResult (reloadMap s) p c e) t = siteOf s t := by
  rw [siteOf, siteOf, postResult_map, reloadMap_map]

/-- Settles O21: the device's check is R16's, and what counting the abandoned self-tests can set off (02 R71, 19 R657) leaves
the staged map as it was. -/
theorem siteMapApplied : Obligations.SiteMapApplied := by
  intro s arg good htakes hgood
  have hok : mapOk s = true ↔ good := (mapOk_iff s).trans hgood.symm
  have hregs : smRising none (taken s 0x004 0x01 arg).regs = true :=
    canon_regs (taken_canon _ _ _ (takesCommand_canon htakes))
  have hmap : ∀ code, (postResult (reloadMap (taken s 0x004 0x01 arg)) 0x004 code 0x01).map = s.map := fun code => by
    rw [postResult_map, reloadMap_map, taken_map]
  rw [exec_siteMapApply_takes arg htakes]
  refine ⟨fun himg hg => ⟨_, ?_, rfl, fun t ht => ?_⟩, fun himg hg => ⟨_, ?_, rfl, hmap _⟩, fun himg => ⟨_, ?_, rfl, hmap _⟩⟩
  · rw [himg, hok.mpr hg]; rfl
  · rw [siteOf_postResult_reloadMap, siteOf_applyMap hregs ht]; rfl
  · rw [himg, Bool.eq_false_iff.mpr (mt hok.mp hg)]; rfl
  · rw [himg]; rfl

/-! 01 R13. -/

/-- Logical tile 0 is at site 32 and due to move; behind the entry that says so, its key has a second one. -/
def doubledSite : State :=
  { State.reset with
    pending := [.siteMove 0]
    map := { State.reset.map with site := [(0, 32), (0, 5)] }
    fc := { State.reset.fc with due := [0] } }

theorem siteOf_doubledSite (t : Nat) : siteOf doubledSite t = if t = 0 then 32 else siteDefault t := by
  by_cases h : t = 0 <;> simp [siteOf, doubledSite, smGet, h]

theorem doubledSite_sitesOk : doubledSite.sitesOk := by
  intro t ht
  simp only [siteOf_doubledSite, siteDefault]
  refine ⟨by split <;> omega, fun u hu => ?_⟩
  split <;> split <;> omega

/-- Its next step is the move of tile 0 to site 0, the first free site of quadrant 0. -/
theorem step_doubledSite : step doubledSite = .next (moveTile { doubledSite with pending := [] } 0 0) := by
  have hdue : movable { doubledSite with pending := [] } (partOf { doubledSite with pending := [] } 0) = [0] := by decide
  have hfree : freeSites { doubledSite with pending := [] } 0 = [0, 33] := by decide +kernel
  have hserve : serveMove { doubledSite with pending := [] } 0 = moveTile { doubledSite with pending := [] } 0 0 := by
    have hquad : siteOf { doubledSite with pending := [] } 0 / 34 = 0 := by decide
    simp only [serveMove, hquad, hfree]
  calc step doubledSite
    _ = execSiteMove 0 { doubledSite with pending := [] } := rfl
    _ = _ := by simp [execSiteMove, hdue, guarded, hserve]

/-- Refutes O8: neither `sitesOk` nor `State.canon` asks that the map have one entry for a key. Site 0, where the step moves
tile 0, is the tile's default site, so that the move takes the key's entry off the map; the second one then shows, and tile 0
is at site 5, which carries tile 5. -/
theorem not_tilesKeepTheirQuadrant : ¬ Obligations.TilesKeepTheirQuadrant := by
  intro h
  have hok := h _ _ doubledSite_sitesOk step_doubledSite
  have hsite : ∀ t, siteOf (moveTile { doubledSite with pending := [] } 0 0) t = smGet siteDefault [(0, 5)] t := fun t => by
    rw [siteOf, moveTile_site]; rfl
  obtain ⟨_, hinj⟩ := hok 0 (by decide)
  exact absurd (hinj 5 (by decide) (by rw [hsite, hsite]; rfl)) (by decide)

end Sys2Proof.Machine

/-! What the host's accesses to a register page do and leave: a command written to `BLK_CMD` (02 R47 to R51), an event that
latches (R61 to R67), and reads and writes of registers (R52 to R58, R61, R72). -/

namespace Sys2Proof.Machine

/-! The gate of `BLK_CMD`. -/

theorem getPage_noteWrite_same {s : State} (p : Nat) (h : smRising none s.pages = true) :
    getPage (noteWrite s p) p = { getPage s p with snap := none, held := none } := getPage_setPage_same _ _ h

theorem cmdBusy_of_not_isDone {s : State} {p : Nat} (h : isDone s p = false) : cmdBusy s p = true := by simp [cmdBusy, h]

/-- A command written while one runs on the page is noted as a write, and nothing more. -/
theorem command_busy {s : State} {p code : Nat} {arg : Arg} {u : Bool} {refuse act : State → State} (hc : s.canon = true)
    (hs : pageServed s p = true) (hb : cmdBusy s p = true) : command s p code arg u refuse act = noteWrite s p := by
  simp [command, hs, (cmdBusy_noteWrite p (canon_pages hc)).trans hb]

/-- Out of service a command is refused before anything else of it is looked at. -/
theorem command_oos {s : State} {p code : Nat} {arg : Arg} {u : Bool} {refuse act : State → State} (hc : s.canon = true)
    (hs : pageServed s p = true) (hb : cmdBusy s p = false) (ho : s.oos = true) :
    command s p code arg u refuse act = postResult (refuse (taken s p code arg)) p rOOS code := by
  simp [command, hs, (cmdBusy_noteWrite p (canon_pages hc)).trans hb, ho, taken]

theorem result_postResult {s : State} {p code echo : Nat} (h : smRising none s.pages = true) (hc : code < 256) (he : echo < 256) :
    (getPage (postResult s p code echo) p).result = BitVec.ofNat 32 (code + 256 + 65536 * echo) := by
  rw [postResult, getPage_setPage_same _ _ h, Nat.mod_eq_of_lt hc, Nat.mod_eq_of_lt he, Nat.mul_comm echo]

/-- The command `c` is a write of a code to the page's `BLK_CMD`: it passes the page's gate, and what a refusal out of service
records is no page's header. -/
def PassesGate (c : Instr) (p code : Nat) : Prop :=
  code < 256 ∧ ∀ s, ∃ arg unready refuse act, exec c s = .next (command s p code arg unready refuse act) ∧
    ∀ v : State, v.oos = true → (refuse v).pages = v.pages

/-- A code that the page does not define is a command whose only effect is its result; an operation that `SYNC_EXEC` does not
know is none of these, for page 072h defines `SYNC_EXEC`'s code. -/
theorem exec_undefinedCommand {page : PageIx} {code : Byte} (arg : Arg) (s : State) (h0 : code ≠ 0)
    (hd : code.toNat ∉ cmdDefined page.toNat) :
    exec (.undefinedCommand page code arg) s =
      .next (command s page.toNat code.toNat arg false id (fun s => postResult s page.toNat rUNSUP code.toNat)) := by
  have hsync : ¬(page.toNat = 0x072 ∧ code.toNat = 0x72 ∧ !([1, 2, 3, 4, 5, 6, 8, 9, 0xA, 0xB].contains (arg.toNat % 16))) := by
    rintro ⟨hp, hc, -⟩
    rw [hp, hc] at hd
    exact hd (by decide)
  have hcode : ¬(code.toNat = 0 ∨ (cmdDefined page.toNat).contains code.toNat = true) := by
    rw [List.contains_iff_mem]
    exact not_or.mpr ⟨fun h => h0 (BitVec.eq_of_toNat_eq h), hd⟩
  calc exec (.undefinedCommand page code arg) s
    _ = execUndefinedCommand page code arg s := rfl
    _ = _ := by simp only [execUndefinedCommand, if_neg hsync, if_neg hcode]

/-- Every command of the host passes the gate of its page with its code. -/
theorem hostCommand_passesGate {c : Instr} {p code : Nat} (h : hostCommand c = some (p, code)) : PassesGate c p code := by
  cases c
  case undefinedCommand page code arg =>
    simp only [hostCommand, Option.ite_none_left_eq_some, not_or, List.contains_iff_mem] at h
    obtain ⟨⟨h0, hd⟩, h⟩ := h
    cases h
    exact ⟨code.isLt, fun s => ⟨_, _, _, _, exec_undefinedCommand arg s h0 hd, fun _ _ => rfl⟩⟩
  case siteMapApply arg =>
    cases h
    exact ⟨by decide, fun s => ⟨_, _, _, _, exec_siteMapApply arg s, fun v hv => by simp [hv]⟩⟩
  -- `hostCommand` answers none for the commands of no page; each of the others is `command` with its page and code.
  all_goals cases h
  all_goals exact ⟨by decide, fun s => ⟨_, _, _, _, rfl, fun _ _ => rfl⟩⟩

/-- Settles O12: the gate ends at the running command, before the code is looked at. -/
theorem busyPageIgnoresCommands : Obligations.BusyPageIgnoresCommands := by
  intro c s p code hc hcmd hs hd
  obtain ⟨-, hgate⟩ := hostCommand_passesGate hcmd
  obtain ⟨arg, u, refuse, act, hexec, -⟩ := hgate s
  refine ⟨?_, ?_⟩
  · rw [hexec, command_busy hc hs (cmdBusy_of_not_isDone hd)]
  · rw [getPage_noteWrite_same p (canon_pages hc)]

/-- Settles O13: the gate refuses before the command's own checks, and what the refusal records is no page's header. -/
theorem outOfServiceRefusesCommands : Obligations.OutOfServiceRefusesCommands := by
  intro c s p code hc hcmd hs hb ho
  obtain ⟨hcode, hgate⟩ := hostCommand_passesGate hcmd
  obtain ⟨arg, u, refuse, act, hexec, hpages⟩ := hgate s
  refine ⟨_, hexec.trans (congrArg _ (command_oos hc hs hb ho)), ?_⟩
  have hrise : smRising none (refuse (taken s p code arg)).pages = true := by
    rw [hpages (taken s p code arg) ho]
    exact canon_pages (taken_canon p code arg hc)
  exact result_postResult hrise (by decide) hcode

/-- Settles O11: NOP answers in every condition of the device, an undefined code where the page takes a command. -/
theorem nopAndUndefinedCodes : Obligations.NopAndUndefinedCodes := by
  refine ⟨fun page arg s hc hs hb => ?_, fun page code arg s ht h0 hd => ?_⟩
  · calc exec (.nop page arg) s
      _ = execNop page arg s := rfl
      _ = _ := by simp [execNop, guarded, hs, (cmdBusy_noteWrite _ (canon_pages hc)).trans hb, taken, rOK]
  · rw [exec_undefinedCommand arg s h0 hd, command_takes ht]
    rfl

/-! Events that latch. -/

theorem raiseOwned_silent {s : State} {p e : Nat} (info : Nat) (owners : List Nat)
    (h : (getPage s p).sticky.getLsbD e = true ∨ (getPage s p).enable.getLsbD e = false) :
    raiseOwned s p e info owners = latch s p e info := by
  rcases h with h | h <;> simp [raiseOwned, raiseWith, h]

/-- A page with an event latched in it whose detail is `info`; `first`: the record takes it (02 R61, R66). -/
def eventLatched (s : State) (x : Page) (e info : Nat) (first : Bool) : Page :=
  let y := { x with sticky := x.sticky ||| BitVec.ofNat 16 (2 ^ e) }
  if first then
    { y with errFirst := BitVec.ofNat 32 (e + 256 * (now s % 2 ^ 23) + 2 ^ 31), errInfo := BitVec.ofNat 32 info, errAt := s.fcyc }
  else y

theorem getPage_latch {s : State} (p e info : Nat) (h : smRising none s.pages = true) :
    getPage (latch s p e info) p = eventLatched s (getPage s p) e info (firstEvent s (getPage s p) e) :=
  getPage_setPage_same _ _ h

theorem getLsbD_ofNat_two_pow {e : Nat} (he : e < 16) (f : Nat) : (BitVec.ofNat 16 (2 ^ e)).getLsbD f = decide (f = e) := by
  rw [BitVec.getLsbD_ofNat, Nat.testBit_two_pow]
  by_cases h : f = e
  · simp [h, he]
  · simp [h, Ne.symm h]

theorem sticky_eventLatched (s : State) (x : Page) {e : Nat} (he : e < 16) (info : Nat) (first : Bool) (f : Nat) :
    (eventLatched s x e info first).sticky.getLsbD f = (x.sticky.getLsbD f || decide (f = e)) := by
  have hs : (eventLatched s x e info first).sticky = x.sticky ||| BitVec.ofNat 16 (2 ^ e) := by cases first <;> rfl
  rw [hs, BitVec.getLsbD_or, getLsbD_ofNat_two_pow he]

theorem firstEvent_iff (s : State) (x : Page) (e : Nat) : firstEvent s x e = true ↔
    x.sticky = 0 ∨ (x.sticky.getLsbD e = false ∧ x.errAt = s.fcyc ∧ e < fld x.errFirst 3 0) := by
  simp [firstEvent, and_assoc]

/-- The fields of `ERR_FIRST` (02 R66): the event in bits 3:0, the count in bits 30:8, `VALID`. -/
theorem fields_errFirst {e n : Nat} (he : e < 16) (hn : n < 2 ^ 23) :
    fld (BitVec.ofNat 32 (e + 256 * n + 2 ^ 31)) 3 0 = e ∧ fld (BitVec.ofNat 32 (e + 256 * n + 2 ^ 31)) 7 4 = 0 ∧
    fld (BitVec.ofNat 32 (e + 256 * n + 2 ^ 31)) 31 31 = 1 ∧ fld (BitVec.ofNat 32 (e + 256 * n + 2 ^ 31)) 30 8 = n := by
  have h : (BitVec.ofNat 32 (e + 256 * n + 2 ^ 31)).toNat = e + 256 * n + 2 ^ 31 := by
    rw [BitVec.toNat_ofNat]; omega
  simp only [fld, bits, h]
  omega

/-- Settles O17: the page after the event is `eventLatched`, and `firstEvent` says whether the record takes it. -/
theorem eventsLatch : Obligations.EventsLatch := by
  intro s p e info hc he
  have hpage := getPage_latch p e info (canon_pages hc)
  have hsticky := sticky_eventLatched s (getPage s p) he info (firstEvent s (getPage s p) e)
  refine ⟨fun owners h => raiseOwned_silent info owners h, ?_, fun f hf => ?_, fun hfirst => ?_, fun hs hlate => ?_, rfl⟩
  · simp [hpage, hsticky]
  · simp [hpage, hsticky, hf]
  · rw [(firstEvent_iff s _ e).mpr hfirst] at hpage
    obtain ⟨hindex, hzero, hvalid, hcount⟩ := fields_errFirst he (Nat.mod_lt (now s) (by decide : 0 < 2 ^ 23))
    rw [hpage]
    exact ⟨hindex, hzero, hvalid, hcount, rfl⟩
  · have hnot : firstEvent s (getPage s p) e = false := by
      rw [Bool.eq_false_iff, ne_eq, firstEvent_iff]
      rintro (h | ⟨hclear, hcycle, hlow⟩)
      · exact hs h
      · rcases hlate with h | h | h
        · exact absurd (hclear.symm.trans h) (by decide)
        · exact h hcycle
        · exact absurd hlow (Nat.not_lt.mpr h)
    rw [hpage, hnot]
    exact ⟨rfl, rfl⟩

/-! Reads of registers. -/

theorem readWord_plain {s : State} {p o : Nat} (hsnap : (getPage s p).snap = none) (hlo : pairLo p o = false) :
    readWord s p o = (readReg s p o, s) := by
  simp [readWord, hlo, hsnap]

/-- A page that keeps the upper word of a value whose lower word has been read (02 R56). -/
def keepsUpper (s : State) (p o : Nat) : State := setPage s p { getPage s p with snap := some (o + 4, readReg s p (o + 4)) }

theorem snap_keepsUpper {s : State} {p o : Nat} (hc : s.canon = true) :
    (getPage (keepsUpper s p o) p).snap = some (o + 4, readReg s p (o + 4)) :=
  congrArg Page.snap (getPage_setPage_same p _ (canon_pages hc))

theorem readWord_lower {s : State} {p o : Nat} (hs : regServed s p = true) (hlo : pairLo p o = true) :
    readWord s p o = (readReg s p o, keepsUpper s p o) := by
  simp [readWord, hlo, hs, keepsUpper]

theorem readWord_upper {s : State} {p o : Nat} {w : Word} (hsnap : (getPage s p).snap = some (o, w)) (hlo : pairLo p o = false) :
    readWord s p o = (w, setPage s p { getPage s p with snap := none }) := by
  simp [readWord, hlo, hsnap]

/-- The host's read is answered with bytes. -/
def answered (s : State) (l : List Byte) : State := { s with resp := { code := 0, data := l } }

section
variable {s : State} {page : PageIx} {off : BitVec 12} {o : Nat}

/-- A 32-bit read answers with the word read. -/
theorem exec_lowerWordRead (hs : hostServed s = true) (ho : off.toNat = o) (h4 : o % 4 = 0) :
    exec (.lowerWordRead page ⟨off, false, false⟩) s =
      .next (answered (readWord s page.toNat o).2 (leBytes 4 (readWord s page.toNat o).1.toNat)) := by
  subst ho
  calc exec (.lowerWordRead page ⟨off, false, false⟩) s
    _ = execLowerWordRead page ⟨off, false, false⟩ s := rfl
    _ = _ := by simp [execLowerWordRead, guarded, hs, h4, readWords, answered]

/-- A 64-bit read answers with its two words, the lower one read first (02 R52). -/
theorem exec_lowerWordRead_wide (hs : hostServed s = true) (ho : off.toNat = o) (h8 : o % 8 = 0) :
    exec (.lowerWordRead page ⟨off, false, true⟩) s =
      .next (answered (readWord (readWord s page.toNat o).2 page.toNat (o + 4)).2
        (leBytes 4 (readWord s page.toNat o).1.toNat ++
          leBytes 4 (readWord (readWord s page.toNat o).2 page.toNat (o + 4)).1.toNat)) := by
  subst ho
  calc exec (.lowerWordRead page ⟨off, false, true⟩) s
    _ = execLowerWordRead page ⟨off, false, true⟩ s := rfl
    _ = _ := by simp [execLowerWordRead, guarded, hs, h8, readWords, answered]

theorem exec_lowerWordRead_bar2 (hs : hostServed s = true) (h4 : off.toNat % 4 = 0) :
    exec (.lowerWordRead page ⟨off, true, false⟩) s = .next (answered s [0, 0, 0, 0]) := by
  calc exec (.lowerWordRead page ⟨off, true, false⟩) s
    _ = execLowerWordRead page ⟨off, true, false⟩ s := rfl
    _ = _ := by simp [execLowerWordRead, guarded, hs, h4, leBytes, answered]

/-- The next read of the upper word gives the word kept. -/
theorem readWord_keepsUpper {p : Nat} (l : List Byte) (hc : s.canon = true) (hhi : pairLo p (o + 4) = false) :
    (readWord (answered (keepsUpper s p o) l) p (o + 4)).1 = readReg s p (o + 4) :=
  congrArg Prod.fst (readWord_upper (s := answered (keepsUpper s p o) l) (snap_keepsUpper hc) hhi)

/-- The lower word's read keeps the upper word for the next read. -/
theorem lowerWordRead_pair {p : Nat} (hp : page.toNat = p) (ho : off.toNat = o) (hc : s.canon = true) (hs : hostServed s = true)
    (h4 : o % 4 = 0) (hlo : pairLo p o = true) (hreg : regServed s p = true) (hhi : pairLo p (o + 4) = false) :
    ∃ w, exec (.lowerWordRead page ⟨off, false, false⟩) s = .next w ∧
      w.resp = { code := 0, data := leBytes 4 (readReg s p o).toNat } ∧ w = { s with pages := w.pages, resp := w.resp } ∧
      ∀ off2 : BitVec 12, off2.toNat = o + 4 → ∃ x, exec (.lowerWordRead page ⟨off2, false, false⟩) w = .next x ∧
        x.resp = { code := 0, data := leBytes 4 (readReg s p (o + 4)).toNat } := by
  subst hp
  have hexec := exec_lowerWordRead (page := page) hs ho h4
  rw [readWord_lower hreg hlo] at hexec
  refine ⟨_, hexec, rfl, rfl, fun off2 h2 => ?_⟩
  have hnext := exec_lowerWordRead (s := answered (keepsUpper s page.toNat o) (leBytes 4 (readReg s page.toNat o).toNat))
    (page := page) hs h2 (by omega)
  rw [readWord_keepsUpper _ hc hhi] at hnext
  exact ⟨_, hnext, rfl⟩

/-- A 64-bit read gives both words of a value. -/
theorem lowerWordRead_wide {p : Nat} (hp : page.toNat = p) (ho : off.toNat = o) (hc : s.canon = true) (hs : hostServed s = true)
    (h8 : o % 8 = 0) (hlo : pairLo p o = true) (hreg : regServed s p = true) (hhi : pairLo p (o + 4) = false) :
    ∃ w, exec (.lowerWordRead page ⟨off, false, true⟩) s = .next w ∧ w = { s with pages := w.pages, resp := w.resp } ∧
      w.resp = { code := 0, data := leBytes 4 (readReg s p o).toNat ++ leBytes 4 (readReg s p (o + 4)).toNat } := by
  subst hp
  have hexec := exec_lowerWordRead_wide (page := page) hs ho h8
  rw [readWord_lower hreg hlo, readWord_upper (snap_keepsUpper hc) hhi] at hexec
  exact ⟨_, hexec, rfl, rfl⟩

end

/-! Writes of registers. -/

section
variable {s : State} {p o : Nat}

theorem hubServed_of_pageServed (h : pageServed s p = true) : hubServed s p = true := by
  simp only [pageServed, Bool.and_eq_true] at h
  obtain ⟨⟨⟨hheader, hhost⟩, -⟩, -⟩ := h
  simp [hubServed, hheader, hhost]

/-- The upper word held for a write of the word, which only the lower word of a 64-bit value completes (02 R57). -/
def upperFor (s : State) (p o : Nat) : Option Word := if pairRW p o then heldUpper s p o else none

/-- A word written, after its upper word where there is one. -/
def writeWithUpper (s : State) (p o : Nat) (v : Word) : Option Word → State
  | some w => writeReg (writeReg s p (o + 4) w) p o v
  | none => writeReg s p o v

/-- A write that is no command of its own takes the upper word held for it along. -/
theorem writeWord_served (v : Word) (hs : pageServed s p = true) (ho : ownWrite p o = false) :
    writeWord s p o v = writeWithUpper (noteWrite s p) p o v (upperFor s p o) := by
  simp only [ownWrite, Bool.or_eq_false_iff, Bool.and_or_distrib_left, beq_eq_false_iff_ne] at ho
  obtain ⟨⟨⟨⟨⟨⟨⟨⟨⟨hcontrol, hcmd⟩, hsticky⟩, hcnt⟩, hupper⟩, ⟨hrepair, hfirst⟩, hseed⟩, hlaunch⟩, hmode⟩, hinject⟩, hmap⟩ := ho
  simp only [writeWord, hs, hcontrol, hcmd, hsticky, hcnt, hupper, hrepair, hfirst, hseed, hlaunch, hmode, hinject, hmap,
    Bool.false_eq_true, if_false, if_true]
  rfl

/-- The words of a 64-bit value lie past the header. -/
theorem ne_cmd_of_pairRW (h : pairRW p o = true) : o ≠ 0x10 := by
  rintro rfl
  unfold pairRW at h
  repeat' split at h
  all_goals exact absurd h (by decide)

end

section
variable {s : State} {page : PageIx} {off : BitVec 12} {p o : Nat}

theorem exec_partialRegisterWrite (hp : page.toNat = p) (hs : hubServed s p = true) (h4 : off.toNat % 4 = 0) :
    exec (.partialRegisterWrite page off) s = .next (raiseOpen s 0x000 0) := by
  subst hp
  calc exec (.partialRegisterWrite page off) s
    _ = execPartialRegisterWrite page off s := rfl
    _ = _ := by simp [execPartialRegisterWrite, guarded, hs, h4]

theorem exec_upperWordWrite (v : Word) (hp : page.toNat = p) (ho : off.toNat = o) (hs : pageServed s p = true) (h4 : 4 ≤ o)
    (hlo : pairRW p (o - 4) = true) :
    exec (.upperWordWrite page off v) s = .next (if rosterHeld s p o then postControl (noteWrite s p) p rBUSY
      else setPage s p { getPage s p with snap := none, held := some (o, v) }) := by
  subst hp ho
  calc exec (.upperWordWrite page off v) s
    _ = execUpperWordWrite page off v s := rfl
    _ = _ := by simp [execUpperWordWrite, guarded, hs, h4, hlo]

theorem exec_registerWrite_word (v : Word) (hp : page.toNat = p) (ho : off.toNat = o) (hs : pageServed s p = true)
    (h4 : o % 4 = 0) (hown : ownWrite p o = false) :
    exec (.registerWrite page off (.word v)) s = .next (writeWithUpper (noteWrite s p) p o v (upperFor s p o)) := by
  subst hp ho
  calc exec (.registerWrite page off (.word v)) s
    _ = execRegisterWrite page off (.word v) s := rfl
    _ = .next (writeWord s page.toNat off.toNat v) := by simp [execRegisterWrite, guarded, hs, h4, hown]
    _ = _ := congrArg _ (writeWord_served v hs hown)

theorem exec_registerWrite_wide (v w : Word) (hp : page.toNat = p) (ho : off.toNat = o) (hs : pageServed s p = true)
    (h8 : o % 8 = 0) (hpair : pairRW p o = true) (htile : isTilePage p = false) (hlaunch : p ≠ 0x07C) :
    exec (.registerWrite page off (.wide v w)) s = .next (writeWithUpper (noteWrite s p) p o v (some w)) := by
  subst hp ho
  calc exec (.registerWrite page off (.wide v w)) s
    _ = execRegisterWrite page off (.wide v w) s := rfl
    _ = .next (writeWide s page.toNat off.toNat v w) := by
      simp [execRegisterWrite, guarded, hubServed_of_pageServed hs, h8, ne_cmd_of_pairRW hpair]
    _ = _ := by simp [writeWide, hpair, htile, hlaunch, hs, writeWithUpper]

end

/-! The clearing of events. -/

/-- A page after a write of `v` to `EVT_STICKY` in an fcycle in which no event of it occurs (02 R61, R66). -/
def eventsCleared (x : Page) (v : Word) : Page :=
  let y := { x with snap := none, held := none, sticky := x.sticky &&& ~~~(v.setWidth 16 &&& ~~~x.raw) }
  if y.sticky = 0 then { y with errFirst := 0, errInfo := 0 } else y

theorem sticky_eventsCleared {x : Page} {v : Word} (h : x.raw &&& v.setWidth 16 = 0) :
    (eventsCleared x v).sticky = x.sticky &&& ~~~(v.setWidth 16) := by
  have hmask : v.setWidth 16 &&& ~~~x.raw = v.setWidth 16 := by
    rw [BitVec.and_comm] at h
    ext i hi
    have hbit := congrArg (fun b => b[i]) h
    simpa using hbit
  have hsticky : (eventsCleared x v).sticky = x.sticky &&& ~~~(v.setWidth 16 &&& ~~~x.raw) := by
    unfold eventsCleared; dsimp only; split <;> rfl
  rw [hsticky, hmask]

theorem record_eventsCleared {x : Page} {v : Word} (h : (eventsCleared x v).sticky = 0) :
    (eventsCleared x v).errFirst = 0 ∧ (eventsCleared x v).errInfo = 0 := by
  unfold eventsCleared at h ⊢
  dsimp only at h ⊢
  split at h
  · simp [*]
  · contradiction

theorem foldl_setRg_pages (p : Nat) (o : Nat → Nat) (w : State → Nat → Word) (l : List Nat) (s : State) :
    (l.foldl (fun s n => setRg s p (o n) (w s n)) s).pages = s.pages := by
  induction l generalizing s with
  | nil => rfl
  | cons n l ih => exact ih _

/-- The records that the clearing of events re-arms lie outside the pages' headers. -/
theorem rearmRecords_pages (s : State) (p : Nat) (sticky z : Nat → Bool) : (rearmRecords s p sticky z).pages = s.pages := by
  have hclear := fun (o n : Nat) (s : State) => foldl_setRg_pages p (fun i => o + 4 * i) (fun _ _ => 0) (List.range n) s
  simp only [rearmRecords, apply_ite State.pages, hclear, setRgF_pages, ite_self]
  split
  · split
    · split
      · rw [updTile_pages, hclear]
      · exact hclear ..
    · rfl
  · rfl

theorem getPage_congr {s t : State} (h : s.pages = t.pages) (p : Nat) : getPage s p = getPage t p := by rw [getPage, h, getPage]

theorem exec_evtStickyClear {s : State} {page : PageIx} {p : Nat} (v : Word) (hp : page.toNat = p) (hc : s.canon = true)
    (hs : pageServed s p = true) :
    ∃ w, exec (.evtStickyClear page v []) s = .next w ∧ getPage w p = eventsCleared (getPage s p) v := by
  subst hp
  have hnone : BitVec.ofNat 16 (natOfBits ((List.range 16).map (fun _ => false))) = 0#16 := by decide
  refine ⟨_, rfl, ?_⟩
  rw [if_pos hs]
  simp only [List.foldl_nil, List.any_nil, hnone, BitVec.or_zero, getPage_noteWrite_same _ (canon_pages hc)]
  rw [getPage_congr (rearmRecords_pages _ _ _ _), getPage_setPage_same _ _ (canon_pages (noteWrite_canon _ hc))]
  rfl

/-! The clearing of a counter. -/

section
variable {s : State} {page : PageIx} {p : Nat}

theorem exec_counterClear_nonzero {v : Word} (hp : page.toNat = p) (hs : pageServed s p = true) (hv : ¬v = 0#32) :
    exec (.counterClear page v []) s = .next (noteWrite s p) := by
  subst hp
  calc exec (.counterClear page v []) s
    _ = execCounterClear page v [] s := rfl
    _ = _ := by simp [execCounterClear, guarded, hs, hv]

/-- A write of 0 sets the selected counter, and beside it at most registers. -/
theorem exec_counterClear_zero (hp : page.toNat = p) (hs : pageServed s p = true)
    (hdef : cntDefined p (getPage s p).cntSel.toNat = true) :
    ∃ w, exec (.counterClear page 0 []) s = .next w ∧ w.cnt = (setCnt s p (getPage s p).cntSel.toNat {}).cnt := by
  subst hp
  refine ⟨_, rfl, ?_⟩
  simp only [if_pos hs, hdef, Bool.not_true, Bool.false_eq_true, if_false, ne_eq, not_true_eq_false, List.foldl_nil]
  split
  · rfl
  · split <;> rfl

end

/-- Settles O47, from what each access of a page does: a read of one word or of two, a write with or without its upper word,
the clearing of events and that of a counter. -/
theorem registerAccesses : Obligations.RegisterAccesses := by
  intro s u page off p o v hp ho h4 hc
  have hp := hp.symm
  have ho := ho.symm
  refine ⟨fun hs => ⟨fun hsnap hlo => ?_, exec_lowerWordRead_bar2 hs (ho ▸ h4), fun hlo hreg hhi => ⟨?_, fun h8 => ?_⟩⟩,
    fun hs => exec_partialRegisterWrite hp hs (ho ▸ h4), ?_⟩
  · rw [exec_lowerWordRead hs ho h4, hp, readWord_plain hsnap hlo, answered]
  · exact lowerWordRead_pair hp ho hc hs h4 hlo hreg hhi
  · exact lowerWordRead_wide hp ho hc hs h8 hlo hreg hhi
  rintro hs rfl
  refine ⟨fun hle hlo => ?_, fun hown hnone => ?_, fun hown hpair w hheld => ?_, fun w hpair h8 htile hlaunch => ?_,
    fun hraw => ?_, fun hv => exec_counterClear_nonzero hp hs hv, fun hdef => ?_⟩
  · rw [exec_upperWordWrite v hp ho hs hle hlo]
    exact ⟨fun h => by rw [h]; rfl, fun h => by rw [h]; rfl⟩
  · have hupper : upperFor s p o = none := by
      rcases hnone with h | h <;> simp [upperFor, h]
    rw [exec_registerWrite_word v hp ho hs h4 hown, hupper]
    rfl
  · have hupper : upperFor s p o = some w := by rw [upperFor, if_pos hpair, hheld]
    rw [exec_registerWrite_word v hp ho hs h4 hown, hupper]
    rfl
  · exact exec_registerWrite_wide v w hp ho hs h8 hpair htile hlaunch
  · obtain ⟨w, hexec, hpage⟩ := exec_evtStickyClear v hp hc hs
    refine ⟨w, hexec, ?_, ?_⟩
    · rw [hpage, sticky_eventsCleared hraw]
    · rw [hpage]
      exact record_eventsCleared
  · obtain ⟨w, hexec, hcnt⟩ := exec_counterClear_zero hp hs hdef
    refine ⟨w, hexec, ?_, fun k hk => ?_⟩
    · rw [getCnt, hcnt]
      exact getCnt_setCnt_same p _ {} (canon_cnt hc)
    · rw [hcnt]
      exact smGet_smSet_ne (fun _ => ({} : Counter)) s.cnt {} hk (canon_cnt hc)

end Sys2Proof.Machine

/-! What one element of a Skink lane instruction comes to (09 R283, R284, R295, R296): the codes of an element as bit vectors of
its width, the shifts and logic operations on them, and the integer results wrapped or clamped. -/

namespace Sys2Proof.Machine

/-! Element widths and vectors. -/

theorem kWidth_cases (ty : Nat) : kWidth ty = 8 ∨ kWidth ty = 16 ∨ kWidth ty = 32 := by unfold kWidth; split <;> simp

theorem kWidth_pos (ty : Nat) : 0 < kWidth ty := by have := kWidth_cases ty; omega

theorem kWidth_le (ty : Nat) : kWidth ty ≤ 32 := by have := kWidth_cases ty; omega

theorem kWidth_mul_kElems (ty : Nat) : kWidth ty * kElems ty = 2048 := by
  rcases kWidth_cases ty with h | h | h <;> simp [kElems, h]

theorem vElem_eq_extractLsb' (v : BitVec 2048) (w i : Nat) : vElem v w i = (v.extractLsb' (w * i) w).toNat := by
  rw [BitVec.extractLsb'_toNat, Nat.shiftRight_eq_div_pow, vElem]

/-- The elements of a number, put together again. -/
theorem vOfElems_map_div_range (w n : Nat) : ∀ v : Nat,
    vOfElems w ((List.range n).map (fun i => v / 2 ^ (w * i) % 2 ^ w)) = v % 2 ^ (w * n) := by
  induction n with
  | zero => intro v; simp [vOfElems, Nat.mod_one]
  | succ n ih =>
    intro v
    have htail : (fun i => v / 2 ^ (w * i) % 2 ^ w) ∘ Nat.succ = fun i => v / 2 ^ w / 2 ^ (w * i) % 2 ^ w := by
      funext i
      simp [Nat.div_div_eq_div_mul, ← Nat.pow_add, Nat.mul_succ, Nat.add_comm]
    rw [List.range_succ_eq_map, List.map_cons, List.map_map, htail, vOfElems, ih, Nat.mul_succ, Nat.add_comm (w * n),
      Nat.pow_add, Nat.mod_mul]
    simp

theorem vOfElems_map_vElem (v : BitVec 2048) (ty : Nat) :
    vOfElems (kWidth ty) ((List.range (kElems ty)).map (vElem v (kWidth ty))) = v.toNat := by
  calc vOfElems (kWidth ty) ((List.range (kElems ty)).map (vElem v (kWidth ty)))
    _ = v.toNat % 2 ^ (kWidth ty * kElems ty) := vOfElems_map_div_range ..
    _ = v.toNat := by rw [kWidth_mul_kElems, Nat.mod_eq_of_lt v.isLt]

/-! Shifts and rotates (R296). -/

section
variable {w a n : Nat}

theorem shiftLeft_eq_toNat (w a n : Nat) : shiftLeft w a n % 2 ^ w = (BitVec.ofNat w a <<< n).toNat := by
  simp [shiftLeft, Nat.shiftLeft_eq]

theorem shiftRight_eq_toNat (h : a < 2 ^ w) : shiftRight w a n % 2 ^ w = (BitVec.ofNat w a >>> n).toNat := by
  have hlt : a / 2 ^ n < 2 ^ w := Nat.lt_of_le_of_lt (Nat.div_le_self ..) h
  simp [shiftRight, Nat.shiftRight_eq_div_pow, Nat.mod_eq_of_lt h, Nat.mod_eq_of_lt hlt]

theorem toBits_eq_toNat (w : Nat) (v : Int) : toBits w v = (BitVec.ofInt w v).toNat := (BitVec.toNat_ofInt v).symm

theorem signExt_eq_toInt (hw : 0 < w) (a : Nat) : signExt w a = (BitVec.ofNat w a).toInt := by
  obtain ⟨k, rfl⟩ := Nat.exists_eq_add_of_lt hw
  simp only [signExt, BitVec.toInt_eq_toNat_cond, BitVec.toNat_ofNat, Nat.zero_add, Nat.add_sub_cancel]
  have hsign : a % 2 ^ (k + 1) < 2 ^ k ↔ 2 * (a % 2 ^ (k + 1)) < 2 ^ (k + 1) := by rw [Nat.pow_succ]; omega
  simp only [hsign]

theorem shiftArith_eq_toNat (hw : 0 < w) (a n : Nat) :
    shiftArith w a n % 2 ^ w = ((BitVec.ofNat w a).sshiftRight n).toNat := by
  rw [shiftArith, signExt_eq_toInt hw, Int.fdiv_eq_ediv_of_nonneg _ (Int.natCast_nonneg _), ← Int.shiftRight_eq_div_pow,
    toBits_eq_toNat, ← BitVec.sshiftRight_eq, Nat.mod_eq_of_lt (BitVec.isLt _)]

/-- The bits moved out on the left lie below the bits that stay. -/
theorem rotateLeft_eq_toNat (h : a < 2 ^ w) (hn : n < w) :
    rotateLeft w a n % 2 ^ w = ((BitVec.ofNat w a).rotateLeft n).toNat := by
  have hpow : 2 ^ w = 2 ^ (w - n) * 2 ^ n := by rw [← Nat.pow_add, Nat.sub_add_cancel (Nat.le_of_lt hn)]
  have hstay : a <<< n % 2 ^ w = (a % 2 ^ (w - n)) <<< n := by
    rw [Nat.shiftLeft_eq, Nat.shiftLeft_eq, hpow, Nat.mul_mod_mul_right]
  have hout : a / 2 ^ (w - n) < 2 ^ n := Nat.div_lt_of_lt_mul (hpow ▸ h)
  have hsum : (a % 2 ^ (w - n)) <<< n + a / 2 ^ (w - n) < 2 ^ w := by
    have hle : (a % 2 ^ (w - n) + 1) * 2 ^ n ≤ 2 ^ w :=
      hpow ▸ Nat.mul_le_mul_right _ (Nat.mod_lt a (Nat.two_pow_pos (w - n)))
    rw [Nat.shiftLeft_eq]
    rw [Nat.add_mul, Nat.one_mul] at hle
    omega
  calc rotateLeft w a n % 2 ^ w
    _ = (a <<< n % 2 ^ w + a / 2 ^ (w - n)) % 2 ^ w := by rw [rotateLeft, Nat.shiftLeft_eq, Nat.mod_add_mod]
    _ = (a % 2 ^ (w - n)) <<< n + a / 2 ^ (w - n) := by rw [hstay, Nat.mod_eq_of_lt hsum]
    _ = a <<< n % 2 ^ w ||| a >>> (w - n) := by
      rw [Nat.shiftLeft_add_eq_or_of_lt hout, hstay, Nat.shiftRight_eq_div_pow]
    _ = _ := by rw [BitVec.toNat_rotateLeft, BitVec.toNat_ofNat, Nat.mod_eq_of_lt h, Nat.mod_eq_of_lt hn]

end

/-! Logic operations (R296). -/

/-- The ones' complement of a code of at most 32 bits is, in the low bits, the complement of the element. -/
theorem notCode_mod {w : Nat} (h : w ≤ 32) (x : BitVec w) : notCode x.toNat % 2 ^ w = (~~~x).toNat := by
  obtain ⟨k, hk⟩ := Nat.exists_eq_add_of_le h
  have hx := x.isLt
  have hle : 2 ^ w * 1 ≤ 2 ^ w * 2 ^ k := Nat.mul_le_mul_left _ (Nat.two_pow_pos k)
  have hsplit : notCode x.toNat = 2 ^ w - 1 - x.toNat + 2 ^ w * (2 ^ k - 1) := by
    rw [notCode, hk, Nat.pow_add, Nat.mul_sub]
    omega
  rw [hsplit, Nat.add_mul_mod_self_left, BitVec.toNat_not, Nat.mod_eq_of_lt (by omega)]

theorem extractLsb'_not_of_le {n s len : Nat} (x : BitVec n) (h : s + len ≤ n) :
    (~~~x).extractLsb' s len = ~~~(x.extractLsb' s len) := by
  ext i hi
  have : s + i < n := by omega
  simp [this]

/-- A logic operation on codes, and the one on vectors that it is on each bit. -/
structure BitwiseOn (f : Nat → Nat → Nat) (g : ∀ {n : Nat}, BitVec n → BitVec n → BitVec n) : Prop where
  code : ∀ {w : Nat} (x y : BitVec w), w ≤ 32 → f x.toNat y.toNat % 2 ^ w = (g x y).toNat
  extract : ∀ {n s len : Nat} (p q : BitVec n), s + len ≤ n →
    (g p q).extractLsb' s len = g (p.extractLsb' s len) (q.extractLsb' s len)

theorem bitwiseOn_and : BitwiseOn (fun a b => a &&& b) (fun x y => x &&& y) :=
  ⟨fun x y _ => Nat.mod_eq_of_lt (x &&& y).isLt, fun _ _ _ => BitVec.extractLsb'_and⟩

theorem bitwiseOn_or : BitwiseOn (fun a b => a ||| b) (fun x y => x ||| y) :=
  ⟨fun x y _ => Nat.mod_eq_of_lt (x ||| y).isLt, fun _ _ _ => BitVec.extractLsb'_or⟩

theorem bitwiseOn_xor : BitwiseOn (fun a b => a ^^^ b) (fun x y => x ^^^ y) :=
  ⟨fun x y _ => Nat.mod_eq_of_lt (x ^^^ y).isLt, fun _ _ _ => BitVec.extractLsb'_xor⟩

theorem bitwiseOn_not : BitwiseOn (fun a _ => notCode a) (fun x _ => ~~~x) :=
  ⟨fun x _ hw => notCode_mod hw x, fun p _ h => extractLsb'_not_of_le p h⟩

theorem bitwiseOn_andNot : BitwiseOn (fun a b => a &&& notCode b) (fun x y => x &&& ~~~y) :=
  ⟨fun x y hw => by rw [Nat.and_mod_two_pow, notCode_mod hw, Nat.mod_eq_of_lt x.isLt, BitVec.toNat_and],
    fun p q h => by rw [BitVec.extractLsb'_and, extractLsb'_not_of_le q h]⟩

/-- Whatever the type, a logic operation of every element is the operation of the whole vectors. -/
theorem vOfElems_elLogic {f : Nat → Nat → Nat} {g : ∀ {n : Nat}, BitVec n → BitVec n → BitVec n} (hfg : BitwiseOn f g)
    (w : Nat) (m : Bool) (c : Nat) (p q : BitVec 2048) :
    vOfElems (kWidth (kType w)) ((List.range (kElems (kType w))).map (fun i =>
      (elLogic f w m (vElem p (kWidth (kType w)) i) (vElem q (kWidth (kType w)) i) c).1)) = (g p q).toNat := by
  rw [← vOfElems_map_vElem (g p q) (kType w)]
  congr 1
  refine List.map_congr_left fun i hi => ?_
  have hin : kWidth (kType w) * i + kWidth (kType w) ≤ 2048 := by
    rw [← kWidth_mul_kElems (kType w), ← Nat.mul_succ]
    exact Nat.mul_le_mul_left _ (List.mem_range.mp hi)
  simp only [elLogic, vElem_eq_extractLsb']
  rw [hfg.code _ _ (kWidth_le _), hfg.extract p q hin]

/-! Integer results (R295). -/

theorem toBits_congr {w : Nat} {x y : Int} (h : x % (2 ^ w : Nat) = y % (2 ^ w : Nat)) : toBits w x = toBits w y :=
  congrArg Int.toNat h

theorem toBits_natCast (w n : Nat) : toBits w n = n % 2 ^ w := rfl

/-- The integer of a code is the code, modulo the width's power, signed or not. -/
theorem kInt_emod {w : Nat} (hw : 0 < w) (uns : Bool) (a : Nat) : kInt w uns a % (2 ^ w : Nat) = a % (2 ^ w : Nat) := by
  cases uns with
  | true =>
    have hcode : kInt w true a = (a : Int) % (2 ^ w : Nat) := rfl
    rw [hcode, Int.emod_emod]
  | false =>
    have hsigned : kInt w false a = (a : Int).bmod (2 ^ w) := by
      rw [← BitVec.toInt_ofNat', ← signExt_eq_toInt hw]; rfl
    rw [hsigned]
    exact Int.bmod_emod

theorem kInt_unsigned {w a : Nat} (h : a < 2 ^ w) : kInt w true a = a := by simp [kInt, Nat.mod_eq_of_lt h]

section
variable {w : Nat} {uns sat : Bool} {v : Int}

theorem kFit_wrap (w : Nat) (uns : Bool) (v : Int) : kFit w uns false v = (toBits w v, {}) := rfl

theorem kFit_inRange (hlo : kMin w uns ≤ v) (hhi : v ≤ kMax w uns) : kFit w uns sat v = (toBits w v, {}) := by
  simp [kFit, hlo, hhi]

theorem kFit_low (h : v < kMin w uns) : kFit w uns true v = (toBits w (kMin w uns), { sat := true }) := by simp [kFit, h]

theorem kFit_high (hlo : kMin w uns ≤ v) (hhi : kMax w uns < v) :
    kFit w uns true v = (toBits w (kMax w uns), { sat := true }) := by
  simp only [kFit, hhi, Int.not_lt.mpr hlo, or_true, decide_true, Bool.and_true, if_true, if_false]

end

theorem two_pow_eq_natCast (n : Nat) : (2 ^ n : Int) = ((2 ^ n : Nat) : Int) := (Int.natCast_pow 2 n).symm

/-- The greatest code of k bits, as the clamped results write it. -/
theorem toBits_pow_sub_one {w k : Nat} (h : k ≤ w) : toBits w (((2 ^ k : Nat) : Int) - 1) = 2 ^ k - 1 := by
  have hpos := Nat.two_pow_pos k
  have hle : 2 ^ k ≤ 2 ^ w := Nat.pow_le_pow_right (by decide) h
  have hcast : ((2 ^ k : Nat) : Int) - 1 = ((2 ^ k - 1 : Nat) : Int) := (Int.ofNat_sub hpos).symm
  rw [hcast, toBits_natCast, Nat.mod_eq_of_lt (by omega)]

theorem toBits_neg_half {w : Nat} (hw : 0 < w) : toBits w (-((2 ^ (w - 1) : Nat) : Int)) = 2 ^ (w - 1) := by
  obtain ⟨k, rfl⟩ := Nat.exists_eq_add_of_lt hw
  have hmod : -((2 ^ k : Nat) : Int) % (2 ^ (k + 1) : Nat) = (2 ^ k : Nat) % (2 ^ (k + 1) : Nat) := by
    have hneg : -((2 ^ k : Nat) : Int) = (2 ^ k : Nat) - (2 ^ (k + 1) : Nat) := by rw [Nat.pow_succ]; omega
    rw [hneg, Int.sub_emod_right]
  simp only [Nat.zero_add, Nat.add_sub_cancel]
  rw [toBits_congr hmod, toBits_natCast, Nat.mod_eq_of_lt (Nat.pow_lt_pow_right (by decide) (Nat.lt_succ_self k))]

/-- A natural number as an unsigned result with SAT. -/
theorem kFit_unsigned_natCast (w n : Nat) :
    kFit w true true n = if n < 2 ^ w then (n, {}) else (2 ^ w - 1, { sat := true }) := by
  have hlo : kMin w true ≤ n := Int.natCast_nonneg n
  have hmax : kMax w true = ((2 ^ w : Nat) : Int) - 1 := rfl
  split
  case isTrue h => rw [kFit_inRange hlo (by omega), toBits_natCast, Nat.mod_eq_of_lt h]
  case isFalse h => rw [kFit_high hlo (by omega), hmax, toBits_pow_sub_one (Nat.le_refl w)]

theorem kFit_unsigned_neg {w : Nat} {v : Int} (h : v < 0) : kFit w true true v = (0, { sat := true }) := by
  rw [kFit_low h, show kMin w true = (0 : Nat) from rfl, toBits_natCast, Nat.zero_mod]

section
variable {w a b : Nat} (m : Bool) (c : Nat)

/-- Without SAT the result is what any integer equal to it modulo the width's power has in its low bits. -/
theorem elInt_wrap {f : Int → Int → Int} {n : Nat} (hs : kSat w = false)
    (h : f (kInt (kWidth (kType w)) (kUns w) a) (kInt (kWidth (kType w)) (kUns w) b) %
      (2 ^ kWidth (kType w) : Nat) = n % (2 ^ kWidth (kType w) : Nat)) :
    elInt f w m a b c = (n % 2 ^ kWidth (kType w), {}) := by
  rw [elInt, hs, kFit_wrap, toBits_congr h, toBits_natCast]

theorem elInt_unsigned (f : Int → Int → Int) (hs : kSat w = true) (hu : kUns w = true) (ha : a < 2 ^ kWidth (kType w))
    (hb : b < 2 ^ kWidth (kType w)) : elInt f w m a b c = kFit (kWidth (kType w)) true true (f a b) := by
  rw [elInt, hs, hu, kInt_unsigned ha, kInt_unsigned hb]

theorem elInt_signed (f : Int → Int → Int) (hs : kSat w = true) (hu : kUns w = false) : elInt f w m a b c =
    kFit (kWidth (kType w)) false true (f (signExt (kWidth (kType w)) a) (signExt (kWidth (kType w)) b)) := by
  rw [elInt, hs, hu]; rfl

theorem elInt_wraps (hs : kSat w = false) (hb : b < 2 ^ kWidth (kType w)) :
    elInt (· + ·) w m a b c = ((a + b) % 2 ^ kWidth (kType w), {}) ∧
    elInt (· - ·) w m a b c = ((a + 2 ^ kWidth (kType w) - b) % 2 ^ kWidth (kType w), {}) ∧
    elInt (· * ·) w m a b c = (a * b % 2 ^ kWidth (kType w), {}) := by
  have hcode := kInt_emod (kWidth_pos (kType w)) (kUns w)
  refine ⟨elInt_wrap m c hs ?_, elInt_wrap m c hs ?_, elInt_wrap m c hs ?_⟩
  · rw [Int.add_emod, hcode a, hcode b, ← Int.add_emod, Int.natCast_add]
  · have hdiff : ((a + 2 ^ kWidth (kType w) - b : Nat) : Int) = a - b + (2 ^ kWidth (kType w) : Nat) := by omega
    rw [hdiff, Int.add_emod_right, Int.sub_emod, hcode a, hcode b, ← Int.sub_emod]
  · rw [Int.mul_emod, hcode a, hcode b, ← Int.mul_emod, Int.natCast_mul]

theorem elInt_clamps_unsigned (hs : kSat w = true) (hu : kUns w = true) (ha : a < 2 ^ kWidth (kType w))
    (hb : b < 2 ^ kWidth (kType w)) :
    elInt (· + ·) w m a b c =
      (if a + b < 2 ^ kWidth (kType w) then (a + b, {}) else (2 ^ kWidth (kType w) - 1, { sat := true })) ∧
    elInt (· - ·) w m a b c = (if b ≤ a then (a - b, {}) else (0, { sat := true })) ∧
    elInt (· * ·) w m a b c =
      (if a * b < 2 ^ kWidth (kType w) then (a * b, {}) else (2 ^ kWidth (kType w) - 1, { sat := true })) := by
  simp only [elInt_unsigned m c _ hs hu ha hb]
  refine ⟨?_, ?_, ?_⟩
  · rw [← Int.natCast_add, kFit_unsigned_natCast]
  · split
    case isTrue h => rw [← Int.ofNat_sub h, kFit_unsigned_natCast, if_pos (by omega)]
    case isFalse h => exact kFit_unsigned_neg (by omega)
  · rw [← Int.natCast_mul, kFit_unsigned_natCast]

theorem elInt_clamps_signed (hs : kSat w = true) (hu : kUns w = false) (f : Int → Int → Int) {r : Int}
    (hr : r = f (signExt (kWidth (kType w)) a) (signExt (kWidth (kType w)) b)) :
    (-(2 ^ (kWidth (kType w) - 1) : Int) ≤ r ∧ r < (2 ^ (kWidth (kType w) - 1) : Int) →
      elInt f w m a b c = ((r % (2 ^ kWidth (kType w) : Int)).toNat, {})) ∧
    (r < -(2 ^ (kWidth (kType w) - 1) : Int) → elInt f w m a b c = (2 ^ (kWidth (kType w) - 1), { sat := true })) ∧
    ((2 ^ (kWidth (kType w) - 1) : Int) ≤ r → elInt f w m a b c = (2 ^ (kWidth (kType w) - 1) - 1, { sat := true })) := by
  have hmin : kMin (kWidth (kType w)) false = -((2 ^ (kWidth (kType w) - 1) : Nat) : Int) := rfl
  have hmax : kMax (kWidth (kType w)) false = ((2 ^ (kWidth (kType w) - 1) : Nat) : Int) - 1 := rfl
  have hhalf : (2 ^ (kWidth (kType w) - 1) : Int) = ((2 ^ (kWidth (kType w) - 1) : Nat) : Int) := two_pow_eq_natCast _
  have hpos := Nat.two_pow_pos (kWidth (kType w) - 1)
  rw [elInt_signed m c f hs hu, ← hr, hhalf]
  refine ⟨fun ⟨hlo, hhi⟩ => ?_, fun h => ?_, fun h => ?_⟩
  · rw [kFit_inRange (by omega) (by omega), toBits, two_pow_eq_natCast]
  · rw [kFit_low (by omega), hmin, toBits_neg_half (kWidth_pos _)]
  · rw [kFit_high (by omega) (by omega), hmax, toBits_pow_sub_one (Nat.sub_le ..)]

end

/-- Settles O55: the shifts and rotates are those of bit vectors, a logic operation of the elements is that of the vectors, and an
integer result is wrapped or clamped as `kFit` says. -/
theorem laneArithmetic : Obligations.LaneArithmetic := by
  rintro w a b c _ m rfl ha hb
  have hpos := kWidth_pos (kType w)
  refine ⟨⟨shiftLeft_eq_toNat .., shiftRight_eq_toNat ha, shiftArith_eq_toNat hpos .., rotateLeft_eq_toNat ha (Nat.mod_lt _ hpos)⟩,
    fun p q f r hf => ?_, fun hs => elInt_wraps m c hs hb, fun hs hu => elInt_clamps_unsigned m c hs hu ha hb,
    fun hs hu f r hr => elInt_clamps_signed m c hs hu f hr⟩
  rcases hf with ⟨rfl, rfl⟩ | ⟨rfl, rfl⟩ | ⟨rfl, rfl⟩ | ⟨rfl, rfl⟩ | ⟨rfl, rfl⟩
  · exact vOfElems_elLogic bitwiseOn_and w m c p q
  · exact vOfElems_elLogic bitwiseOn_or w m c p q
  · exact vOfElems_elLogic bitwiseOn_xor w m c p q
  · exact vOfElems_elLogic bitwiseOn_not w m c p q
  · exact vOfElems_elLogic bitwiseOn_andNot w m c p q

end Sys2Proof.Machine

/-! 17 R581: the identity flash stands. One lemma for each operation of the model that answers a state: what the flash is before
it, it is after it. -/

namespace Sys2Proof.Machine

/-- The identity flash of a state. -/
def FlashIs (F : Flash) (s : State) : Prop := s.flash = F

/-- The state that a command leaves, if it leaves one, has that identity flash. -/
def KeepsFlash (F : Flash) (o : Host.Outcome State Fault Refusal) : Prop := ∀ t, o = .next t → FlashIs F t

section
variable {F : Flash} {s u v : State}

/-! The shapes of the model's definitions. -/

theorem FlashIs.of_eq (h : FlashIs F u) (hv : v.flash = u.flash) : FlashIs F v := hv.trans h

theorem FlashIs.ite {c : Prop} [Decidable c] (hu : FlashIs F u) (hv : FlashIs F v) : FlashIs F (if c then u else v) := by
  split
  · exact hu
  · exact hv

theorem FlashIs.ite_fst {α : Type} {c : Prop} [Decidable c] {x y : State × α} (hx : FlashIs F x.1) (hy : FlashIs F y.1) :
    FlashIs F (if c then x else y).1 := by
  split
  · exact hx
  · exact hy

theorem FlashIs.ite_snd {α : Type} {c : Prop} [Decidable c] {x y : α × State} (hx : FlashIs F x.2) (hy : FlashIs F y.2) :
    FlashIs F (if c then x else y).2 := by
  split
  · exact hx
  · exact hy

theorem FlashIs.foldl {α : Type} {f : State → α → State} {l : List α} (hf : ∀ u x, FlashIs F u → FlashIs F (f u x))
    (h : FlashIs F s) : FlashIs F (l.foldl f s) := by
  induction l generalizing s with
  | nil => exact h
  | cons x l ih => exact ih (hf s x h)

theorem FlashIs.foldl_fst {α β : Type} {f : State × β → α → State × β} {l : List α} {r : State × β}
    (hf : ∀ r x, FlashIs F r.1 → FlashIs F (f r x).1) (h : FlashIs F r.1) : FlashIs F (l.foldl f r).1 := by
  induction l generalizing r with
  | nil => exact h
  | cons x l ih => exact ih (hf r x h)

theorem FlashIs.foldl_snd {α β : Type} {f : β × State → α → β × State} {l : List α} {r : β × State}
    (hf : ∀ r x, FlashIs F r.2 → FlashIs F (f r x).2) (h : FlashIs F r.2) : FlashIs F (l.foldl f r).2 := by
  induction l generalizing r with
  | nil => exact h
  | cons x l ih => exact ih (hf r x h)

theorem FlashIs.pair_snd {α : Type} {a : α} (h : FlashIs F s) : FlashIs F (a, s).2 := h

theorem KeepsFlash.next (h : FlashIs F s) : KeepsFlash F (.next s) := by
  rintro _ ⟨⟩
  exact h

theorem KeepsFlash.fault {f : Fault} : KeepsFlash F (.fault f) := by
  rintro _ ⟨⟩

theorem KeepsFlash.ite {c : Prop} [Decidable c] {o r : Host.Outcome State Fault Refusal} (ho : KeepsFlash F o)
    (hr : KeepsFlash F r) : KeepsFlash F (if c then o else r) := by
  split
  · exact ho
  · exact hr

theorem KeepsFlash.skip (h : FlashIs F s) : KeepsFlash F (skip s) := .next h

theorem KeepsFlash.guarded {c : Bool} (hs : FlashIs F s) (hu : FlashIs F u) : KeepsFlash F (guarded c s u) :=
  .next (.ite hu hs)

end

/-! Registers, tiles, partitions and counters, and what resets clear. -/

section
variable {F : Flash} {s : State} {echo o p t : Nat} {b : Bool}

theorem FlashIs.setRg {v : Word} (h : FlashIs F s) : FlashIs F (setRg s p o v) := h.of_eq (setRg_flash ..)
theorem FlashIs.setRgF {hi lo v : Nat} (h : FlashIs F s) : FlashIs F (setRgF s p o hi lo v) := h.of_eq (setRgF_flash ..)
theorem FlashIs.setRg64 {v : Nat} (h : FlashIs F s) : FlashIs F (setRg64 s p o v) := h.of_eq (setRg64_flash ..)
theorem FlashIs.setPage {x : Page} (h : FlashIs F s) : FlashIs F (setPage s p x) := h.of_eq (setPage_flash ..)
theorem FlashIs.setBlk {b : Blk} (h : FlashIs F s) : FlashIs F (setBlk s p b) := h.of_eq (setBlk_flash ..)
theorem FlashIs.setCtl {i : Nat} (h : FlashIs F s) : FlashIs F (setCtl s p i b) := h.of_eq (setCtl_flash ..)
theorem FlashIs.setReady (h : FlashIs F s) : FlashIs F (setReady s p b) := h.of_eq (setReady_flash ..)
theorem FlashIs.updPart {f : Part → Part} (h : FlashIs F s) : FlashIs F (updPart s p f) := h.of_eq (updPart_flash ..)
theorem FlashIs.setTile {x : Tile} (h : FlashIs F s) : FlashIs F (setTile s t x) := h.of_eq (setTile_flash ..)
theorem FlashIs.updTile {f : Tile → Tile} (h : FlashIs F s) : FlashIs F (updTile s t f) := h.of_eq (updTile_flash ..)
theorem FlashIs.setCnt {i : Nat} {c : Counter} (h : FlashIs F s) : FlashIs F (setCnt s p i c) := h.of_eq (setCnt_flash ..)
theorem FlashIs.choose {n : Nat} (h : FlashIs F s) : FlashIs F (choose s n).2 := h

theorem FlashIs.postResult {code : Nat} (h : FlashIs F s) : FlashIs F (postResult s p code echo) :=
  h.of_eq (postResult_flash ..)

theorem FlashIs.postRunning (h : FlashIs F s) : FlashIs F (postRunning s p echo) := h.of_eq (postRunning_flash ..)
theorem FlashIs.postDone {code : Nat} (h : FlashIs F s) : FlashIs F (postDone s p code echo) := h.of_eq (postDone_flash ..)
theorem FlashIs.tileRegsReset (h : FlashIs F s) : FlashIs F (tileRegsReset s t) := h.setRg.setRg

theorem FlashIs.tilesReset {l : List Nat} (h : FlashIs F s) : FlashIs F (tilesReset s l) := by
  induction l generalizing s with
  | nil => exact h
  | cons t l ih => exact ih h.tileRegsReset.updTile

theorem FlashIs.sealAlloc {handle : Nat} (h : FlashIs F s) : FlashIs F (sealAlloc s p handle b) :=
  h.of_eq (sealAlloc_flash ..)

theorem FlashIs.setImgState {v : Nat} (h : FlashIs F s) : FlashIs F (setImgState s p v) := h.of_eq (setImgState_flash ..)
theorem FlashIs.syncLaunchState (h : FlashIs F s) : FlashIs F (syncLaunchState s p) := h.setRgF
theorem FlashIs.setDigest {d : List Byte} (h : FlashIs F s) : FlashIs F (setDigest s p d) := .foldl (fun _ _ hu => hu.setRg) h
theorem FlashIs.dropAhead (h : FlashIs F s) : FlashIs F (dropAhead s p) := .updPart (.foldl (fun _ _ hu => hu.updTile) h)

theorem FlashIs.dropImage (h : FlashIs F s) : FlashIs F (dropImage s p) := by
  unfold Machine.dropImage
  split
  · exact h
  · exact .setDigest (.setRg (.dropAhead (.updPart (.sealAlloc h))))

theorem FlashIs.abortRunning {pg : Nat} (h : FlashIs F s) : FlashIs F (abortRunning s pg) := by
  unfold Machine.abortRunning
  split
  · exact h.postDone
  · exact h

theorem FlashIs.sendMsix {v : Nat} (h : FlashIs F s) : FlashIs F (sendMsix s v) := h.of_eq (sendMsix_flash ..)
theorem FlashIs.endQueue (h : FlashIs F s) : FlashIs F (endQueue s p) := h.setRgF.updPart

theorem FlashIs.stopQueue (h : FlashIs F s) : FlashIs F (stopQueue s p) := by
  unfold Machine.stopQueue
  extract_lets s'
  have h' : FlashIs F s' := h.endQueue
  exact .ite h'.sendMsix h'

theorem FlashIs.partitionReset (h : FlashIs F s) : FlashIs F (partitionReset s p) := by
  unfold Machine.partitionReset
  extract_lets _ _ _ s₁ _ s₂
  have h₁ : FlashIs F s₁ := h.abortRunning.tilesReset.dropImage
  have h₂ : FlashIs F s₂ := .of_eq h₁ rfl
  exact .syncLaunchState (.stopQueue (.setRg (.updPart (.ite h₂.setRgF h₂))))

theorem FlashIs.warmPart (h : FlashIs F s) : FlashIs F (warmPart s p) := h.updPart.partitionReset.updPart

theorem FlashIs.warmClear (h : FlashIs F s) : FlashIs F (warmClear s) := by
  unfold Machine.warmClear
  extract_lets s'
  have h' : FlashIs F s' := h.warmPart.warmPart.warmPart.warmPart
  exact .endQueue (.endQueue (.endQueue (.endQueue (.of_eq h' rfl))))

end

/-! Events, counters and the fault collector. -/

section
variable {F : Flash} {s : State} {cause e i info n p t : Nat} {owners : List Nat} {count : State → Nat → Nat → State}

theorem FlashIs.goOos (h : FlashIs F s) : FlashIs F (goOos s) := .ite h (.sendMsix h)
theorem FlashIs.latch (h : FlashIs F s) : FlashIs F (latch s p e info) := h.setPage
theorem FlashIs.countRaw (h : FlashIs F s) : FlashIs F (countRaw s p i n).1 := h.setCnt

theorem FlashIs.warmBegin (h : FlashIs F s) : FlashIs F (warmBegin s cause) := by
  unfold Machine.warmBegin
  extract_lets s'
  have h' : FlashIs F s' := h.warmClear
  exact .setRgF (.setRgF (.setRgF (.of_eq h' rfl)))

theorem FlashIs.faultEnter {cls : Nat} (h : FlashIs F s) : FlashIs F (faultEnter s p e cls) := by
  unfold Machine.faultEnter
  extract_lets _ _ s'
  have h' : FlashIs F s' := h
  exact .ite h' h'.setRg.setRg

theorem FlashIs.setPendingBit (h : FlashIs F s) : FlashIs F (setPendingBit s p) := h.setRg

theorem FlashIs.containParts {l : List Nat} (h : FlashIs F s) (hcount : ∀ u p i, FlashIs F u → FlashIs F (count u p i)) :
    FlashIs F (containParts count l s) := by
  induction l generalizing s with
  | nil => exact h
  | cons q l ih => exact ih (hcount _ _ _ h.partitionReset)

theorem FlashIs.poisonPart {q : Nat} (h : FlashIs F s) (hcount : ∀ u y z, FlashIs F u → FlashIs F (count u y z)) :
    FlashIs F (poisonPart count s q) := by
  unfold Machine.poisonPart
  extract_lets s'
  have h' : FlashIs F s' := h.updPart
  split
  · exact .ite (.updPart (hcount _ _ _ h')) h'
  · exact h'

theorem FlashIs.poisonParts {l : List Nat} (h : FlashIs F s) (hcount : ∀ u p i, FlashIs F u → FlashIs F (count u p i)) :
    FlashIs F (poisonParts count l s) := by
  induction l generalizing s with
  | nil => exact h
  | cons q l ih => exact ih (.ite (.poisonPart h hcount) (.containParts h hcount))

theorem FlashIs.collect {cls : Nat} {hang : Bool} (h : FlashIs F s) (hcount : ∀ u y z, FlashIs F u → FlashIs F (count u y z)) :
    FlashIs F (collect count s p e cls hang owners) := by
  unfold Machine.collect
  extract_lets s₁ _ _ _ s₂ s₃ s₄ s₅
  have h₁ : FlashIs F s₁ := h.setPendingBit
  have h₂ : FlashIs F s₂ := .faultEnter (hcount _ _ _ h₁)
  have h₃ : FlashIs F s₃ := .ite h₂.sendMsix (.foldl (fun _ _ hu => hu.sendMsix) h₂)
  have h₄ : FlashIs F s₄ := h₂.sendMsix
  have h₅ : FlashIs F s₅ := h₂.sendMsix
  exact .ite (.sendMsix (hcount _ _ _ h₁))
    (.ite (.ite h₃ (.containParts h₃ hcount))
    (.ite (.ite h₄ (.poisonParts h₄ hcount)) (.ite (.ite h₅.setRgF h₅) (.ite h₅ (.warmBegin (hcount _ _ _ h₅))))))

theorem FlashIs.raiseWith (h : FlashIs F s) (hcount : ∀ u y z, FlashIs F u → FlashIs F (count u y z)) :
    FlashIs F (raiseWith count s p e info owners) := by
  unfold Machine.raiseWith
  extract_lets _ _ s'
  have h' : FlashIs F s' := h.latch
  exact .ite h' (.collect h' hcount)

theorem FlashIs.countN (h : FlashIs F s) : FlashIs F (countN n s p i) := by
  induction n generalizing s p i with
  | zero => exact h.countRaw
  | succ n ih =>
    rw [countN_succ]
    exact .ite (.raiseWith h.countRaw.choose fun _ _ _ hu => ih hu) h.countRaw

theorem FlashIs.countBy (h : FlashIs F s) : FlashIs F (countBy s p i n) := by
  rw [countBy_eq]
  exact .ite (.raiseWith h.countRaw.choose fun _ _ _ hu => hu.countN) h.countRaw

theorem FlashIs.count1 (h : FlashIs F s) : FlashIs F (count1 s p i) := h.countBy

theorem FlashIs.raiseOwned (h : FlashIs F s) : FlashIs F (raiseOwned s p e info owners) :=
  .raiseWith h (fun _ _ _ hu => hu.countN)

theorem FlashIs.raise (h : FlashIs F s) : FlashIs F (raise s p e info) := h.raiseOwned
theorem FlashIs.raiseOpen (h : FlashIs F s) : FlashIs F (raiseOpen s p e) := .raise h

theorem FlashIs.raiseLevel {on : Bool} (h : FlashIs F s) : FlashIs F (raiseLevel s p e on) := by
  unfold Machine.raiseLevel
  extract_lets _ _ _ s'
  have h' : FlashIs F s' := h.setPage
  exact .ite h'.raiseOpen h'

theorem FlashIs.tcount (h : FlashIs F s) : FlashIs F (tcount s t i n) := .ite h h.countBy
theorem FlashIs.traise (h : FlashIs F s) : FlashIs F (traise s t e info) := h.raise

theorem FlashIs.tdcAdd {ltile op : Nat} (h : FlashIs F s) : FlashIs F (tdcAdd s p cause ltile op) :=
  .count1 (.count1 (.ite h h.setRg.setRg))

theorem FlashIs.tdcTile {op : Nat} (h : FlashIs F s) : FlashIs F (tdcTile s t cause op) := h.tdcAdd
theorem FlashIs.clearPages (h : FlashIs F s) : FlashIs F (clearPages s p n) := h
theorem FlashIs.countSwitches {s0 : State} (h : FlashIs F s) : FlashIs F (countSwitches s0 s n) := h.countBy
theorem FlashIs.domainOff (h : FlashIs F s) : FlashIs F (domainOff s p) := h.setBlk.setReady.clearPages.countSwitches
theorem FlashIs.retireSite {site : Nat} (h : FlashIs F s) : FlashIs F (retireSite s site) := .domainOff h

theorem FlashIs.reloadMap (h : FlashIs F s) : FlashIs F (reloadMap s) :=
  .foldl (fun _ _ hu => hu.setRg) (.foldl (fun _ _ hu => hu.setRg) h)

theorem FlashIs.retireFree {site : Nat} (h : FlashIs F s) : FlashIs F (retireFree s site) :=
  h.retireSite.setRg.reloadMap.raiseOpen

theorem FlashIs.charge {k : Nat} (h : FlashIs F s) : FlashIs F (charge s k) := by
  unfold Machine.charge
  extract_lets _ s'
  have h' : FlashIs F s' := h
  exact .ite h' (.ite (.of_eq h' rfl) (.ite (.ite h'.retireFree h') h'.goOos))

theorem FlashIs.chargeTile (h : FlashIs F s) : FlashIs F (chargeTile s t) := h.tcount.charge

theorem FlashIs.injectUsed (h : FlashIs F s) : FlashIs F (injectUsed s) := by
  unfold Machine.injectUsed
  extract_lets _ _ s'
  have h' : FlashIs F s' := h
  exact .ite h'.setRgF h'

theorem FlashIs.fiTake {kind page : Nat} (h : FlashIs F s) : FlashIs F (fiTake s kind page).2 := .ite_snd h.injectUsed h

end

/-! The memory tiers and the stack cache. -/

section
variable {F : Flash} {s : State} {a hint n part q src : Nat} {err : List (BitVec 7 × Byte)} {d : List Byte}

theorem FlashIs.setCtrl {k : Nat} {c : Ctrl} (h : FlashIs F s) : FlashIs F (setCtrl s k c) := h.of_eq (setCtrl_flash ..)
theorem FlashIs.putSet {k : Nat} {l : List CLine} (h : FlashIs F s) : FlashIs F (putSet s k l) := h
theorem FlashIs.dropCached (h : FlashIs F s) : FlashIs F (dropCached s a) := h.putSet
theorem FlashIs.blankRange {base size : Nat} (h : FlashIs F s) : FlashIs F (blankRange s base size) := h
theorem FlashIs.loseMemory (h : FlashIs F s) : FlashIs F (loseMemory s) := .blankRange h
theorem FlashIs.ueRecord {reread : Bool} (h : FlashIs F s) : FlashIs F (ueRecord s a src reread) := .ite h h.setRg64.setRg
theorem FlashIs.poisonLine (h : FlashIs F s) : FlashIs F (poisonLine s a src) := .raiseOwned (.count1 (.ueRecord h))
theorem FlashIs.poisonRead (h : FlashIs F s) : FlashIs F (poisonRead s a src) := h.ueRecord.count1.raiseOwned
theorem FlashIs.repairRow (h : FlashIs F s) : FlashIs F (repairRow s a) := .ite h.raiseOpen h.setCtrl.count1.raiseOpen

theorem FlashIs.noteRow (h : FlashIs F s) : FlashIs F (noteRow s a) := by
  unfold Machine.noteRow
  extract_lets _ _ _ _ _ _ _ _ _ _ s₁ s₂
  have h₁ : FlashIs F s₁ := h.setCtrl
  have h₂ : FlashIs F s₂ := .ite h₁.count1 h₁
  exact .ite h₂.repairRow h₂

theorem FlashIs.correctLine (h : FlashIs F s) : FlashIs F (correctLine s a n) := h.count1.countBy.raiseOpen.noteRow
theorem FlashIs.injectErr (h : FlashIs F s) : FlashIs F (injectErr s err).2 := h

theorem FlashIs.memRead (h : FlashIs F s) : FlashIs F (memRead s a src err).2 := by
  unfold Machine.memRead
  extract_lets
  dsimp -zeta only
  extract_lets s'
  have h' : FlashIs F s' := .ite (.ite_snd h.fiTake.injectErr h.fiTake) (.count1 (.ite_snd h.fiTake.injectErr h.fiTake))
  refine .ite_snd (.ite h' h'.poisonRead) ?_
  split
  · exact h'
  · exact .correctLine (.ite h' (.of_eq h' rfl))
  · exact h'.poisonLine

theorem FlashIs.memWrite (h : FlashIs F s) : FlashIs F (memWrite s a d) := .count1 h
theorem FlashIs.writeBack {l : CLine} (h : FlashIs F s) : FlashIs F (writeBack s l) := h.memWrite.count1

theorem FlashIs.cachePut {x : CLine} (h : FlashIs F s) : FlashIs F (cachePut s x) := by
  unfold Machine.cachePut
  extract_lets _ _ _ _ out _ s₁ s₂
  have h₁ : FlashIs F s₁ := .ite h.count1 h
  have h₂ : FlashIs F s₂ := by
    unfold s₂
    clear_value out
    split
    · exact .ite h₁.writeBack h₁
    · exact h₁
  exact h₂.putSet

theorem FlashIs.readLine (h : FlashIs F s) : FlashIs F (readLine s a hint part err).2 := by
  unfold Machine.readLine
  extract_lets sp kind miss serve
  have hmiss : ∀ u e, FlashIs F u → FlashIs F (miss u e).2 := by
    intro u e hu
    have hread : FlashIs F (Machine.memRead (Machine.count1 u sp 1) a 0 e).2 := hu.count1.memRead
    exact .ite_snd hread (.ite_snd (.pair_snd hread.cachePut) (.ite_snd (.pair_snd hread.cachePut) hread))
  have hserve : ∀ u l d, FlashIs F u → FlashIs F (serve u l d).2 := by
    intro u l d hu
    unfold serve
    clear_value kind
    split
    · exact hu.cachePut
    · exact hu.putSet
    · exact hu.cachePut
    · exact .ite hu.dropCached.count1 hu.dropCached
  split
  · exact hmiss _ _ h
  · split
    · exact hserve _ _ _ h.count1
    · exact hserve _ _ _ h.count1.count1
    · exact .ite_snd h.dropCached.poisonLine (hmiss _ _ h.dropCached)

theorem FlashIs.writeLine (h : FlashIs F s) : FlashIs F (writeLine s a d hint part) := by
  unfold Machine.writeLine
  extract_lets s'
  have h' : FlashIs F s' := h
  refine .ite ?_ h'.cachePut
  split
  · exact h'.putSet.memWrite
  · exact h'.memWrite

theorem FlashIs.snoop (h : FlashIs F s) : FlashIs F (snoop s a) := .ite (.count1 h) h
theorem FlashIs.devRead (h : FlashIs F s) : FlashIs F (devRead s a hint part err).2 := h.snoop.readLine
theorem FlashIs.devWrite (h : FlashIs F s) : FlashIs F (devWrite s a d hint part) := h.snoop.writeLine

theorem FlashIs.devSpan {hint : Nat → Nat} {errs : List (List (BitVec 7 × Byte))} (h : FlashIs F s) :
    FlashIs F (devSpan s a n hint part errs).2 := .foldl_snd (fun _ _ hu => hu.devRead) h

theorem FlashIs.devMerge {bs : List (Option Byte)} (h : FlashIs F s) : FlashIs F (devMerge s a bs hint part) := h.devWrite

theorem FlashIs.devPut {l : List Byte} (h : FlashIs F s) : FlashIs F (devPut s a l hint part) :=
  .foldl (fun _ _ hu => hu.devMerge) h

theorem FlashIs.anyTile {p : Nat} (h : FlashIs F s) : FlashIs F (anyTile s p).2 := h

theorem FlashIs.parityLine (h : FlashIs F s) : FlashIs F (parityLine s a q) := by
  unfold Machine.parityLine
  extract_lets s'
  have h' : FlashIs F s' := h.snoop.dropCached
  exact .raise (.charge (.count1 (.count1 (.of_eq h' rfl))))

theorem FlashIs.outLine (h : FlashIs F s) : FlashIs F (outLine s q a d hint part) :=
  .ite h.fiTake.parityLine h.fiTake.devWrite

theorem FlashIs.outLink (h : FlashIs F s) : FlashIs F (outLink s q d).2 := .ite_snd h.fiTake.charge.raiseOpen h.fiTake

theorem FlashIs.pokeBytes {l : List Byte} (h : FlashIs F s) : FlashIs F (pokeBytes s a l) := by
  unfold Machine.pokeBytes
  extract_lets
  refine .foldl (fun _ _ hu => ?_) h
  split
  · exact hu.putSet
  · exact hu

theorem FlashIs.setDesc {p : Nat} {d : BitVec 1024} (h : FlashIs F s) : FlashIs F (setDesc s p n d) := .pokeBytes h

end

/-! The gate of commands, arithmetic events, the issue of schedule entries and sampled duplicates. -/

section
variable {F : Flash} {s v : State} {acy op p stream t : Nat} {e : AEv} {act : State → State}

theorem FlashIs.noteWrite (h : FlashIs F s) : FlashIs F (noteWrite s p) := h.of_eq (noteWrite_flash ..)

theorem FlashIs.command {code : Nat} {arg : Arg} {unready : Bool} {refuse : State → State} (h : FlashIs F s)
    (hrefuse : ∀ u, FlashIs F u → FlashIs F (refuse u)) (hact : ∀ u, FlashIs F u → FlashIs F (act u)) :
    FlashIs F (command s p code arg unready refuse act) := by
  unfold Machine.command
  refine .ite h ?_
  extract_lets s₁ _ s₂
  have h₁ : FlashIs F s₁ := h.noteWrite
  have h₂ : FlashIs F s₂ := h₁.setPage
  exact .ite h₁ (.ite (.postResult (hrefuse _ h₂))
    (.ite (.postResult (hrefuse _ h₂)) (.ite (.postResult (hrefuse _ h₂)) (.ite (.postResult (hrefuse _ h₂)) (hact _ h₂)))))

theorem FlashIs.command0 {code : Nat} {arg : Arg} {refuse : State → State} (h : FlashIs F s)
    (hrefuse : ∀ u, FlashIs F u → FlashIs F (refuse u)) (hact : ∀ u, FlashIs F u → FlashIs F (act u)) :
    FlashIs F (command0 s p code arg refuse act) :=
  .command h hrefuse (fun _ hu => .ite (.postResult (hrefuse _ hu)) (hact _ hu))

theorem FlashIs.tsCheck {a n : Nat} (h : FlashIs F s) : FlashIs F (tsCheck s t a n) := by
  unfold Machine.tsCheck
  split
  · exact h
  · exact h.chargeTile.tcount.traise

theorem FlashIs.arithRecord {a : APlace} (h : FlashIs F s) : FlashIs F (arithRecord s t a e) :=
  .ite h.setRg.setRg.setRg.setRg.updTile (.ite h.setRg h)

theorem FlashIs.arithRaise (h : FlashIs F s) : FlashIs F (arithRaise s t op e) := by
  unfold Machine.arithRaise
  extract_lets s₁ s₂
  have h₁ : FlashIs F s₁ := .ite h.traise h
  have h₂ : FlashIs F s₂ := .ite h₁.traise h₁
  exact .ite h₂.traise h₂

theorem FlashIs.arithEvent {a : APlace} (h : FlashIs F s) : FlashIs F (arithEvent s t a e) := .ite h h.arithRecord.arithRaise

theorem FlashIs.scatterEvent {order stage : Nat} (h : FlashIs F s) : FlashIs F (scatterEvent s t op acy order stage e) :=
  .ite h (.arithEvent h)

theorem FlashIs.looseEvent (h : FlashIs F s) : FlashIs F (looseEvent s t e) :=
  .ite h (.ite (.arithRaise h) (.updTile (.scatterEvent h)))

theorem FlashIs.precFirst {cause fromRung : Nat} (h : FlashIs F s) : FlashIs F (precFirst s t op cause fromRung) :=
  .ite h h.setRg

theorem FlashIs.skinkRecord {opcode ra i : Nat} {e : KEv} (h : FlashIs F s) : FlashIs F (skinkRecord s t op opcode ra i e) :=
  .ite h h.setRg.setRg.updTile

theorem FlashIs.skinkEvents {opcode ra : Nat} {evs : List KEv} (h : FlashIs F s) :
    FlashIs F (skinkEvents s t op opcode ra evs) := .tcount (.tcount (.tcount (.tcount (.tcount (.ite h.skinkRecord h)))))

theorem FlashIs.countConv {c : Counts} {conv : Bool} (h : FlashIs F s) : FlashIs F (countConv s t c conv) := by
  unfold Machine.countConv
  extract_lets s'
  have h' : FlashIs F s' := h.tcount.tcount
  exact .tcount (.tcount (.ite h'.tcount h'))

theorem FlashIs.noteStalls {idx a b : Nat} (h : FlashIs F s) : FlashIs F (noteStalls s t idx a b) := .ite h h.setTile.tcount

theorem FlashIs.issueEntry {e : BitVec 128} (h : FlashIs F s) : FlashIs F (issueEntry s t stream acy e) := by
  unfold Machine.issueEntry
  extract_lets _ _ _ _ _ _ _ s'
  have h' : FlashIs F s' := h.noteStalls.updTile.setRg
  exact .ite h'.tcount.tdcTile h'

theorem FlashIs.issueStep {is unitOk : BitVec 128 → Bool} {unitFrom : BitVec 128 → Option Nat}
    {act : BitVec 128 → State → State} (h : FlashIs F s) (hact : ∀ x u, FlashIs F u → FlashIs F (act x u)) :
    KeepsFlash F (issueStep s t stream acy is unitOk unitFrom act) := by
  unfold Machine.issueStep
  split
  · exact .skip h
  · exact .guarded h (hact _ _ h.issueEntry.updTile)

theorem FlashIs.issueFree {is : BitVec 128 → Bool} {act : BitVec 128 → State → State} (h : FlashIs F s)
    (hact : ∀ x u, FlashIs F u → FlashIs F (act x u)) : KeepsFlash F (issueFree s t stream acy is act) := h.issueStep hact

theorem FlashIs.twinStep {u v : State} {ends : Bool} (h : FlashIs F v) : FlashIs F (twinStep u v t acy ends act) :=
  .ite h (.ite h.updTile h.updTile)

theorem FlashIs.shadowUnit {kind : Nat} {differs : Bool} (h : FlashIs F s) : FlashIs F (shadowUnit s t kind op differs) := by
  unfold Machine.shadowUnit
  split
  · exact h
  · extract_lets _ s'
    have h' : FlashIs F s' := h.updTile
    refine .ite h' ?_
    refine .ite h' ?_
    split
    · exact h'.count1
    · exact .of_eq h' rfl

end

/-! The feeders and the Anole array. -/

section
variable {F : Flash} {s : State} {acy r t : Nat} {feeder : BitVec 1} {b : OBlock} {q : Present}

theorem FlashIs.feedAct {side : Nat} {e : BitVec 128} (h : FlashIs F s) : FlashIs F (feedAct t side acy e s) :=
  h.setTile.tcount

theorem FlashIs.execFeed {t : TileIx} (h : FlashIs F s) : KeepsFlash F (execFeed t feeder acy s) :=
  h.issueStep (fun _ _ hu => hu.feedAct)

theorem FlashIs.kpassAct {e : BitVec 128} {fr fc : FeedSt} (h : FlashIs F s) : FlashIs F (kpassAct t acy e fr fc s) :=
  h.setTile

theorem FlashIs.execKpass {t : TileIx} (h : FlashIs F s) : KeepsFlash F (execKpass t acy s) := by
  unfold Machine.execKpass
  extract_lets
  refine h.issueStep (fun _ _ hu => ?_)
  extract_lets
  split
  · exact hu.kpassAct
  · exact hu

theorem FlashIs.presentQuant (h : FlashIs F s) : FlashIs F (presentQuant s t q) := by
  unfold Machine.presentQuant
  split
  · exact .foldl (fun _ _ hu => hu.countConv.tcount.updTile) h
  · exact h

theorem FlashIs.presentCounts (h : FlashIs F s) : FlashIs F (presentCounts s t q) := h.tcount.tcount

theorem FlashIs.presentReads (h : FlashIs F s) : FlashIs F (presentReads s t q) := by
  unfold Machine.presentReads
  extract_lets _ _ _ _ _ s₁ _ _ _ _ s₂
  have h₁ : FlashIs F s₁ := .ite h h.tcount.updTile
  have h₂ : FlashIs F s₂ := by
    unfold s₂
    refine .foldl (fun _ _ hu => ?_) (.ite h₁ h₁.tcount.traise)
    extract_lets _ _ s₃ s₄
    have h₃ : FlashIs F s₃ := by
      unfold s₃
      split
      · exact hu.tsCheck
      · exact hu
    have h₄ : FlashIs F s₄ := .ite h₃.traise h₃
    exact .ite h₄.tcount h₄
  refine .ite h ?_
  refine .ite ?_ (.ite h₂.tsCheck h₂)
  refine .foldl (fun _ _ hu => ?_) h
  extract_lets
  split
  · exact hu.tsCheck
  · exact hu

theorem FlashIs.presentOverflow (h : FlashIs F s) : FlashIs F (presentOverflow s t acy q) :=
  .foldl (fun _ _ hu => hu.arithEvent) h

theorem FlashIs.feedDone {fd : FeedSt} (h : FlashIs F s) : FlashIs F (feedDone s t acy q fd) := .ite h h.tcount.updTile

theorem FlashIs.presentStep (h : FlashIs F s) : FlashIs F (presentStep s t acy q) := by
  unfold Machine.presentStep
  extract_lets _ _ s₁ _ s₂
  have h₁ : FlashIs F s₁ := h.presentQuant.presentCounts.presentReads.presentOverflow
  have h₂ : FlashIs F s₂ := .updTile (.ite h₁.tcount h₁)
  refine .ite h₁ ?_
  split
  · exact h₂.feedDone
  · exact h₂

theorem FlashIs.execFeedPresent {t : TileIx} {lane : BitVec 10} (h : FlashIs F s) :
    KeepsFlash F (execFeedPresent t feeder lane acy s) := by
  unfold Machine.execFeedPresent
  extract_lets
  refine .ite (.skip h) ?_
  split
  · exact .skip h
  · exact .guarded h h.updTile.presentStep

theorem FlashIs.cellAct {c : Nat} {p : KPassSt} {e k : LinkEntry} (h : FlashIs F s) :
    FlashIs F (cellAct s t r c acy b p e k) := by
  unfold Machine.cellAct
  extract_lets _ _ _ _ _ _ s₁ s₂
  have h₁ : FlashIs F s₁ := h.setTile.noteStalls
  have h₂ : FlashIs F s₂ := .ite h₁.injectUsed h₁
  exact .arithEvent (.ite h₂.tcount h₂)

theorem FlashIs.execArrayStep {t : TileIx} {r c : BitVec 7} (h : FlashIs F s) : KeepsFlash F (execArrayStep t r c acy s) := by
  unfold Machine.execArrayStep
  extract_lets
  refine .ite (.skip h) ?_
  split
  · exact .skip h
  · exact .guarded h h.cellAct

theorem FlashIs.outlierAct {c : Nat} {p : KPassSt} (h : FlashIs F s) : FlashIs F (outlierAct s t r c acy b p) := by
  unfold Machine.outlierAct
  extract_lets
  dsimp -zeta only
  extract_lets s'
  have h' : FlashIs F s' := h.setTile
  exact .arithEvent (.ite h'.tcount h')

theorem FlashIs.execOutlierStep {t : TileIx} {r c : BitVec 7} (h : FlashIs F s) :
    KeepsFlash F (execOutlierStep t r c acy s) := by
  unfold Machine.execOutlierStep
  extract_lets
  refine .ite (.skip h) ?_
  split
  · exact .skip h
  · exact .guarded h h.outlierAct

theorem FlashIs.slackCheck {sched : Nat} (h : FlashIs F s) : FlashIs F (slackCheck s t acy b sched) :=
  .ite h h.updTile.tcount.tdcTile

theorem FlashIs.swapAct (h : FlashIs F s) : FlashIs F (swapAct s t r acy b) := .ite h.setTile.slackCheck h.setTile

theorem FlashIs.execArraySwap {t : TileIx} {r : BitVec 7} (h : FlashIs F s) : KeepsFlash F (execArraySwap t r acy s) := by
  unfold Machine.execArraySwap
  extract_lets
  refine .ite (.skip h) ?_
  split
  · exact .skip h
  · exact .guarded h h.swapAct

theorem FlashIs.enterAct (h : FlashIs F s) : FlashIs F (enterAct s t r acy b) := by
  unfold Machine.enterAct
  extract_lets _ _ _ _ _ _ _ _ s'
  have h' : FlashIs F s' := .ite h.setTile.noteStalls h.setTile
  exact .ite h'.slackCheck h'

theorem FlashIs.execDrainRowEnter {t : TileIx} {r : BitVec 6} (h : FlashIs F s) :
    KeepsFlash F (execDrainRowEnter t r acy s) := by
  unfold Machine.execDrainRowEnter
  extract_lets
  refine .ite (.skip h) ?_
  split
  · exact .skip h
  · exact .guarded h h.enterAct

theorem FlashIs.drainStore {q : Drain} {off at_ : Nat} {l : List Byte} {keep : Bool} (h : FlashIs F s) :
    FlashIs F (drainStore s q off at_ l keep) := .ite h h.updTile

theorem FlashIs.drainWide {q : Drain} {ds : List XV} (h : FlashIs F s) : FlashIs F (drainWide s q ds) := by
  unfold Machine.drainWide
  refine .foldl (fun _ _ hu => ?_) h
  extract_lets _ _ s'
  have h' : FlashIs F s' := hu.drainStore
  exact .ite h'.arithEvent h'

theorem FlashIs.drainBlock {q : Drain} {rowscale : XV} {ds : List XV} {g : Nat} (h : FlashIs F s) :
    FlashIs F (drainBlock q rowscale ds s g) := by
  unfold Machine.drainBlock
  extract_lets _ _ _ _ _ _ _ _ _ _ _ _ _ _ _ _ _ _ _ _ _ s'
  have h' : FlashIs F s' := h.drainStore.countConv.updTile
  exact .ite h' h'.traise

theorem FlashIs.writeReport {id : Nat} (h : FlashIs F s) : FlashIs F (writeReport s t id) := by
  unfold Machine.writeReport
  split
  · exact h
  · exact .ite h h.updTile

theorem FlashIs.drainDone (h : FlashIs F s) : FlashIs F (drainDone s t acy b) := h.updTile.writeReport.shadowUnit.updTile

theorem FlashIs.drainRow {q : Drain} {v : ConvRow} (h : FlashIs F s) : FlashIs F (drainRow s q v) := by
  unfold Machine.drainRow
  extract_lets _ _ _ _ _ _ _ s₁ s₂ _ _ _ _ _ s₃ s₄
  have h₁ : FlashIs F s₁ := .ite h.tsCheck h
  have h₂ : FlashIs F s₂ := .ite h₁.tsCheck h₁
  have h₃ : FlashIs F s₃ := .tcount (.foldl (fun _ _ hu => hu.arithEvent) (.ite h₂.tsCheck h₂))
  have h₄ : FlashIs F s₄ := .ite h₃.tcount h₃
  exact .ite h₄.drainBlock.drainBlock h₄.updTile.drainWide

theorem FlashIs.dupRow {q : Drain} {v : ConvRow} {s' : State} (h : FlashIs F s') : FlashIs F (dupRow s q v s') :=
  .ite h.updTile h

theorem FlashIs.writeAct {x : Tile} {q : Drain} {v : ConvRow} (h : FlashIs F s) : FlashIs F (writeAct s x t acy q v) := by
  unfold Machine.writeAct
  extract_lets _ _ s'
  have h' : FlashIs F s' := h.setTile.drainRow.dupRow
  split
  · exact .ite h'.drainDone h'
  · exact h'

theorem FlashIs.execDrainRowWrite {t : TileIx} {r : BitVec 6} (h : FlashIs F s) :
    KeepsFlash F (execDrainRowWrite t r acy s) := by
  unfold Machine.execDrainRowWrite
  extract_lets
  refine .ite (.skip h) ?_
  split
  · exact .skip h
  · split
    · exact .skip h
    · exact .guarded h h.writeAct

theorem FlashIs.chkRecord (h : FlashIs F s) : FlashIs F (chkRecord s t b) := .ite h h.setRg.setRg.setRg.setRg.setRg.setRg

theorem FlashIs.mismatchAct (h : FlashIs F s) : FlashIs F (mismatchAct s t acy b) :=
  .ite h.raise (.ite h.setTile (.ite h.setTile.tcount.tdcTile h.raise))

theorem FlashIs.verdictAct (h : FlashIs F s) : FlashIs F (verdictAct s t acy b) := by
  unfold Machine.verdictAct
  extract_lets s'
  have h' : FlashIs F s' := h.updTile
  exact .updTile (.ite h'.tcount.chkRecord.traise.chargeTile.mismatchAct h'.tcount.updTile)

theorem FlashIs.execChecksumVerdict {t : TileIx} (h : FlashIs F s) : KeepsFlash F (execChecksumVerdict t acy s) := by
  unfold Machine.execChecksumVerdict
  refine .ite (.skip h) ?_
  extract_lets
  split
  · exact .skip h
  · exact .next h.verdictAct

theorem FlashIs.statsAct {fd : FeedSt} (h : FlashIs F s) : FlashIs F (statsAct s t acy fd) := by
  unfold Machine.statsAct
  extract_lets
  split
  · exact h.setTile

theorem FlashIs.execStatsWrite {t : TileIx} (h : FlashIs F s) : KeepsFlash F (execStatsWrite t feeder acy s) := by
  unfold Machine.execStatsWrite
  refine .ite (.skip h) ?_
  extract_lets
  split
  · exact .skip h
  · exact .next h.statsAct

theorem FlashIs.decideAct (h : FlashIs F s) : FlashIs F (decideAct s t acy b) := by
  unfold Machine.decideAct
  extract_lets _ _ _ s'
  have h' : FlashIs F s' := h.updTile
  exact .updTile (.writeReport (.ite h' (.ite h'.updTile.tcount.precFirst h'.traise)))

theorem FlashIs.execFallbackDecision {t : TileIx} (h : FlashIs F s) : KeepsFlash F (execFallbackDecision t acy s) := by
  unfold Machine.execFallbackDecision
  refine .ite (.skip h) ?_
  extract_lets
  split
  · exact .skip h
  · exact .next h.decideAct

theorem FlashIs.reopen {start : Nat} {old : OBlock} {l : List KPassSt} (h : FlashIs F s) :
    FlashIs F (reopen s t old start l) := by
  induction l generalizing s start with
  | nil => exact h
  | cons p l ih =>
    unfold Machine.reopen
    dsimp only
    split
    · exact h
    · exact ih h.setTile.updTile

theorem FlashIs.repeatAct {q : Repeat} {rest : List Repeat} (h : FlashIs F s) : FlashIs F (repeatAct s t q rest) :=
  h.setTile.reopen.tcount

theorem FlashIs.execRepeatStart {t : TileIx} (h : FlashIs F s) : KeepsFlash F (execRepeatStart t acy s) := by
  unfold Machine.execRepeatStart
  extract_lets
  split
  · exact .skip h
  · exact .guarded h h.repeatAct

end

/-! The Brekeger links. -/

section
variable {F : Flash} {s : State} {n : Nat} {arg : Arg} {b : BitVec 160} {f flit : BitVec 256} {p : TxPkt}

theorem FlashIs.setLk {l : LinkSt} (h : FlashIs F s) : FlashIs F (setLk s n l) := h.of_eq (setLk_flash ..)
theorem FlashIs.setLkState {v : Nat} (h : FlashIs F s) : FlashIs F (setLkState s n v) := h.setRgF

theorem FlashIs.emit {kind seq : Nat} {body : BitVec 160} (h : FlashIs F s) : FlashIs F (emit s n kind seq body) :=
  h.setLk.count1

theorem FlashIs.emitData {payload : List Byte} (h : FlashIs F s) : FlashIs F (emitData s n payload) := h.setLk.countBy

theorem FlashIs.emitPacket {seq : Nat} (h : FlashIs F s) : FlashIs F (emitPacket s n seq p) := by
  unfold Machine.emitPacket
  extract_lets s'
  have h' : FlashIs F s' := h.emit
  exact .ite h'.emitData h'

theorem FlashIs.flush (h : FlashIs F s) : FlashIs F (flush s n) := .ite h.emit h
theorem FlashIs.flushAll (h : FlashIs F s) : FlashIs F (flushAll s) := .foldl (fun _ _ hu => hu.flush) h

theorem FlashIs.transmit (h : FlashIs F s) : FlashIs F (transmit s n p) := by
  unfold Machine.transmit
  extract_lets _ _ s₁ s₂
  have h₁ : FlashIs F s₁ := h.setLk
  have h₂ : FlashIs F s₂ := by
    unfold s₂
    split
    · exact h₁.setLk
    · exact h₁
  exact h₂.count1.emitPacket

theorem FlashIs.drainSync {l : List TxPkt} (h : FlashIs F s) : FlashIs F (drainSync s n l) := by
  induction l generalizing s with
  | nil => exact h
  | cons p l ih => exact .ite h.setLk (ih h.transmit)

theorem FlashIs.freeHeld (h : FlashIs F s) : FlashIs F (freeHeld s p) := by
  unfold Machine.freeHeld
  split
  · exact h.setLk
  · exact h

theorem FlashIs.enqueue (h : FlashIs F s) : FlashIs F (enqueue s n p) :=
  .ite h.freeHeld.count1 (.ite h.setLk h.setLk.drainSync)

theorem FlashIs.originate {dest : Nat} (h : FlashIs F s) : FlashIs F (originate s dest p) := by
  unfold Machine.originate
  split
  · exact h.enqueue
  · exact h

theorem FlashIs.linkDown (h : FlashIs F s) : FlashIs F (linkDown s n) :=
  .raiseOpen (.countBy (.setReady (.setLkState (.setLk (.foldl (fun _ _ hu => hu.freeHeld) h)))))

theorem FlashIs.ackTo {a : Nat} (h : FlashIs F s) : FlashIs F (ackTo s n a) := .ite h.setLk.drainSync h

theorem FlashIs.sendRetry (h : FlashIs F s) : FlashIs F (sendRetry s n) := by
  unfold Machine.sendRetry
  extract_lets _ _ s'
  have h' : FlashIs F s' := h.setLk.emit.count1.raiseOpen
  exact .ite h'.linkDown h'

theorem FlashIs.badCtl (h : FlashIs F s) : FlashIs F (badCtl s n f) := by
  unfold Machine.badCtl
  extract_lets s'
  have h' : FlashIs F s' := .count1 (.ite h.raiseOpen h)
  exact .ite h'.sendRetry h'.setLk

theorem FlashIs.goodCtl (h : FlashIs F s) : FlashIs F (goodCtl s n f) := by
  unfold Machine.goodCtl
  extract_lets _ s'
  have h' : FlashIs F s' := h.setLk
  split
  · exact h'.ackTo
  · exact h'

theorem FlashIs.recvCtl {act : State → State} (h : FlashIs F s) (hact : ∀ u, FlashIs F u → FlashIs F (act u)) :
    FlashIs F (recvCtl s n f act) := by
  unfold Machine.recvCtl
  extract_lets s'
  have h' : FlashIs F s' := h.count1
  exact .ite (hact _ h'.goodCtl) h'.badCtl

theorem FlashIs.recvData {ds : List (BitVec 256)} (h : FlashIs F s) : FlashIs F (recvData s n ds) := h.setLk.countBy
theorem FlashIs.accepted (h : FlashIs F s) : FlashIs F (accepted s n) := h.setLk.count1

theorem FlashIs.accept {act : State → State} (h : FlashIs F s) (hact : ∀ u, FlashIs F u → FlashIs F (act u)) :
    FlashIs F (accept s n f act) := by
  unfold Machine.accept
  extract_lets _ s'
  have h' : FlashIs F s' := h.setLk
  exact .ite h' (hact _ h'.accepted)

theorem FlashIs.freeFlits {k : Nat} (h : FlashIs F s) : FlashIs F (freeFlits s n k) := h.setLk

theorem FlashIs.forward {dest hops : Nat} (h : FlashIs F s) : FlashIs F (forward s n dest hops p) := by
  unfold Machine.forward
  split
  · exact h.raiseOpen.count1.freeFlits
  · exact h.raiseOpen.count1.freeFlits
  · exact h.count1.enqueue

theorem FlashIs.tileLineCheck {t : Nat} {d : BitVec 1024} {desc : Nat} {ix : Int} {l : List Byte} (h : FlashIs F s) :
    FlashIs F (tileLineCheck s t d desc ix l) := by
  unfold Machine.tileLineCheck
  split
  · exact h
  · exact h.traise
  · exact h.tcount

theorem FlashIs.deliverLine {p t : Nat} {d : BitVec 1024} {i : Nat} {l : List Byte} (h : FlashIs F s) :
    FlashIs F (deliverLine s b p t d i l) := by
  unfold Machine.deliverLine
  extract_lets
  refine .ite (.ite (.foldl (fun _ _ hu => hu.looseEvent) h.updTile) h.updTile) ?_
  refine .ite ?_ h.devWrite
  dsimp -zeta only
  extract_lets _ s'
  have h' : FlashIs F s' := h.devRead.devWrite
  exact .ite (.foldl (fun _ _ hu => hu.looseEvent) (.of_eq h' rfl)) h'

theorem FlashIs.consume {payload : List Byte} (h : FlashIs F s) : FlashIs F (consume s n b payload) := by
  unfold Machine.consume
  extract_lets _ _ _ _ s₁ _ _ s₂ _ _ s₃ _ _ s₄ s₅
  have h₁ : FlashIs F s₁ := h.freeFlits
  have h₂ : FlashIs F s₂ := .foldl (fun _ _ hu => hu.deliverLine) h₁
  have h₃ : FlashIs F s₃ := .ite h₂.tcount h₂
  have h₄ : FlashIs F s₄ := h₃.setLk
  have h₅ : FlashIs F s₅ := .ite h₄.tdcAdd h₄
  exact .ite h₁.raiseOpen (.ite h₃.setLk (.ite h₅.tdcAdd h₅))

theorem FlashIs.execDataPacketSend {n : LinkIx} (h : FlashIs F s) : KeepsFlash F (execDataPacketSend n s) := by
  unfold Machine.execDataPacketSend
  extract_lets
  split
  · exact .skip h
  · exact .guarded h h.setLk.transmit.flushAll

theorem FlashIs.takePacket {data : List (BitVec 256)} (h : FlashIs F s) : FlashIs F (takePacket s n b data) :=
  .ite h.consume h.forward

theorem FlashIs.execDataPacketReceive {n : LinkIx} {data : List (BitVec 256)} {next : BitVec 256} (h : FlashIs F s) :
    KeepsFlash F (execDataPacketReceive n flit data next s) := by
  unfold Machine.execDataPacketReceive
  extract_lets
  refine .guarded h ?_
  refine .flushAll ?_
  refine .recvCtl h (fun _ hu => ?_)
  extract_lets s'
  have h' : FlashIs F s' := hu.recvData
  exact .ite (.accept h' (fun _ hv => hv.takePacket)) h'.count1.badCtl

theorem FlashIs.execIdleFlit {n : LinkIx} {body : BitVec 224} {crc : BitVec 32} (h : FlashIs F s) :
    KeepsFlash F (execIdleFlit n body crc s) := .guarded h (.flushAll (.recvCtl h (fun _ hu => hu)))

theorem FlashIs.resend (h : FlashIs F s) : FlashIs F (resend s n f) := .countBy (.foldl (fun _ _ hu => hu.emitPacket) h.setLk)

theorem FlashIs.execRetry {n : LinkIx} (h : FlashIs F s) : KeepsFlash F (execRetry n flit s) :=
  .guarded h (.flushAll (.recvCtl h (fun _ hu => .ite hu.linkDown hu.resend)))

theorem FlashIs.codewordAct {lanes : List (BitVec 680)} (h : FlashIs F s) : FlashIs F (codewordAct s n lanes) := by
  unfold Machine.codewordAct
  split
  · exact h
  · exact h.count1
  · extract_lets s'
    have h' : FlashIs F s' := h.count1
    exact .ite h'.sendRetry h'.setLk

theorem FlashIs.sendTrain (h : FlashIs F s) : FlashIs F (sendTrain s n) := h.emit

theorem FlashIs.execLinkTrain {n : LinkIx} (h : FlashIs F s) : KeepsFlash F (execLinkTrain n arg s) :=
  .next (.command h (fun _ hu => hu)
    (fun _ hu => .ite hu.postResult (.ite hu.postResult hu.setLk.setLkState.sendTrain.postRunning)))

theorem FlashIs.execLinkDisable {n : LinkIx} (h : FlashIs F s) : KeepsFlash F (execLinkDisable n arg s) :=
  .next (.command h (fun _ hu => hu) (fun _ hu => .ite hu.postResult (.postResult (.ite hu hu.linkDown))))

theorem FlashIs.endTrain {code : Nat} (h : FlashIs F s) : FlashIs F (endTrain s n code) := .ite h.postDone h
theorem FlashIs.trainSeen (h : FlashIs F s) : FlashIs F (trainSeen s n f) := h.setLk.setRg.setRg64
theorem FlashIs.spareAsked (h : FlashIs F s) : FlashIs F (spareAsked s n f) := .ite h.setLk h

theorem FlashIs.trainAct (h : FlashIs F s) : FlashIs F (trainAct s n f) := by
  unfold Machine.trainAct
  extract_lets _ _ s₁ _ s₂
  have h₁ : FlashIs F s₁ := h.trainSeen
  have h₂ : FlashIs F s₂ := h₁.setLk.sendTrain
  exact .ite h₁.sendTrain (.ite h₁.setLk.setLkState.endTrain.raiseOpen.sendTrain
    (.ite h₂.setLkState.setReady.endTrain.raiseOpen h₂))

theorem FlashIs.execTrainFlit {n : LinkIx} (h : FlashIs F s) : KeepsFlash F (execTrainFlit n flit s) :=
  .guarded h (.flushAll (.recvCtl h.setLk (fun _ hu => .ite hu.spareAsked hu.trainAct)))

theorem FlashIs.execLaneSwitch {n : LinkIx} {cw : Word} (h : FlashIs F s) : KeepsFlash F (execLaneSwitch n cw s) := by
  unfold Machine.execLaneSwitch
  extract_lets _ _ _ s'
  have h' : FlashIs F s' := .ite h.setRgF.setRgF h
  exact .next (.setLk (.ite h'.setRgF.setRgF h'))

theorem FlashIs.turnOf {tx : Nat} (h : FlashIs F s) : FlashIs F (turnOf s n tx).2 := .ite_snd h h

theorem FlashIs.driftCheck {off : Int} (h : FlashIs F s) : FlashIs F (driftCheck s off) := by
  unfold Machine.driftCheck
  extract_lets s'
  have h' : FlashIs F s' := h.setRgF
  exact .ite (.raiseOpen (.of_eq h' rfl)) (.of_eq h' rfl)

theorem FlashIs.delaySeen {rx : Nat} (h : FlashIs F s) : FlashIs F (delaySeen s n f rx) := .setLk (.ite h h.setRg)

theorem FlashIs.driftSeen {rx : Nat} (h : FlashIs F s) : FlashIs F (driftSeen s n f rx) := by
  unfold Machine.driftSeen
  refine .ite h ?_
  extract_lets s'
  have h' : FlashIs F s' := h.count1
  split
  · exact h'.driftCheck
  · exact h'

theorem FlashIs.execTimeFlit {n : LinkIx} {frac : BitVec 4} (h : FlashIs F s) : KeepsFlash F (execTimeFlit n flit frac s) :=
  .guarded h (.flushAll (.recvCtl h (fun _ hu => hu.delaySeen.driftSeen)))

theorem FlashIs.shiftTimes {by_ : Int} (h : FlashIs F s) : FlashIs F (shiftTimes s by_) := h

theorem FlashIs.alignTo {count depth : Nat} (h : FlashIs F s) : FlashIs F (alignTo s count depth) := by
  unfold Machine.alignTo
  extract_lets s₁
  have h₁ : FlashIs F s₁ := h.shiftTimes
  dsimp -zeta only
  extract_lets s₂
  have h₂ : FlashIs F s₂ := .setRgF (.setRgF (.setRgF (.of_eq (.of_eq h₁ rfl) rfl)))
  exact .raiseOpen (.of_eq h₂ rfl)

theorem FlashIs.execTimeAlign (h : FlashIs F s) : KeepsFlash F (execTimeAlign arg s) := by
  unfold Machine.execTimeAlign
  extract_lets
  refine .next ?_
  refine .command0 h (fun _ hu => hu) (fun _ hu => ?_)
  extract_lets
  refine .ite hu.postResult ?_
  refine .ite hu.postResult ?_
  split
  · exact hu.postResult
  · exact .ite hu.postResult (.ite hu.raiseOpen.postResult hu.alignTo.postResult)

end

/-! Sync objects and notification bindings. -/

section
variable {F : Flash} {s : State} {aux code msg n obj op p value : Nat} {flit : BitVec 256}

theorem FlashIs.setSync {o : SyncObj} (h : FlashIs F s) : FlashIs F (setSync s n o) := h.of_eq (setSync_flash ..)
theorem FlashIs.setArmed {b : Bool} (h : FlashIs F s) : FlashIs F (setArmed s n b) := h.setRg
theorem FlashIs.fireBinding (h : FlashIs F s) : FlashIs F (fireBinding s n) := .sendMsix (.setArmed h)
theorem FlashIs.notify (h : FlashIs F s) : FlashIs F (notify s obj) := .foldl (fun _ _ hu => hu.fireBinding) h
theorem FlashIs.sendMsg {dest : Nat} (h : FlashIs F s) : FlashIs F (sendMsg s msg code dest obj value aux) := h.originate

theorem FlashIs.toRoster (h : FlashIs F s) : FlashIs F (toRoster s msg code obj value aux) :=
  .foldl (fun _ _ hu => .sendMsg (.ite hu.count1 hu)) h

theorem FlashIs.toGroups (h : FlashIs F s) : FlashIs F (toGroups s msg code obj value aux) :=
  .foldl (fun _ _ hu => .ite hu.toRoster (.sendMsg (.ite hu.count1 hu))) h

theorem FlashIs.sendUpdates (h : FlashIs F s) : FlashIs F (sendUpdates s n) := by
  unfold Machine.sendUpdates
  extract_lets
  split
  · exact h.toRoster
  · exact h.toGroups
  · exact h

theorem FlashIs.applyOp {arg : DWord} (h : FlashIs F s) : FlashIs F (applyOp s n op arg).2 := by
  unfold Machine.applyOp
  extract_lets _ s'
  have h' : FlashIs F s' := h.count1
  exact .ite h' h'.setSync.notify.sendUpdates

theorem FlashIs.setLast {v : Nat} (h : FlashIs F s) : FlashIs F (setLast s p v) := h.setRgF

theorem FlashIs.launchWrite {g : Nat} (h : FlashIs F s) : FlashIs F (launchWrite s p g) := by
  unfold Machine.launchWrite
  extract_lets s'
  have h' : FlashIs F s' := h.setRg64
  exact .ite h'.updPart.dropAhead.setLast.syncLaunchState (.ite h'.setLast (.ite h'.setLast h'.updPart.syncLaunchState))

theorem FlashIs.launchObject {g part : Nat} {atHome : Bool} (h : FlashIs F s) :
    FlashIs F (launchObject s n g part atHome) := by
  unfold Machine.launchObject
  extract_lets _ s'
  have h' : FlashIs F s' := h.launchWrite
  split
  · exact .ite h'.toRoster h'
  · exact .ite h'.toGroups (.ite h'.toRoster h')
  · exact h'

theorem FlashIs.execSyncObjectDefine {n : BitVec 16} {field : BitVec 2} {v : RegData} (h : FlashIs F s) :
    KeepsFlash F (execSyncObjectDefine n field v s) := by
  unfold Machine.execSyncObjectDefine
  extract_lets _ _ _ _ _ s'
  have h' : FlashIs F s' := h.noteWrite
  refine .guarded h ?_
  refine .ite h'.raiseOpen ?_
  split
  · exact .ite h'.setPage h'.setSync
  · exact h'.setSync

theorem FlashIs.hostSync {up : BitVec 20} (h : FlashIs F s) : KeepsFlash F (hostSync op up s) :=
  .next (.command h (fun _ hu => hu)
    (fun _ hu => .ite hu.postResult
    (.ite hu.raiseOpen.postResult (.ite hu.postResult
    (.ite hu.raiseOpen.postResult (.ite hu.count1.launchObject.postResult
    (.postResult (.ite hu.applyOp.setRg64 hu.applyOp))))))))

theorem FlashIs.beginWait {kind number : Nat} (h : FlashIs F s) : FlashIs F (beginWait s p kind number) :=
  .ite h h.setRg.updPart

theorem FlashIs.endWait (h : FlashIs F s) : FlashIs F (endWait s p) := .ite h h.setRg
theorem FlashIs.tileOp {arg : DWord} (h : FlashIs F s) : FlashIs F (tileOp s n op arg) := .ite h.applyOp h.count1.sendMsg

theorem FlashIs.tileSync {t : TileIx} {acy : Nat} (h : FlashIs F s) : KeepsFlash F (tileSync op t acy s) :=
  h.issueFree (fun _ _ hu => hu.tileOp)

theorem FlashIs.waitOn {t : Nat} {e : BitVec 128} (h : FlashIs F s) : FlashIs F (waitOn s t e) := h.beginWait.updTile

theorem FlashIs.waitOver {t : Nat} {e : BitVec 128} (h : FlashIs F s) : FlashIs F (waitOver s t p e) := by
  unfold Machine.waitOver
  extract_lets s'
  have h' : FlashIs F s' := h.updTile
  exact .ite h'.endWait h'

theorem FlashIs.tileWait {t : TileIx} {acy : Nat} (h : FlashIs F s) : KeepsFlash F (tileWait op t acy s) := by
  unfold Machine.tileWait
  extract_lets
  split
  · exact .skip h
  · exact .ite (.next h.waitOn) (h.issueStep (fun _ _ hu => hu.waitOver))

theorem FlashIs.syncRecv {n : LinkIx} {act : BitVec 160 → State → State} (h : FlashIs F s)
    (hact : ∀ x u, FlashIs F u → FlashIs F (act x u)) : KeepsFlash F (syncRecv n flit msg act s) :=
  .guarded h (.flushAll (.recvCtl h (fun _ hu => .accept hu (fun _ hv => .ite (hact _ _ hv) hv.forward))))

theorem FlashIs.execSyncOp {n : LinkIx} (h : FlashIs F s) : KeepsFlash F (execSyncOp n flit s) :=
  h.syncRecv (fun _ _ hu => .ite hu.applyOp hu)

theorem FlashIs.execSyncUpdate {n : LinkIx} (h : FlashIs F s) : KeepsFlash F (execSyncUpdate n flit s) := by
  unfold Machine.execSyncUpdate
  refine h.syncRecv (fun _ _ hu => ?_)
  extract_lets _ _ s'
  have h' : FlashIs F s' := hu.setSync.notify
  exact .ite hu (.ite h'.toRoster h')

theorem FlashIs.execSyncLaunch {n : LinkIx} (h : FlashIs F s) : KeepsFlash F (execSyncLaunch n flit s) :=
  h.syncRecv (fun _ _ hu => hu.launchObject)

end

/-! The move stream. -/

section
variable {F : Flash} {s : State} {acy desc hint i op t ts : Nat} {d : BitVec 1024} {e : BitVec 128}
  {err : List (BitVec 7 × Byte)} {before : List (List (BitVec 7 × Byte))} {m : MoveSt}

theorem FlashIs.readLines {p : Nat} {as : List Nat} (h : FlashIs F s) : FlashIs F (readLines s p hint as).2 :=
  .foldl_snd (fun _ _ hu => hu.devRead) h

theorem FlashIs.runLines {first : Int} {count : Nat} (h : FlashIs F s) : FlashIs F (runLines s t desc d first count hint).2 :=
  h.readLines

theorem FlashIs.countOor {cnt : Nat} {ls : List RunLine} (h : FlashIs F s) : FlashIs F (countOor s t op cnt ls) :=
  .ite h h.tcount.traise

theorem FlashIs.moveInAct (h : FlashIs F s) : FlashIs F (moveInAct t acy e s) := h.runLines.setTile.tcount.countOor

theorem FlashIs.execMoveIn {t : TileIx} (h : FlashIs F s) : KeepsFlash F (execMoveIn t acy s) :=
  h.issueFree (fun _ _ hu => hu.moveInAct)

theorem FlashIs.accessLine (h : FlashIs F s) : FlashIs F (accessLine s t m i err).1 := by
  unfold Machine.accessLine
  extract_lets
  split
  · exact h
  · exact h.devRead.devSpan

theorem FlashIs.accessLines (h : FlashIs F s) : FlashIs F (accessLines s t m i before err).1 :=
  .foldl_fst (fun _ _ hu => hu.accessLine) h

theorem FlashIs.arriveAct {parity : Bool} (h : FlashIs F s) : FlashIs F (arriveAct s t acy m i before parity err) := by
  unfold Machine.arriveAct
  extract_lets
  dsimp -zeta only
  extract_lets s₁ s₂ _ s₃ _ s₄ s₅
  have h₁ : FlashIs F s₁ := .ite h.accessLines.tileLineCheck h.accessLines
  have h₂ : FlashIs F s₂ := .ite h₁.traise h₁
  have h₃ : FlashIs F s₃ := .ite (.traise (.tcount (.chargeTile (.ite_snd h₂.fiTake h₂)))) (.ite_snd h₂.fiTake h₂)
  have h₄ : FlashIs F s₄ := .ite h₃.tcount h₃
  have h₅ : FlashIs F s₅ := h₄.updTile
  exact .ite h₄ (.ite h₅.tdcTile h₅)

theorem FlashIs.execLineArrival {t : TileIx} {tag : Nat} {parity : Bool} (h : FlashIs F s) :
    KeepsFlash F (execLineArrival t tag i acy before parity err s) := by
  unfold Machine.execLineArrival
  extract_lets
  refine .ite (.skip h) ?_
  split
  · exact .skip h
  · exact .ite (.next h.snoop) (.guarded h h.arriveAct)

theorem FlashIs.putRunLine {count : Nat} {q : Nat × RunLine} (h : FlashIs F s) :
    FlashIs F (putRunLine s t desc hint d ts count q) := by
  unfold Machine.putRunLine
  extract_lets
  dsimp -zeta only
  extract_lets _ _ s'
  have h' : FlashIs F s' := h.tsCheck.outLine
  exact .ite h' h'.devPut

theorem FlashIs.scatterLine {order : Nat} {k : Int} {qs : List (Nat × RunLine)} (h : FlashIs F s) :
    FlashIs F (scatterLine s t desc hint op acy order d ts k qs) := by
  unfold Machine.scatterLine
  extract_lets _ _ s'
  have h' : FlashIs F s' := .foldl (fun _ _ hu => hu.tsCheck) h
  exact .updPart (.outLine (.foldl (fun _ _ hu => hu.scatterEvent.scatterEvent) (.ite_snd h'.devRead h')))

theorem FlashIs.scatterAll {order : Nat} {qs : List (Nat × RunLine)} (h : FlashIs F s) :
    FlashIs F (scatterAll s t desc hint op acy order d ts qs) := .foldl (fun _ _ hu => hu.scatterLine) h

theorem FlashIs.moveOutAct (h : FlashIs F s) : FlashIs F (moveOutAct t acy e s) := by
  unfold Machine.moveOutAct
  extract_lets
  dsimp -zeta only
  extract_lets _ _ s'
  have h' : FlashIs F s' := h.runLines.updTile.tcount.countOor
  exact .ite h'.scatterAll (.foldl (fun _ _ hu => hu.putRunLine) h')

theorem FlashIs.execMoveOut {t : TileIx} (h : FlashIs F s) : KeepsFlash F (execMoveOut t acy s) :=
  h.issueFree (fun _ _ hu => hu.moveOutAct)

theorem FlashIs.sendLines {m : Mrec} {run : List RunLine} (h : FlashIs F s) : FlashIs F (sendLines s t m hint run).2 :=
  .ite_snd (.foldl_snd (fun _ _ hu => hu.tsCheck.outLink) h) (.foldl_snd (fun _ _ hu => .ite_snd hu hu.devRead.tileLineCheck) h)

theorem FlashIs.linkSendAct (h : FlashIs F s) : FlashIs F (linkSendAct t acy e s) :=
  .foldl (fun _ _ hu => hu.originate)
    (.sendLines (.ite (.updTile (.ite_snd h h.runLines)) (.countOor (.tcount (.ite_snd h h.runLines)))))

theorem FlashIs.execLinkSend {t : TileIx} (h : FlashIs F s) : KeepsFlash F (execLinkSend t acy s) :=
  h.issueFree (fun _ _ hu => hu.linkSendAct)

theorem FlashIs.execTableLoad {t : TileIx} (h : FlashIs F s) : KeepsFlash F (execTableLoad t acy s) :=
  h.issueFree (fun _ _ hu => hu.tsCheck.updTile)

theorem FlashIs.execScaleSet {t : TileIx} (h : FlashIs F s) : KeepsFlash F (execScaleSet t acy s) :=
  h.issueFree (fun _ _ hu => hu.tsCheck.updTile)

theorem FlashIs.execOccLoad {t : TileIx} (h : FlashIs F s) : KeepsFlash F (execOccLoad t acy s) :=
  h.issueFree (fun _ _ hu => hu.tsCheck.updTile)

theorem FlashIs.execSlotBind {t : TileIx} (h : FlashIs F s) : KeepsFlash F (execSlotBind t acy s) :=
  h.issueFree (fun _ _ hu => .ite hu.updTile (.updTile hu))

theorem FlashIs.dispatchAct (h : FlashIs F s) : FlashIs F (dispatchAct t acy e s) := by
  unfold Machine.dispatchAct
  extract_lets _ _ _ _ _ _ _ s'
  have h' : FlashIs F s' := h.tsCheck.setTile.tcount.tcount
  exact .ite h' h'.traise

theorem FlashIs.execSlotDispatch {t : TileIx} (h : FlashIs F s) : KeepsFlash F (execSlotDispatch t acy s) :=
  h.issueFree (fun _ _ hu => hu.dispatchAct)

end

/-! Launches, segments, checks and announcements. -/

section
variable {F : Flash} {s : State} {acy p res t : Nat} {stream : BitVec 3} {low : BitVec 36} {check : BitVec 8} {g : Group}
  {errs : List (List (BitVec 7 × Byte))} {r : Run}

theorem FlashIs.updRun {f : Run → Run} (h : FlashIs F s) : FlashIs F (updRun s p f) := h.updPart

theorem FlashIs.forTiles {f : State → Nat → State} (h : FlashIs F s) (hf : ∀ u y, FlashIs F u → FlashIs F (f u y)) :
    FlashIs F (forTiles s p f) := .foldl hf h

theorem FlashIs.execLaunchStart {p : PartIx} (h : FlashIs F s) : KeepsFlash F (execLaunchStart p s) := by
  unfold Machine.execLaunchStart
  extract_lets _ _ _ _ s₁
  have h₁ : FlashIs F s₁ := h.updPart
  split
  · exact .skip h
  · extract_lets _ _ _ _ _ s₂
    have h₂ : FlashIs F s₂ := .count1
      (.setRg (.setImgState (.syncLaunchState (.setLast (.updPart (.forTiles h₁ (fun _ _ hu => hu.updTile)))))))
    exact .guarded h (.ite h₁.dropAhead.setLast.syncLaunchState.count1.raiseOpen.sendMsix
      (.foldl (fun _ _ hu => hu.tdcAdd) (.ite (.of_eq h₂ rfl) h₂)))

theorem FlashIs.restoreSnap (h : FlashIs F s) : FlashIs F (restoreSnap s p r) := by
  unfold Machine.restoreSnap
  extract_lets s'
  have h' : FlashIs F s' := .foldl (fun _ _ hu => .foldl (fun _ _ hv => hv.setCnt) hu.updTile) h
  exact .foldl (fun _ _ hu => hu.sendUpdates) (.of_eq h' rfl)

theorem FlashIs.execSegmentStart {p : PartIx} (h : FlashIs F s) : KeepsFlash F (execSegmentStart p s) := by
  unfold Machine.execSegmentStart
  extract_lets
  refine .ite (.skip h) ?_
  split
  · exact .skip h
  · exact .guarded h (.updRun (.forTiles (.ite (.updPart (.ite (.restoreSnap (.forTiles h (fun _ _ hu => hu.updTile))) h)) h)
    (fun _ _ hu => hu.updTile.setRg.setRg)))

theorem FlashIs.readGroup (h : FlashIs F s) : FlashIs F (readGroup s p g errs).2 := .pair_snd h.devSpan
theorem FlashIs.lateGroup {late : Bool} (h : FlashIs F s) : FlashIs F (lateGroup s t g late) := .ite h.tcount.tdcTile h

theorem FlashIs.fetchRun {st : Nat} (h : FlashIs F s) : FlashIs F (fetchRun s t st acy r g errs) :=
  h.readGroup.updTile.lateGroup

theorem FlashIs.aheadFor {mode : Nat} (h : FlashIs F s) : FlashIs F (aheadFor s p mode) := .ite h h.dropAhead.updPart

theorem FlashIs.fetchAhead {st : Nat} (h : FlashIs F s) : FlashIs F (fetchAhead s t st g errs) :=
  h.aheadFor.readGroup.updTile.lateGroup

theorem FlashIs.execScheduleFetch {t : TileIx} (h : FlashIs F s) : KeepsFlash F (execScheduleFetch t stream acy errs s) := by
  unfold Machine.execScheduleFetch
  extract_lets
  refine .ite (.skip h) ?_
  split
  · exact .next h.fetchRun
  · exact .next h.fetchAhead
  · exact .skip h

theorem FlashIs.lateCheck (h : FlashIs F s) : FlashIs F (lateCheck s p) := by
  unfold Machine.lateCheck
  split
  · exact .ite h h.tdcAdd.updRun
  · exact h

theorem FlashIs.setOutcome {v : Nat} (h : FlashIs F s) : FlashIs F (setOutcome s v) := h.setRgF.sendMsix
theorem FlashIs.outcome {v : Nat} (h : FlashIs F s) : FlashIs F (outcome s v) := .ite h h.setOutcome

theorem FlashIs.takeContinue (h : FlashIs F s) : FlashIs F (takeContinue s p res) := by
  unfold Machine.takeContinue
  split
  · exact h
  · extract_lets _ s'
    have h' : FlashIs F s' := h.updRun
    exact .ite h'.outcome.count1 h'

theorem FlashIs.takeEpoch (h : FlashIs F s) : FlashIs F (takeEpoch s p res) := by
  unfold Machine.takeEpoch
  split
  · exact h
  · exact .updRun (.forTiles h (fun _ _ hu => .ite hu hu.updTile.tcount))

theorem FlashIs.takeReplay (h : FlashIs F s) : FlashIs F (takeReplay s p res) :=
  .raiseOpen (.count1 (.outcome (.setRgF (.tdcAdd (.forTiles h.updRun (fun _ _ hu => hu.updTile))))))

theorem FlashIs.takeAbandon (h : FlashIs F s) : FlashIs F (takeAbandon s p res) := h.updRun

theorem FlashIs.endRun (h : FlashIs F s) : FlashIs F (endRun s p) := by
  unfold Machine.endRun
  extract_lets _ s'
  have h' : FlashIs F s' := .forTiles h (fun _ _ hu => hu.updTile.setRgF)
  exact .sendMsix (.setImgState (.syncLaunchState (.endWait (.updPart (.of_eq h' rfl)))))

theorem FlashIs.abandonRun (h : FlashIs F s) : FlashIs F (abandonRun s p res) := by
  unfold Machine.abandonRun
  split
  · exact h
  · exact .raiseOpen (.count1 (.outcome (.endWait (.updRun (.forTiles h (fun _ _ hu => hu.updTile))))))

theorem FlashIs.decideAlone {code : Nat} (h : FlashIs F s) : FlashIs F (decideAlone s p code r) := by
  unfold Machine.decideAlone
  extract_lets _ _ s'
  have h' : FlashIs F s' := .ite h.lateCheck h
  split
  · exact .ite h'.takeReplay h'.takeAbandon
  · exact h'.takeEpoch
  · exact h'.takeContinue

theorem FlashIs.answerCheck (h : FlashIs F s) : FlashIs F (answerCheck s p) := by
  unfold Machine.answerCheck
  split
  · exact h
  · refine .ite h ?_
    extract_lets _ _ s'
    have h' : FlashIs F s' := .updRun (.ite h.count1 h)
    exact .ite h'.decideAlone h'

theorem FlashIs.issueMark {stream : Nat} {e : BitVec 128} (h : FlashIs F s) : FlashIs F (issueMark s t stream acy e) := by
  unfold Machine.issueMark
  extract_lets _ s'
  have h' : FlashIs F s' := h.issueEntry.updTile
  refine .ite ?_ h'
  split
  · exact .ite h' h'.updRun.beginWait
  · exact h'

theorem FlashIs.execEpochPointMark {t : TileIx} (h : FlashIs F s) : KeepsFlash F (execEpochPointMark t stream acy s) := by
  unfold Machine.execEpochPointMark
  extract_lets
  refine .ite (.skip h) ?_
  split
  · exact .ite (.next h.issueMark.answerCheck) (.next h.answerCheck)
  · exact .next h.answerCheck

theorem FlashIs.execScheduleEnd {p : PartIx} (h : FlashIs F s) : KeepsFlash F (execScheduleEnd p s) := by
  unfold Machine.execScheduleEnd
  extract_lets
  refine .ite (.skip h) ?_
  split
  · exact .skip h
  · exact .guarded h h.endRun

theorem FlashIs.openNext (h : FlashIs F s) : FlashIs F (openNext s p r) := .ite h h

theorem FlashIs.execResumeStep {p : PartIx} (h : FlashIs F s) : KeepsFlash F (execResumeStep p s) := by
  unfold Machine.execResumeStep
  extract_lets
  refine .ite (.skip h) ?_
  split
  · exact .skip h
  · split
    · exact .skip h
    · exact .guarded h (.ite h.abandonRun
      (.ite h.updRun.endWait (.ite (.answerCheck (.updRun (.forTiles h (fun _ _ hu => hu.updTile))))
      h.openNext.updRun.endWait)))

theorem FlashIs.announceLate {lead : Nat} (h : FlashIs F s) : FlashIs F (announceLate s r res lead) := by
  unfold Machine.announceLate
  extract_lets s'
  have h' : FlashIs F s' := .ite h.lateCheck h
  exact .ite h'.count1.raiseOpen.lateCheck h'

theorem FlashIs.takeCopy {check low : Nat} {lead : Run → Nat} {act : State → Nat → State} (h : FlashIs F s)
    (hact : ∀ u y, FlashIs F u → FlashIs F (act u y)) : FlashIs F (takeCopy s check low lead act) := by
  unfold Machine.takeCopy
  split
  · exact hact _ _ h.count1.announceLate
  · split
    · exact .ite h.raiseOpen h
    · exact h

theorem FlashIs.execAnnContinue (h : FlashIs F s) : KeepsFlash F (execAnnContinue check low s) :=
  .guarded h (.setRgF (.takeCopy h (fun _ _ hu => hu.takeContinue)))

theorem FlashIs.execAnnEpoch (h : FlashIs F s) : KeepsFlash F (execAnnEpoch check low s) :=
  .guarded h (.setRgF (.takeCopy h (fun _ _ hu => hu.takeEpoch)))

theorem FlashIs.execAnnReplay (h : FlashIs F s) : KeepsFlash F (execAnnReplay check low s) :=
  .guarded h (.setRgF (.takeCopy h (fun _ _ hu => hu.takeReplay)))

theorem FlashIs.execAnnAbandon (h : FlashIs F s) : KeepsFlash F (execAnnAbandon check low s) := by
  unfold Machine.execAnnAbandon
  refine .guarded h ?_
  extract_lets s'
  have h' : FlashIs F s' := h.setRgF
  split
  · exact h'
  · exact .ite h'.count1.takeAbandon (.takeCopy h' (fun _ _ hu => hu.takeAbandon))

theorem FlashIs.execContractViolation {t : TileIx} (h : FlashIs F s) :
    KeepsFlash F (execContractViolation t stream acy s) := by
  unfold Machine.execContractViolation
  extract_lets _ _ _ due why
  clear_value due
  split
  · exact .skip h
  · clear_value why
    split
    · exact .skip h
    · exact .guarded h (.traise (.updTile (.ite h h.setRg.setRg)))

theorem FlashIs.abandonRot {site : Nat} (h : FlashIs F s) : FlashIs F (abandonRot s site) := .ite (.count1 (.setRgF h)) h

theorem FlashIs.moveTile {site : Nat} (h : FlashIs F s) : FlashIs F (moveTile s t site) := by
  unfold Machine.moveTile
  extract_lets _ s'
  have h' : FlashIs F s' := h.abandonRot
  exact .raiseOpen (.reloadMap (.updRun (.setRg (.retireSite (.of_eq h' rfl)))))

theorem FlashIs.serveMove (h : FlashIs F s) : FlashIs F (serveMove s t) := by
  unfold Machine.serveMove
  extract_lets
  split
  · exact h.moveTile
  · exact h.goOos.raise

end

/-! The Skink lanes. -/

section
variable {F : Flash} {s : State} {acy opcode : Nat} {t : TileIx}

theorem FlashIs.skinkAct {t : Nat} {act : State → State} {u : State} (h : FlashIs F u)
    (hact : ∀ u, FlashIs F u → FlashIs F (act u)) : FlashIs F (skinkAct t acy opcode act u) := .twinStep (hact _ h.tcount)

theorem FlashIs.skinkIssue {t : Nat} {act : Nat → BitVec 128 → State → State} (h : FlashIs F s)
    (hact : ∀ x y u, FlashIs F u → FlashIs F (act x y u)) : KeepsFlash F (skinkIssue t acy opcode act s) :=
  h.issueFree (fun _ _ hu => .skinkAct hu (fun _ hv => hact _ _ _ hv))

theorem FlashIs.laneStep {lat : Nat} {f : Nat → Bool → Nat → Nat → Nat → Nat × KEv} (h : FlashIs F s) :
    KeepsFlash F (laneStep t acy opcode lat f s) := by
  unfold Machine.laneStep
  exact h.skinkIssue (fun _ _ _ hu => hu.setTile.skinkEvents)

theorem FlashIs.maskStep {f : Nat → Nat → Nat → Bool × KEv} (h : FlashIs F s) : KeepsFlash F (maskStep t acy opcode f s) := by
  unfold Machine.maskStep
  exact h.skinkIssue (fun _ _ _ hu => hu.setTile.skinkEvents)

theorem FlashIs.execVload (h : FlashIs F s) : KeepsFlash F (execVload t acy s) := by
  unfold Machine.execVload
  exact h.skinkIssue (fun _ _ _ hu => hu.setTile.tsCheck)

theorem FlashIs.storeAct {t off n : Nat} {e : BitVec 128} (h : FlashIs F s) : FlashIs F (storeAct t acy off n e s) :=
  h.setTile.shadowUnit

theorem FlashIs.execVstore (h : FlashIs F s) : KeepsFlash F (execVstore t acy s) := h.skinkIssue (fun _ _ _ hu => hu.storeAct)

theorem FlashIs.execVstoreLine (h : FlashIs F s) : KeepsFlash F (execVstoreLine t acy s) :=
  h.skinkIssue (fun _ _ _ hu => hu.storeAct)

theorem FlashIs.execRand (h : FlashIs F s) : KeepsFlash F (execRand t acy s) := by
  unfold Machine.execRand
  exact h.skinkIssue (fun _ _ _ hu => hu.setTile.tcount)

theorem FlashIs.selectAct {t : Nat} {e : BitVec 128} (h : FlashIs F s) : FlashIs F (selectAct t acy e s) := by
  unfold Machine.selectAct
  extract_lets _ _ _ _ _ _ s'
  have h' : FlashIs F s' := h.setTile.tsCheck
  exact .shadowUnit (.ite h' h'.traise.tcount)

theorem FlashIs.execOutlierSelect (h : FlashIs F s) : KeepsFlash F (execOutlierSelect t acy s) :=
  h.skinkIssue (fun _ _ _ hu => hu.selectAct)

end

/-! Allocations, slices and controllers, the control of blocks, and the site map. -/

section
variable {F : Flash} {s : State} {base p : Nat} {arg : Arg} {ok : Bool} {k : CtrlIx} {err : List (BitVec 7 × Byte)}
  {page : PageIx}

theorem FlashIs.allocFail {check : Nat} (h : FlashIs F s) : FlashIs F (allocFail p check s) := h.setRg
theorem FlashIs.dropRange {size : Nat} (h : FlashIs F s) : FlashIs F (dropRange s base size) := h
theorem FlashIs.countFill {L : Nat} (h : FlashIs F s) : FlashIs F (countFill s base L) := .foldl (fun _ _ hu => hu.countBy) h

theorem FlashIs.zeroRange {size : Nat} (h : FlashIs F s) : FlashIs F (zeroRange s base size) := by
  unfold Machine.zeroRange
  extract_lets _ s'
  have h' : FlashIs F s' := h.dropRange
  exact .countFill (.of_eq h' rfl)

theorem FlashIs.execAllocCreate {p : PartIx} (h : FlashIs F s) : KeepsFlash F (execAllocCreate p arg s) := by
  unfold Machine.execAllocCreate
  extract_lets
  refine .next ?_
  refine .command0 h (fun _ hu => hu.allocFail) (fun _ hu => ?_)
  refine .ite hu.allocFail.postResult ?_
  split
  · exact hu.allocFail.postResult
  · extract_lets _ s'
    have h' : FlashIs F s' := .setRg hu
    exact .ite h'.updPart.postRunning h'.blankRange.postResult

theorem FlashIs.execAllocZeroComplete {p : PartIx} (h : FlashIs F s) : KeepsFlash F (execAllocZeroComplete p s) := by
  unfold Machine.execAllocZeroComplete
  extract_lets
  split
  · exact .skip h
  · extract_lets s'
    have h' : FlashIs F s' := by
      unfold s'
      split
      · exact h.zeroRange
      · exact h
    exact .next h'.updPart.postDone

theorem FlashIs.execAllocRelease {p : PartIx} (h : FlashIs F s) : KeepsFlash F (execAllocRelease p arg s) := by
  unfold Machine.execAllocRelease
  extract_lets
  refine .next ?_
  refine .command0 h (fun _ hu => hu) (fun _ hu => ?_)
  split
  · exact hu.postResult
  · refine .ite hu.postResult ?_
    extract_lets s'
    have h' : FlashIs F s' := hu.dropRange.blankRange
    exact .postResult (.of_eq h' rfl)

theorem FlashIs.execAllocQuery {p : PartIx} (h : FlashIs F s) : KeepsFlash F (execAllocQuery p arg s) := by
  unfold Machine.execAllocQuery
  extract_lets
  refine .next ?_
  refine .command0 h (fun _ hu => hu) (fun _ hu => ?_)
  split
  · exact hu.postResult
  · exact hu.setRgF.setRg64.setRg64.postResult

theorem FlashIs.execRemapAdd (h : FlashIs F s) : KeepsFlash F (execRemapAdd k arg s) := by
  unfold Machine.execRemapAdd
  extract_lets
  refine .next ?_
  refine .command0 h (fun _ hu => hu) (fun _ hu => ?_)
  extract_lets
  split
  · exact hu.postResult
  · exact hu.setCtrl.postResult

theorem FlashIs.execRemapRead (h : FlashIs F s) : KeepsFlash F (execRemapRead k arg s) := by
  unfold Machine.execRemapRead
  extract_lets
  refine .next ?_
  refine .command h (fun _ hu => hu) (fun _ hu => ?_)
  refine .ite hu.postResult ?_
  split
  · exact hu.postResult
  · exact hu.setRg64.postResult

theorem FlashIs.writeBacks {l : List CLine} (h : FlashIs F s) : FlashIs F (writeBacks s l) :=
  .foldl (fun _ _ hu => hu.writeBack) h

theorem FlashIs.cleanSlice {n : Nat} (h : FlashIs F s) : FlashIs F (cleanSlice s n) := by
  unfold Machine.cleanSlice
  extract_lets s'
  have h' : FlashIs F s' := h.writeBacks
  exact .of_eq h' rfl

theorem FlashIs.dropSlice {n : Nat} (h : FlashIs F s) : FlashIs F (dropSlice s n) := h

theorem FlashIs.execSliceClean {n : BitVec 4} (h : FlashIs F s) : KeepsFlash F (execSliceClean n arg s) :=
  .next (.command h (fun _ hu => hu) (fun _ hu => hu.postRunning.setBlk))

theorem FlashIs.execLineRead {line : BitVec 52} {hint : BitVec 2} {part : PartIx} (h : FlashIs F s) :
    KeepsFlash F (execLineRead line hint part err s) := .guarded h (.of_eq h.devRead rfl)

theorem FlashIs.execLineWrite {line : BitVec 52} {hint : BitVec 2} {part : PartIx} {data : BitVec 576}
    {parity : Option (BitVec 2)} (h : FlashIs F s) : KeepsFlash F (execLineWrite line hint part data parity s) := by
  unfold Machine.execLineWrite
  extract_lets
  refine .guarded h ?_
  split
  · exact h.parityLine
  · exact h.devWrite

theorem FlashIs.execScrubLine (h : FlashIs F s) : KeepsFlash F (execScrubLine k err s) := by
  unfold Machine.execScrubLine
  extract_lets _ _ _ _ _ _ _ s'
  have h' : FlashIs F s' := .setCtrl (.ite h h.memRead.count1)
  exact .next (.ite h'.count1 h')

theorem FlashIs.copyCodeword {a : Nat} (h : FlashIs F s) : FlashIs F (copyCodeword s a err) := h.memRead.count1

theorem FlashIs.execRemapCopyDone {channel : BitVec 6} {row : BitVec 24} {errs : RowErrs} (h : FlashIs F s) :
    KeepsFlash F (execRemapCopyDone k channel row errs s) := .guarded h (.foldl (fun _ _ hu => hu.copyCodeword) h.setCtrl)

theorem FlashIs.execNop (h : FlashIs F s) : KeepsFlash F (execNop page arg s) := by
  unfold Machine.execNop
  extract_lets _ s'
  have h' : FlashIs F s' := h.noteWrite
  exact .ite (.skip h) (.guarded h' h'.setPage.postResult)

theorem FlashIs.execUndefinedCommand {code : Byte} (h : FlashIs F s) : KeepsFlash F (execUndefinedCommand page code arg s) :=
  .ite h.hostSync (.next (.ite h (.command h (fun _ hu => hu) (fun _ hu => hu.postResult))))

theorem FlashIs.postControl {code : Nat} (h : FlashIs F s) : FlashIs F (postControl s p code) := .postResult h

theorem FlashIs.execEnable {v : Word} (h : FlashIs F s) : KeepsFlash F (execEnable page v s) := by
  unfold Machine.execEnable
  extract_lets _ s'
  have h' : FlashIs F s' := h.noteWrite
  exact .guarded h (.ite h'.postControl h'.setCtl)

theorem FlashIs.execQuiesce {v : Word} (h : FlashIs F s) : KeepsFlash F (execQuiesce page v s) :=
  .guarded h h.noteWrite.setCtl.setBlk

theorem FlashIs.refuseTest {code : Nat} (h : FlashIs F s) : FlashIs F (refuseTest s p code) := h.setCtl.postControl

theorem FlashIs.execSelftest {v : Word} (h : FlashIs F s) : KeepsFlash F (execSelftest page v s) := by
  unfold Machine.execSelftest
  extract_lets _ s'
  have h' : FlashIs F s' := h.noteWrite
  exact .guarded h (.ite h' (.ite h'.refuseTest (.ite h'.refuseTest (.ite h' (.ite h'.refuseTest h'.setCtl.setBlk.setReady)))))

theorem FlashIs.siteFailed {site : Nat} (h : FlashIs F s) : FlashIs F (siteFailed s site) := by
  unfold Machine.siteFailed
  extract_lets _ s'
  have h' : FlashIs F s' := h
  split
  · exact h'.retireFree
  · exact .ite h'.retireSite.reloadMap.serveMove h'.serveMove

theorem FlashIs.testDone {f : List (BitVec 7 × BitVec 7)} (h : FlashIs F s) : FlashIs F (testDone s p ok f).2 := by
  unfold Machine.testDone
  refine .ite_snd ?_ ?_
  · extract_lets _ s₁
    have h₁ : FlashIs F s₁ := by
      unfold s₁
      split
      · exact h.updTile
      · exact h
    dsimp -zeta only
    split
    · exact .siteFailed (.ite_snd h₁ (.of_eq h₁ rfl))
    · exact .ite_snd h₁ (.of_eq h₁ rfl)
    · exact .raiseOpen (.setRg (.of_eq (.ite_snd h₁ (.of_eq h₁ rfl)) rfl))
  · extract_lets s₂
    have h₂ : FlashIs F s₂ := .ite h.dropSlice h
    exact .ite h₂ h₂.setBlk.goOos

theorem FlashIs.execSelftestEnd {faults : List (BitVec 7 × BitVec 7)} (h : FlashIs F s) :
    KeepsFlash F (execSelftestEnd page ok faults s) := by
  unfold Machine.execSelftestEnd
  extract_lets _ _ s'
  have h' : FlashIs F s' := h.setCtl.setBlk
  split
  · exact .skip h
  · exact .guarded h (.ite h'.testDone.postControl.setBlk.setReady h'.testDone.postControl)

theorem FlashIs.execPwrReq {v : Word} (h : FlashIs F s) : KeepsFlash F (execPwrReq page v s) := by
  unfold Machine.execPwrReq
  extract_lets _ s'
  have h' : FlashIs F s' := h.noteWrite
  exact .guarded h (.ite h' (.ite (.ite h'.postControl h'.setCtl) (.ite h'.postControl h'.setCtl)))

theorem FlashIs.loseContents (h : FlashIs F s) : FlashIs F (loseContents s p) := by
  unfold Machine.loseContents
  refine .ite h.cleanSlice.dropSlice ?_
  refine .ite (.setCtrl h) ?_
  refine .ite h ?_
  refine .ite ?_ h
  split
  · exact h.setTile
  · exact h

theorem FlashIs.execPowerDomainOff (h : FlashIs F s) : KeepsFlash F (execPowerDomainOff page s) := by
  unfold Machine.execPowerDomainOff
  extract_lets _ s'
  have h' : FlashIs F s' := h.loseContents.domainOff
  exact .guarded h (.of_eq h' rfl)

theorem FlashIs.factoryRepair {site : Nat} (h : FlashIs F s) : FlashIs F (factoryRepair s site) := h.setRg

theorem FlashIs.execPowerDomainOn (h : FlashIs F s) : KeepsFlash F (execPowerDomainOn page s) := by
  unfold Machine.execPowerDomainOn
  extract_lets _ _ s'
  have h' : FlashIs F s' := h.setBlk
  exact .guarded h (.countSwitches (.ite h'.factoryRepair h'))

theorem FlashIs.execBlockReady {faults : List (BitVec 7 × BitVec 7)} (h : FlashIs F s) :
    KeepsFlash F (execBlockReady page ok faults s) := by
  unfold Machine.execBlockReady
  extract_lets _ _ s'
  have h' : FlashIs F s' := .ite h.factoryRepair (.ite h.setCtrl h)
  exact .guarded h (.ite (.setReady (.ite_snd h'.testDone h')) (.ite_snd h'.testDone h'))

theorem FlashIs.applyMap (h : FlashIs F s) : FlashIs F (applyMap s) := by
  unfold Machine.applyMap
  extract_lets _ _ s'
  have h' : FlashIs F s' := .foldl (fun _ _ hu => hu.abandonRot) h
  exact .foldl (fun _ _ hu => hu.retireSite) (.of_eq h' rfl)

theorem FlashIs.execSiteMapApply (h : FlashIs F s) : KeepsFlash F (execSiteMapApply arg s) :=
  .next (.command h (fun _ hu => .ite hu hu.reloadMap)
    (fun _ hu => .ite hu.reloadMap.postResult (.ite hu.applyMap.reloadMap.postResult hu.reloadMap.postResult)))

theorem FlashIs.execSiteMapStageWrite {off : BitVec 12} {v : Word} (h : FlashIs F s) :
    KeepsFlash F (execSiteMapStageWrite off v s) := by
  unfold Machine.execSiteMapStageWrite
  extract_lets _ s'
  have h' : FlashIs F s' := h.noteWrite
  exact .guarded h (.ite h' (.ite h'.setRg h'.setRg))

theorem FlashIs.execPartSet (h : FlashIs F s) : KeepsFlash F (execPartSet arg s) :=
  .next (.command h (fun _ hu => hu)
    (fun _ hu => .ite hu.postResult
    (.ite hu.postResult (.ite hu.postResult (.postResult (.foldl (fun _ _ hv => hv.updPart) (.setRgF hu)))))))

theorem FlashIs.execArrayRepairWrite {site : SiteIx} {v : Word} (h : FlashIs F s) :
    KeepsFlash F (execArrayRepairWrite site v s) := by
  unfold Machine.execArrayRepairWrite
  extract_lets _ _ _ _ s'
  have h' : FlashIs F s' := h.noteWrite
  exact .guarded h (.ite h' h'.setRg)

end

/-! The Chorus bus. -/

section
variable {F : Flash} {s : State} {j : Nat} {arg : Arg}

theorem FlashIs.updChorus {f : Chorus → Chorus} (h : FlashIs F s) : FlashIs F (updChorus s f) := h

theorem FlashIs.chorusCmd {code : Nat} {act : State → State} (h : FlashIs F s) (hact : ∀ u, FlashIs F u → FlashIs F (act u)) :
    KeepsFlash F (chorusCmd code arg act s) :=
  .next (.command0 h (fun _ hu => hu) (fun _ hu => .ite hu.postResult (hact _ hu)))

theorem FlashIs.execChorusStart (h : FlashIs F s) : KeepsFlash F (execChorusStart arg s) :=
  h.chorusCmd (fun _ hu => .ite hu.postResult hu.setRgF.postResult)

theorem FlashIs.execChorusStop (h : FlashIs F s) : KeepsFlash F (execChorusStop arg s) :=
  h.chorusCmd (fun _ hu => .ite hu.postResult hu.setRgF.updChorus.postResult)

theorem FlashIs.execChorusAbort (h : FlashIs F s) : KeepsFlash F (execChorusAbort arg s) := by
  unfold Machine.execChorusAbort
  refine h.chorusCmd (fun _ hu => ?_)
  split
  · exact hu.postResult
  · exact hu.updChorus.postRunning

theorem FlashIs.setAnn {type check res : Nat} (h : FlashIs F s) : FlashIs F (setAnn s type check res) := h.updChorus

theorem FlashIs.announceAll {type check res : Nat} (h : FlashIs F s) : FlashIs F (announceAll s type check res) :=
  .foldl (fun _ _ hu => hu.sendMsg) h

theorem FlashIs.decideSystem (h : FlashIs F s) : FlashIs F (decideSystem s j) := .ite h.updChorus.announceAll.setAnn h
theorem FlashIs.noteGroup {g answer : Nat} (h : FlashIs F s) : FlashIs F (noteGroup s g answer j) := h.updChorus.decideSystem

theorem FlashIs.completeCheck (h : FlashIs F s) : FlashIs F (completeCheck s j) := by
  unfold Machine.completeCheck
  extract_lets _ s'
  have h' : FlashIs F s' := .count1 (.updChorus (.ite h.postDone h))
  exact .ite h'.setAnn (.ite h'.noteGroup h'.sendMsg)

theorem FlashIs.execGroupResult {n : LinkIx} {flit : BitVec 256} (h : FlashIs F s) :
    KeepsFlash F (execGroupResult n flit s) := by
  unfold Machine.execGroupResult
  refine h.syncRecv (fun _ _ hu => ?_)
  split
  · exact .ite hu.noteGroup hu
  · exact hu

theorem FlashIs.execLinkAnnounce {n : LinkIx} {flit : BitVec 256} (h : FlashIs F s) :
    KeepsFlash F (execLinkAnnounce n flit s) := h.syncRecv (fun _ _ hu => .ite hu.setAnn hu)

theorem FlashIs.execChorusRound (h : FlashIs F s) : KeepsFlash F (execChorusRound s) := by
  unfold Machine.execChorusRound
  extract_lets _ say _ s₁ _ s₂
  have hsay : ∀ u w, FlashIs F u → FlashIs F (say u w) := fun _ _ hu => hu
  have h₁ : FlashIs F s₁ := h.count1.updChorus
  have h₂ : FlashIs F s₂ := .ite h₁.postDone h₁
  refine .guarded h ?_
  split
  · exact hsay _ _ h₁
  · exact .ite (hsay _ _ h₁.updChorus) (.ite (hsay _ _ h₁) (hsay _ _ (.updChorus (.ite h₂.announceAll h₂))))

theorem FlashIs.execRoundWord {word : DWord} (h : FlashIs F s) : KeepsFlash F (execRoundWord word s) := by
  unfold Machine.execRoundWord
  extract_lets _ _ s₁ s₂ _ s₃
  have h₁ : FlashIs F s₁ := h.count1
  have h₂ : FlashIs F s₂ := h₁.updChorus
  have h₃ : FlashIs F s₃ := h₁.updChorus.count1.raiseOpen
  exact .guarded h (.ite (.ite h₂.setRgF h₂) (.ite h₃.setRgF.raiseOpen h₃))

theorem FlashIs.setMissing {k n : Nat} (h : FlashIs F s) : FlashIs F (setMissing s k n) := h.updChorus

theorem FlashIs.execSlotAnswer {slot : BitVec 6} {code : BitVec 4} {all : Bool} (h : FlashIs F s) :
    KeepsFlash F (execSlotAnswer slot code all s) := by
  unfold Machine.execSlotAnswer
  extract_lets _ _ s₁ s₂ _ s₃ _ s₄ s₅ _ _ _ s₆
  have h₁ : FlashIs F s₁ := h.setRgF
  have h₂ : FlashIs F s₂ := .ite h₁.raiseOpen h₁
  have h₃ : FlashIs F s₃ := .ite h₂.raiseOpen h₂
  have h₄ : FlashIs F s₄ := .ite h₃ h₃.setMissing
  have h₅ : FlashIs F s₅ := .ite h₄.raise h₄
  have h₆ : FlashIs F s₆ := .updChorus (.ite h₅ h₅.updChorus)
  refine .guarded h ?_
  split
  · exact h₃
  · exact .ite h₆.completeCheck h₆

end

/-! Descriptors, images and contexts. -/

section
variable {F : Flash} {s : State} {code p : Nat} {arg : Arg}

theorem FlashIs.descFail {check dim : Nat} (h : FlashIs F s) : FlashIs F (descFail p check dim s) := h.setRg

theorem FlashIs.descCmd {refuse : State → State} {act : Nat → State → State} (h : FlashIs F s)
    (hrefuse : ∀ u, FlashIs F u → FlashIs F (refuse u)) (hact : ∀ x u, FlashIs F u → FlashIs F (act x u)) :
    KeepsFlash F (descCmd p code arg refuse act s) :=
  .next (.command h hrefuse (fun _ hu => .ite (.postResult (hrefuse _ hu)) (.ite (.postResult (hrefuse _ hu)) (hact _ _ hu))))

theorem FlashIs.execDescCreate {p : PartIx} (h : FlashIs F s) : KeepsFlash F (execDescCreate p arg s) := by
  unfold Machine.execDescCreate
  extract_lets
  refine h.descCmd (fun _ hu => hu.descFail) (fun _ _ hu => ?_)
  refine .ite hu.descFail.postResult ?_
  split
  · exact hu.descFail.postResult
  · exact hu.setDesc.setRg.postResult

theorem FlashIs.execDescDestroy {p : PartIx} (h : FlashIs F s) : KeepsFlash F (execDescDestroy p arg s) := by
  unfold Machine.execDescDestroy
  exact h.descCmd (fun _ hu => hu) (fun _ _ hu => .ite hu.postResult (.postResult hu))

theorem FlashIs.execDescRead {p : PartIx} (h : FlashIs F s) : KeepsFlash F (execDescRead p arg s) := by
  unfold Machine.execDescRead
  extract_lets
  refine h.descCmd (fun _ hu => hu) (fun _ _ hu => ?_)
  split
  · exact hu.postResult
  · exact .postResult (.foldl (fun _ _ hv => hv.setRg) hu)

theorem FlashIs.asLoaded {hd : Header} {i : Img} (h : FlashIs F s) : FlashIs F (asLoaded s p hd i) := by
  unfold Machine.asLoaded
  extract_lets
  exact .foldl (fun _ _ hu => .of_eq hu rfl) h.updPart

theorem FlashIs.imgCmd {refuse act : State → State} (h : FlashIs F s) (hrefuse : ∀ u, FlashIs F u → FlashIs F (refuse u))
    (hact : ∀ u, FlashIs F u → FlashIs F (act u)) : KeepsFlash F (imgCmd p code arg refuse act s) :=
  .next (.command0 h hrefuse (fun _ hu => .ite (.postResult (hrefuse _ hu)) (hact _ hu)))

theorem FlashIs.imgFail {stage item : Nat} (h : FlashIs F s) : FlashIs F (imgFail s p stage item) := h.setRg

theorem FlashIs.execImageLoad {p : PartIx} (h : FlashIs F s) : KeepsFlash F (execImageLoad p arg s) :=
  h.imgCmd (fun _ hu => hu) (fun _ hu => .ite hu.postResult (.ite hu.postResult hu.sealAlloc.updPart.setImgState.postRunning))

theorem FlashIs.refuseLoad {handle stage item : Nat} (h : FlashIs F s) :
    FlashIs F (refuseLoad s p handle stage item code) := by
  unfold Machine.refuseLoad
  extract_lets s'
  have h' : FlashIs F s' := h.sealAlloc.updPart
  exact .postDone (.imgFail (.setImgState (.ite h'.count1 h')))

theorem FlashIs.acceptLoad {hd : Header} {i : Img} (h : FlashIs F s) : FlashIs F (acceptLoad s p hd i) :=
  .postDone (.setRg (.setDigest (.foldl (fun _ _ hu => hu.updTile) (.foldl (fun _ _ hu => hu.setDesc) h.updPart))))

theorem FlashIs.execImageLoadComplete {p : PartIx} (h : FlashIs F s) : KeepsFlash F (execImageLoadComplete p s) := by
  unfold Machine.execImageLoadComplete
  extract_lets
  split
  · exact .skip h
  · refine .guarded h ?_
    split
    · exact h.refuseLoad
    · extract_lets
      split
      · exact h.refuseLoad
      · exact h.acceptLoad

theorem FlashIs.execImageUnload {p : PartIx} (h : FlashIs F s) : KeepsFlash F (execImageUnload p arg s) :=
  h.imgCmd (fun _ hu => hu) (fun _ hu => .ite hu.postResult hu.dropImage.postResult)

theorem FlashIs.pokeLong {a : Nat} {l : List Byte} (h : FlashIs F s) : FlashIs F (pokeLong s a l) := by
  unfold Machine.pokeLong
  extract_lets s'
  have h' : FlashIs F s' := .foldl (fun _ _ hu => hu.pokeBytes) h
  exact .of_eq h' rfl

theorem FlashIs.ctxWrite {a : Alloc} (h : FlashIs F s) : FlashIs F (ctxWrite s p a) := h.pokeLong

theorem FlashIs.execCtxSave {p : PartIx} (h : FlashIs F s) : KeepsFlash F (execCtxSave p arg s) := by
  unfold Machine.execCtxSave
  extract_lets
  refine h.imgCmd (fun _ hu => hu) (fun _ hu => ?_)
  refine .ite hu.postResult ?_
  refine .ite hu.postResult ?_
  split
  · exact hu.postResult
  · exact .ite hu.postResult hu.ctxWrite.updPart.postRunning

theorem FlashIs.ctxTileRestore {a t : Nat} (h : FlashIs F s) : FlashIs F (ctxTileRestore s a t) := by
  unfold Machine.ctxTileRestore
  extract_lets
  exact h.updTile

theorem FlashIs.ctxApply {c : Ctx} (h : FlashIs F s) : FlashIs F (ctxApply s p c) := by
  unfold Machine.ctxApply
  extract_lets _ _ _ s'
  have h' : FlashIs F s' := .foldl (fun _ _ hu => hu.ctxTileRestore) h
  exact .setRgF (.updPart (.foldl (fun _ _ hu => hu.setDesc) (.of_eq h' rfl)))

theorem FlashIs.execCtxRestore {p : PartIx} (h : FlashIs F s) : KeepsFlash F (execCtxRestore p arg s) := by
  unfold Machine.execCtxRestore
  extract_lets
  refine h.imgCmd (fun _ hu => hu) (fun _ hu => ?_)
  refine .ite hu.postResult ?_
  refine .ite hu.postResult ?_
  split
  · exact hu.imgFail.postResult
  · exact hu.ctxApply.updPart.postRunning

end

/-! The register file as the host sees it. -/

section
variable {F : Flash} {s : State} {e o p : Nat} {page : PageIx} {lo : Word}

theorem FlashIs.readWord (h : FlashIs F s) : FlashIs F (readWord s p o).2 := by
  unfold Machine.readWord
  extract_lets
  refine .ite_snd h.setPage ?_
  split
  · exact .ite_snd h.setPage h
  · exact h

theorem FlashIs.readWords {wide : Bool} (h : FlashIs F s) : FlashIs F (readWords s p o wide).2 :=
  .ite_snd h.readWord.readWord h.readWord

theorem FlashIs.execLowerWordRead {acc : RegRead} (h : FlashIs F s) : KeepsFlash F (execLowerWordRead page acc s) := by
  unfold Machine.execLowerWordRead
  extract_lets _ _ _ s'
  have h' : FlashIs F s' := h.readWords
  exact .guarded h (.ite h (.of_eq h' rfl))

theorem FlashIs.execUpperWordWrite {off : BitVec 12} {v : Word} (h : FlashIs F s) :
    KeepsFlash F (execUpperWordWrite page off v s) := .guarded h (.ite h.noteWrite.postControl h.setPage)

theorem FlashIs.writeChorus {v : Word} (h : FlashIs F s) : FlashIs F (writeChorus s o v) :=
  .ite (.ite h.postControl h) (.ite (.ite h.postControl h.setRg) h.setRg)

theorem FlashIs.showThermal (h : FlashIs F s) : FlashIs F (showThermal s) := h.setRgF.setRgF.raiseLevel

theorem FlashIs.writeReg {v : Word} (h : FlashIs F s) : FlashIs F (writeReg s p o v) := by
  unfold Machine.writeReg
  extract_lets
  split
  · exact h.setPage
  · exact h.setPage
  · exact h.setPage
  · exact .ite h (.ite h.writeChorus (.ite h.setRg.showThermal h.setRg))

theorem FlashIs.rearmRecords {sticky z : Nat → Bool} (h : FlashIs F s) : FlashIs F (rearmRecords s p sticky z) := by
  unfold Machine.rearmRecords
  extract_lets _ s₁ s₂ s₃
  have h₁ : FlashIs F s₁ := .foldl (fun _ _ hu => hu.setRg) h
  have h₂ : FlashIs F s₂ := by
    unfold s₂
    refine .ite ?_ h
    split
    · exact h₁.updTile
    · exact h₁
  have h₃ : FlashIs F s₃ := .ite (.foldl (fun _ _ hu => hu.setRg) h₂) h₂
  exact .ite (.ite (.foldl (fun _ _ hu => hu.setRg) h₃) h₃)
    (.ite (.ite (.foldl (fun _ _ hu => hu.setRg) h) h) (.ite h.setRgF (.ite (.foldl (fun _ _ hu => hu.setRg) h) h)))

theorem FlashIs.fillRecord {ws : List Word} (h : FlashIs F s) : FlashIs F (fillRecord s p e ws) := by
  unfold Machine.fillRecord
  split
  · exact h
  · exact .ite h (.foldl (fun _ _ hu => hu.setRg) h)

theorem FlashIs.reportAgain {owners : List Nat} (h : FlashIs F s) : FlashIs F (reportAgain s p e owners) :=
  .ite (.collect h (fun _ _ _ hu => hu.countN)) h

theorem FlashIs.takeAgain {held : Nat → Bool} {a : Again} (h : FlashIs F s) : FlashIs F (takeAgain s p held a) := by
  unfold Machine.takeAgain
  extract_lets _ _ s'
  have h' : FlashIs F s' := h.fillRecord
  exact .ite h (.ite h'.reportAgain h'.raiseOwned)

theorem FlashIs.execEvtStickyClear {v : Word} {again : List Again} (h : FlashIs F s) :
    KeepsFlash F (execEvtStickyClear page v again s) :=
  .guarded h (.foldl (fun _ _ hu => hu.takeAgain) h.noteWrite.setPage.rearmRecords)

theorem FlashIs.incCounter {i : Nat} {x : Inc} (h : FlashIs F s) : FlashIs F (incCounter s p i x) := by
  unfold Machine.incCounter
  refine .ite h.tdcAdd ?_
  refine .ite h.tdcAdd ?_
  refine .ite ?_ h.count1
  split
  · exact h.count1.precFirst
  · exact h.count1

theorem FlashIs.execCounterClear {v : Word} {inc : List Inc} (h : FlashIs F s) :
    KeepsFlash F (execCounterClear page v inc s) := by
  unfold Machine.execCounterClear
  extract_lets _ _ s₁ s₂
  have h₁ : FlashIs F s₁ := h.noteWrite
  have h₂ : FlashIs F s₂ := h₁.setCnt
  exact .guarded h (.ite h₁ (.foldl (fun _ _ hu => hu.incCounter) (.ite h₁ (.ite h₂.setRg (.ite h₂.setRg.setRg h₂)))))

theorem FlashIs.execLaunchAtWrite {p : PartIx} {bar2 : Bool} {hi : Option Word} (h : FlashIs F s) :
    KeepsFlash F (execLaunchAtWrite p bar2 hi lo s) := .guarded h h.noteWrite.launchWrite

theorem FlashIs.execRngSeedWrite {site : SiteIx} {hi : Option Word} (h : FlashIs F s) :
    KeepsFlash F (execRngSeedWrite site hi lo s) := by
  unfold Machine.execRngSeedWrite
  extract_lets _ _ s'
  have h' : FlashIs F s' := h.noteWrite
  refine .guarded h ?_
  split
  · exact h'
  · exact .ite h'.updPart h'.updPart

theorem FlashIs.execSkinkFirstClear {site : SiteIx} {v : Word} (h : FlashIs F s) :
    KeepsFlash F (execSkinkFirstClear site v s) := by
  unfold Machine.execSkinkFirstClear
  extract_lets _ s₁ s₂
  have h₁ : FlashIs F s₁ := h.noteWrite
  have h₂ : FlashIs F s₂ := h₁.setRg.setRg
  refine .guarded h ?_
  refine .ite h₁ ?_
  split
  · exact h₂.updTile
  · exact h₂

theorem FlashIs.freeWords {n : Nat} (h : FlashIs F s) : FlashIs F (freeWords n s).2 := by
  induction n generalizing s with
  | zero => exact h
  | succ n ih => exact ih (s := (Machine.choose s (2 ^ 32)).2) h.choose

theorem FlashIs.injectEvent (h : FlashIs F s) : FlashIs F (injectEvent s p e) := by
  unfold Machine.injectEvent
  dsimp -zeta only
  exact h.freeWords.choose.fillRecord.raiseOwned

theorem FlashIs.execFaultInjectArm {v : Word} (h : FlashIs F s) : KeepsFlash F (execFaultInjectArm v s) := by
  unfold Machine.execFaultInjectArm
  extract_lets _ _ _ _ s₁ _ s₂ _ s₃
  have h₁ : FlashIs F s₁ := h.noteWrite
  have h₂ : FlashIs F s₂ := h₁.setRg
  have h₃ : FlashIs F s₃ := .of_eq h₂ rfl
  exact .guarded h (.ite h₁ (.ite (.foldl (fun _ _ hu => hu.injectEvent) h₃) h₃))

theorem FlashIs.execModeReqWrite {v : Word} (h : FlashIs F s) : KeepsFlash F (execModeReqWrite v s) := by
  unfold Machine.execModeReqWrite
  extract_lets _ s'
  have h' : FlashIs F s' := h.noteWrite.setRgF
  exact .guarded h (.ite h' h'.setRgF)

theorem FlashIs.after {o : Host.Outcome State Fault Refusal} (h : FlashIs F s) (ho : KeepsFlash F o) :
    FlashIs F (after s o) := by
  unfold Machine.after
  split
  · exact ho _ rfl
  · exact h

theorem FlashIs.writeWord {v : Word} (h : FlashIs F s) : FlashIs F (writeWord s p o v) := by
  unfold Machine.writeWord
  extract_lets _ _ upper s'
  have h' : FlashIs F s' := h.noteWrite
  refine .ite (.after h (.execPwrReq (.after h (.execSelftest (.after h (.execQuiesce (.after h h.execEnable))))))) ?_
  refine .ite h ?_
  refine .ite (.after h h.execEvtStickyClear) ?_
  refine .ite (.after h h.execCounterClear) ?_
  refine .ite (.after h h.execUpperWordWrite) ?_
  refine .ite (.after h h.execArrayRepairWrite) ?_
  refine .ite (.after h h.execSkinkFirstClear) ?_
  refine .ite (.after h h.execRngSeedWrite) ?_
  refine .ite (.after h h.execLaunchAtWrite) ?_
  refine .ite (.after h h.execFaultInjectArm) ?_
  refine .ite (.after h h.execSiteMapStageWrite) ?_
  refine .ite (.after h h.execModeReqWrite) ?_
  refine .ite ?_ h
  clear_value upper
  split
  · exact h'.writeReg.writeReg
  · exact h'.writeReg

theorem FlashIs.writeWide {hi : Word} (h : FlashIs F s) : FlashIs F (writeWide s p o lo hi) :=
  .ite h.writeWord.writeWord (.ite (.after h h.execRngSeedWrite)
    (.ite (.after h h.execLaunchAtWrite) (.ite h.noteWrite.writeReg.writeReg h)))

theorem FlashIs.execRegisterWrite {off : BitVec 12} {v : RegData} (h : FlashIs F s) :
    KeepsFlash F (execRegisterWrite page off v s) := by
  unfold Machine.execRegisterWrite
  extract_lets
  split
  · exact .guarded h h.writeWord
  · exact .guarded h h.writeWide

end

/-! The host interface. -/

section
variable {F : Flash} {s : State} {a done hint p : Nat} {arg : Arg}

theorem FlashIs.holdLine (h : FlashIs F s) : FlashIs F (holdLine s a) := by
  unfold Machine.holdLine
  refine .ite h ?_
  extract_lets s'
  have h' : FlashIs F s' := .ite h.snoop h
  exact .of_eq h' rfl

theorem FlashIs.holdLines {on : Bool} {l : List Nat} (h : FlashIs F s) : FlashIs F (holdLines s on l) :=
  .ite (.foldl (fun _ _ hu => hu.holdLine) h) h

theorem FlashIs.hostLineRead {err : List (BitVec 7 × Byte)} (h : FlashIs F s) : FlashIs F (hostLineRead s a err).2.2 :=
  h.count1.readLine

theorem FlashIs.hostReads {l : List (Nat × List (BitVec 7 × Byte))} (h : FlashIs F s) : FlashIs F (hostReads l s).2.2 := by
  induction l generalizing s with
  | nil => exact h
  | cons x l ih => exact ih h.hostLineRead

theorem FlashIs.execHostMemRead {decoder : BitVec 1} {offset : BitVec 52} {hold : Bool} {err1 err2 : List (BitVec 7 × Byte)}
    (h : FlashIs F s) : KeepsFlash F (execHostMemRead decoder offset hold err1 err2 s) := by
  unfold Machine.execHostMemRead
  extract_lets _ _ _ s₁ s₂
  have h₁ : FlashIs F s₁ := h.hostReads
  have h₂ : FlashIs F s₂ := .of_eq h₁ rfl
  exact .ite .fault (.guarded h (.holdLines (.ite h₂.raiseOpen h₂)))

theorem FlashIs.dropWrite (h : FlashIs F s) : FlashIs F (dropWrite s) := h.count1.raiseOpen

theorem FlashIs.hostLineWrite {bs : List (Option Byte)} (h : FlashIs F s) : FlashIs F (hostLineWrite s a bs) := by
  unfold Machine.hostLineWrite
  extract_lets _ read
  have hread : FlashIs F read.2 := by
    unfold read
    split
    · exact h
    · exact h.readLine
  split
  · exact h.count1.raiseOpen.dropWrite
  · exact .ite h.dropWrite (.ite hread.count1.dropWrite hread.count1.count1.writeLine)

theorem FlashIs.execHostMemWrite {decoder : BitVec 1} {offset : BitVec 52} {data : BitVec 512} {be : BitVec 64} {hold : Bool}
    (h : FlashIs F s) : KeepsFlash F (execHostMemWrite decoder offset data be hold s) :=
  .ite .fault (.guarded h (.holdLines (.foldl (fun _ _ hu => hu.hostLineWrite) h)))

theorem FlashIs.snoopDone (h : FlashIs F s) : FlashIs F (snoopDone s a) := h

theorem FlashIs.copyIndex {d : BitVec 1024} {vs : List (List Nat)} (h : FlashIs F s) : FlashIs F (copyIndex s p d vs).2 :=
  h.readLines

theorem FlashIs.copyCheckLine {src : Nat} {a : BitVec 1024} {l : Int} {d : List Byte} (h : FlashIs F s) :
    FlashIs F (copyCheckLine s p src a l d) := by
  unfold Machine.copyCheckLine
  split
  · exact h.count1
  · exact .traise h
  · exact h

theorem FlashIs.copySources {src : Nat} {a : BitVec 1024} {streams : Bool} {l : List Int} (h : FlashIs F s) :
    FlashIs F (copySources s p src a streams l).1 := by
  induction l generalizing s with
  | nil => exact h
  | cons k l ih => exact ih h.devRead.copyCheckLine.devSpan

theorem FlashIs.copyOld {b : BitVec 1024} {ks : List Int} (h : FlashIs F s) : FlashIs F (copyOld s p hint b ks).1 :=
  .foldl_fst (fun _ _ hu => hu.devRead) h

theorem FlashIs.copyWrites {e : List Byte} {a b : BitVec 1024} (h : FlashIs F s) : FlashIs F (copyWrites s p e a b).1 := by
  unfold Machine.copyWrites
  dsimp -zeta only
  have hread : ∀ {k l x y z}, FlashIs F
    (Machine.copySources (Machine.copyIndex (Machine.copyIndex s p b k).2 p a l).2 p x a y z).1 :=
    h.copyIndex.copyIndex.copySources
  exact .ite_fst hread (.ite_fst (.looseEvent (.anyTile (.ite_fst hread.copyOld hread))) (.ite_fst hread.copyOld hread))

theorem FlashIs.makeWrite {w : LineWrite} (h : FlashIs F s) : FlashIs F (makeWrite s p hint w) := h.devMerge

theorem FlashIs.makeWrites {ws : List LineWrite} (h : FlashIs F s) : FlashIs F (makeWrites s p hint ws) :=
  .foldl (fun _ _ hu => hu.makeWrite) h

theorem FlashIs.queueFail {check code : Nat} (h : FlashIs F s) : FlashIs F (queueFail s p check code) :=
  h.setRg.raiseOpen.sendMsix

theorem FlashIs.queueExec {e : List Byte} {ws : List LineWrite} (h : FlashIs F s) : FlashIs F (queueExec s p e done ws) :=
  h.updPart.makeWrites

theorem FlashIs.execCopyEntry {p : PartIx} {entry : BitVec 512} (h : FlashIs F s) :
    KeepsFlash F (execCopyEntry p entry done s) := by
  unfold Machine.execCopyEntry
  extract_lets _ _ s'
  have h' : FlashIs F s' := h.count1
  refine .guarded h ?_
  split
  · exact h'.queueFail
  · exact h'.copyWrites.queueExec

theorem FlashIs.execFetchEntry {p : PartIx} {entry : BitVec 512} {lines : List (BitVec 576)} (h : FlashIs F s) :
    KeepsFlash F (execFetchEntry p entry lines done s) := by
  unfold Machine.execFetchEntry
  extract_lets _ _ s'
  have h' : FlashIs F s' := h.count1
  refine .guarded h ?_
  split
  · exact h'.queueFail
  · exact h'.countBy.queueExec

theorem FlashIs.execCopyEntryComplete {p : PartIx} (h : FlashIs F s) : KeepsFlash F (execCopyEntryComplete p s) := by
  unfold Machine.execCopyEntryComplete
  extract_lets
  split
  · exact .skip h
  · extract_lets _ _ _ s'
    have h' : FlashIs F s' := h.makeWrites.updPart.setRg.count1
    exact .next (.ite h'.sendMsix h')

theorem FlashIs.execCqReset (h : FlashIs F s) : KeepsFlash F (execCqReset arg s) :=
  .next (.command h (fun _ hu => hu) (fun _ hu => .ite hu.postResult (.ite hu.postResult hu.setRg.setRg.setRgF.postResult)))

theorem FlashIs.execDbCopyTail {p : PartIx} {v : Word} (h : FlashIs F s) : KeepsFlash F (execDbCopyTail p v s) := by
  unfold Machine.execDbCopyTail
  extract_lets _ _ _ s'
  have h' : FlashIs F s' := by
    unfold s'
    split
    · exact .ite h.setPage h
    · exact h
  exact .guarded h (.ite h'.raiseOpen h'.setRg)

theorem FlashIs.execNbArm (h : FlashIs F s) : KeepsFlash F (execNbArm arg s) := by
  unfold Machine.execNbArm
  extract_lets
  refine .next ?_
  refine .command h (fun _ hu => hu) (fun _ hu => ?_)
  extract_lets _ _ _ _ s'
  have h' : FlashIs F s' := .setArmed hu
  exact .ite hu.postResult (.postResult (.ite h'.fireBinding h'))

theorem FlashIs.execNbDisarm (h : FlashIs F s) : KeepsFlash F (execNbDisarm arg s) :=
  .next (.command h (fun _ hu => hu) (fun _ hu => .ite hu.postResult (.postResult (.setArmed hu))))

theorem FlashIs.execHostLinkUp {rate width : BitVec 2} {below : Bool} (h : FlashIs F s) :
    KeepsFlash F (execHostLinkUp rate width below s) := by
  unfold Machine.execHostLinkUp
  extract_lets _ s'
  have h' : FlashIs F s' := h
  exact .next (.ite h'.raiseLevel h'.setRgF.setRgF.setRgF.setReady.raiseLevel)

theorem FlashIs.linkLoss (h : FlashIs F s) : FlashIs F (linkLoss s) := h.stopQueue.stopQueue.stopQueue.stopQueue.raiseOpen

end

/-! Supplies, firmware, test mode, JTAG, power and heat. -/

section
variable {F : Flash} {s : State}

theorem FlashIs.coldState {b : Boot} (h : FlashIs F s) : FlashIs F (coldState s b) := h

theorem FlashIs.execBootRomDone {puf : BitVec 2} (h : FlashIs F s) : KeepsFlash F (execBootRomDone puf s) := by
  unfold Machine.execBootRomDone
  extract_lets _ _ _ _ s'
  have h' : FlashIs F s' := h.setRg.setRg64.setRgF.setRgF.setReady.setReady
  exact .guarded h (.ite h' h'.goOos.raise)

theorem FlashIs.doeResp {code : Nat} {data : List Byte} (h : FlashIs F s) : FlashIs F (doeResp s code data) := h
theorem FlashIs.endStatus {stage code : Nat} (h : FlashIs F s) : FlashIs F (endStatus s stage code) := h.setRgF.setRgF.setRgF

theorem FlashIs.setFwDigest {d : List Byte} (h : FlashIs F s) : FlashIs F (setFwDigest s d) :=
  .foldl (fun _ _ hu => hu.setRg) h

theorem FlashIs.execFwEnd (h : FlashIs F s) : KeepsFlash F (execFwEnd s) := by
  unfold Machine.execFwEnd
  refine .guarded h ?_
  split
  · exact h.doeResp
  · extract_lets _ _ s'
    have h' : FlashIs F s' := h
    exact .ite h'.endStatus.doeResp (.doeResp (.setRgF (.setFwDigest (.setRg (.setRg (.endStatus (.of_eq h' rfl)))))))

theorem FlashIs.fresh32 (h : FlashIs F s) : FlashIs F (fresh32 s).2 := h

theorem FlashIs.execTestUnlock {sig : BitVec 512} (h : FlashIs F s) : KeepsFlash F (execTestUnlock sig s) := by
  unfold Machine.execTestUnlock
  refine .guarded h ?_
  split
  · exact h.doeResp
  · refine .ite h.doeResp ?_
    extract_lets _ s'
    have h' : FlashIs F s' := h
    exact .ite (.doeResp (.of_eq h' rfl)) h'.doeResp

theorem FlashIs.jtagSelect {i : Nat} {data : List Byte} (h : FlashIs F s) : FlashIs F (jtagSelect s i data) := h
theorem FlashIs.jtagPins {i : Nat} (h : FlashIs F s) : FlashIs F (jtagPins s i) := h.jtagSelect
theorem FlashIs.updPower {f : Power → Power} (h : FlashIs F s) : FlashIs F (updPower s f) := h

theorem FlashIs.execModeApply {arg : Arg} (h : FlashIs F s) : KeepsFlash F (execModeApply arg s) :=
  .next (.command0 h (fun _ hu => hu)
    (fun _ hu => .ite hu.postResult (.ite hu.postResult (.ite hu.postResult hu.updPower.postRunning))))

theorem FlashIs.execPllUnlock (h : FlashIs F s) : KeepsFlash F (execPllUnlock s) := by
  unfold Machine.execPllUnlock
  refine .guarded h ?_
  extract_lets s'
  have h' : FlashIs F s' := h.raiseOpen
  exact .ite (.setRgF (.loseMemory (.of_eq h' rfl))) h'

theorem FlashIs.noteCalm {violated : Bool} (h : FlashIs F s) : FlashIs F (noteCalm s violated) := h.updPower
theorem FlashIs.powerViol (h : FlashIs F s) : FlashIs F (powerViol s) := h.setRgF.updPower

theorem FlashIs.execPowerSample {power : BitVec 16} {vcore current : BitVec 12} (h : FlashIs F s) :
    KeepsFlash F (execPowerSample power vcore current s) := by
  unfold Machine.execPowerSample
  refine .guarded h ?_
  extract_lets _ _ s₁ s₂
  have h₁ : FlashIs F s₁ := h.updPower.setRg
  have h₂ : FlashIs F s₂ := .ite h₁ h₁.countBy
  exact .noteCalm (.ite h₂.raiseOpen.setRgF.updPower h₂)

theorem FlashIs.openQuot {a b : Nat} (h : FlashIs F s) : FlashIs F (openQuot s a b).2 := h

theorem FlashIs.execPowerAverage100us (h : FlashIs F s) : KeepsFlash F (execPowerAverage100us s) := by
  unfold Machine.execPowerAverage100us
  extract_lets
  refine .guarded h ?_
  dsimp -zeta only
  extract_lets _ _ s₁ s₂ _ s₃
  have h₁ : FlashIs F s₁ := h.updPower.openQuot.setRgF.openQuot.openQuot.setRg
  have h₂ : FlashIs F s₂ := .ite h₁.count1 h₁
  have h₃ : FlashIs F s₃ := .ite h₂.raiseOpen h₂
  exact .noteCalm (.ite h₃.powerViol h₃)

theorem FlashIs.execPowerAverage1ms (h : FlashIs F s) : KeepsFlash F (execPowerAverage1ms s) := by
  unfold Machine.execPowerAverage1ms
  extract_lets
  refine .guarded h ?_
  dsimp -zeta only
  extract_lets s₁ s₂
  have h₁ : FlashIs F s₁ := h.updPower.openQuot.setRgF
  have h₂ : FlashIs F s₂ := .ite h₁ h₁.openQuot.setRgF
  exact .noteCalm (.ite h₂.powerViol h₂)

theorem FlashIs.takeReading {r : Reading} (h : FlashIs F s) : FlashIs F (takeReading s r) := by
  unfold Machine.takeReading
  extract_lets _ _ s'
  have h' : FlashIs F s' := h.updPower
  exact .ite h'.raiseOpen h'

theorem FlashIs.execSensorSample {readings : List Reading} (h : FlashIs F s) :
    KeepsFlash F (execSensorSample readings s) := by
  unfold Machine.execSensorSample
  refine .guarded h ?_
  extract_lets _ _ _ _ s'
  have h' : FlashIs F s' := .setRgF (.setRgF (.setRg (.foldl (fun _ _ hu => hu.takeReading) h)))
  exact .noteCalm (.showThermal (.raiseLevel (.ite h'.count1 h')))

theorem FlashIs.setDivider {d mode : Nat} (h : FlashIs F s) : FlashIs F (setDivider s d mode) :=
  .foldl (fun _ _ hu => .ite hu.updRun hu) h.setRgF.setRgF

theorem FlashIs.stretched (h : FlashIs F s) : FlashIs F (stretched s) := by
  unfold Machine.stretched
  extract_lets _ _ _ s₁ s₂
  have h₁ : FlashIs F s₁ := .raiseOpen (.count1 (.foldl (fun _ _ hu => .ite hu.tdcAdd hu) h))
  have h₂ : FlashIs F s₂ := .ite h₁.count1 h₁
  exact .raiseLevel (.updPower (.ite h₂.count1 h₂))

theorem FlashIs.released (h : FlashIs F s) : FlashIs F (released s) := h.setRgF.setRgF.updPower.raiseLevel

theorem FlashIs.modeChanged {m : Nat} (h : FlashIs F s) : FlashIs F (modeChanged s m) :=
  h.setRgF.setRgF.updPower.count1.raiseLevel.postDone

theorem FlashIs.execDividerSwitch (h : FlashIs F s) : KeepsFlash F (execDividerSwitch s) := by
  unfold Machine.execDividerSwitch
  split
  · exact .skip h
  · extract_lets _ s'
    have h' : FlashIs F s' := h.updPower.setDivider
    refine .guarded h ?_
    split
    · exact h'.modeChanged
    · exact .ite h'.stretched h'.released

theorem FlashIs.execSmbusBlockRead {k : Byte} (h : FlashIs F s) : KeepsFlash F (execSmbusBlockRead k s) := by
  unfold Machine.execSmbusBlockRead
  refine .guarded h ?_
  split
  · exact h
  · exact h

end

/-! Identity, attestation and link encryption. -/

section
variable {F : Flash} {s : State} {arg : Arg} {act : State → State} {session : Word}

theorem FlashIs.spdmResp {data : List Byte} (h : FlashIs F s) : FlashIs F (spdmResp s data) := h
theorem FlashIs.spdmErr {code : Nat} (h : FlashIs F s) : FlashIs F (spdmErr s code) := .count1 h
theorem FlashIs.updSec {f : Sec → Sec} (h : FlashIs F s) : FlashIs F (updSec s f) := h

theorem FlashIs.spdmReq (h : FlashIs F s) (hact : ∀ u, FlashIs F u → FlashIs F (act u)) : KeepsFlash F (spdmReq act s) := by
  unfold Machine.spdmReq
  refine .guarded h ?_
  extract_lets s'
  have h' : FlashIs F s' := h.count1
  exact .ite h'.spdmErr (hact _ h')

theorem FlashIs.spdmNeg (h : FlashIs F s) (hact : ∀ u, FlashIs F u → FlashIs F (act u)) : KeepsFlash F (spdmNeg act s) :=
  h.spdmReq (fun _ hu => .ite hu.spdmErr (hact _ hu))

theorem FlashIs.needTrng (h : FlashIs F s) (hact : ∀ u, FlashIs F u → FlashIs F (act u)) : FlashIs F (needTrng s act) :=
  .ite (hact _ h) h.spdmErr

theorem FlashIs.signature (h : FlashIs F s) : FlashIs F (signature s).2 := h

theorem FlashIs.execSpdmGetVersion (h : FlashIs F s) : KeepsFlash F (execSpdmGetVersion s) :=
  h.spdmReq (fun _ hu => hu.updSec.spdmResp)

theorem FlashIs.execSpdmGetCapabilities (h : FlashIs F s) : KeepsFlash F (execSpdmGetCapabilities s) :=
  h.spdmReq (fun _ hu => .ite hu.spdmErr hu.updSec.spdmResp)

theorem FlashIs.execSpdmNegotiateAlgorithms (h : FlashIs F s) : KeepsFlash F (execSpdmNegotiateAlgorithms s) :=
  h.spdmReq (fun _ hu => .ite hu.spdmErr hu.updSec.spdmResp)

theorem FlashIs.execSpdmGetDigests (h : FlashIs F s) : KeepsFlash F (execSpdmGetDigests s) :=
  h.spdmNeg (fun _ hu => hu.spdmResp)

theorem FlashIs.execSpdmGetCertificate {slot : BitVec 4} {off len : BitVec 16} (h : FlashIs F s) :
    KeepsFlash F (execSpdmGetCertificate slot off len s) := h.spdmNeg (fun _ hu => .ite hu.spdmErr hu.spdmResp)

theorem FlashIs.execSpdmChallenge {slot : BitVec 4} (h : FlashIs F s) : KeepsFlash F (execSpdmChallenge slot s) :=
  h.spdmNeg (fun _ hu => .ite hu.spdmErr (.needTrng hu (fun _ hv => hv.fresh32.signature.spdmResp)))

theorem FlashIs.execSpdmGetMeasurements {index : Byte} {sign : Bool} (h : FlashIs F s) :
    KeepsFlash F (execSpdmGetMeasurements index sign s) :=
  h.spdmNeg (fun _ hu => .ite hu.spdmErr (.ite hu.spdmResp (.needTrng hu (fun _ hv => hv.fresh32.signature.spdmResp.count1))))

theorem FlashIs.showSessions (h : FlashIs F s) : FlashIs F (showSessions s) := h.setRgF

theorem FlashIs.execSpdmKeyExchange (h : FlashIs F s) : KeepsFlash F (execSpdmKeyExchange session s) :=
  h.spdmNeg (fun _ hu => .ite hu.spdmErr (.ite hu.spdmErr (.needTrng hu (fun _ hv => hv.fresh32.signature.updSec.spdmResp))))

theorem FlashIs.execSpdmFinish (h : FlashIs F s) : KeepsFlash F (execSpdmFinish session s) :=
  h.spdmNeg (fun _ hu => .ite hu.spdmErr hu.updSec.showSessions.spdmResp)

theorem FlashIs.inSession {n : Nat} (h : FlashIs F s) (hact : ∀ u, FlashIs F u → FlashIs F (act u)) :
    KeepsFlash F (inSession n act s) := h.spdmNeg (fun _ hu => .ite hu.spdmErr (hact _ hu))

theorem FlashIs.execSpdmEndSession (h : FlashIs F s) : KeepsFlash F (execSpdmEndSession session s) :=
  h.inSession (fun _ hu => hu.updSec.showSessions.spdmResp)

theorem FlashIs.execSpdmHeartbeat (h : FlashIs F s) : KeepsFlash F (execSpdmHeartbeat session s) :=
  h.inSession (fun _ hu => hu.spdmResp)

theorem FlashIs.execSpdmKeyUpdate (h : FlashIs F s) : KeepsFlash F (execSpdmKeyUpdate session s) :=
  h.inSession (fun _ hu => hu.updSec.spdmResp)

theorem FlashIs.execIdeKeyProgram {stream dir set : BitVec 1} {key : BitVec 256} (h : FlashIs F s) :
    KeepsFlash F (execIdeKeyProgram session stream dir set key s) := by
  unfold Machine.execIdeKeyProgram
  refine h.inSession (fun _ hu => ?_)
  extract_lets s'
  have h' : FlashIs F s' := hu.updSec
  exact .spdmResp (.ite h'.setRgF h')

theorem FlashIs.setKeyHash {d : List Byte} (h : FlashIs F s) : FlashIs F (setKeyHash s d) := .foldl (fun _ _ hu => hu.setRg) h

theorem FlashIs.execKeyEnable (h : FlashIs F s) : KeepsFlash F (execKeyEnable arg s) :=
  .next (.command0 h (fun _ hu => hu) (fun _ hu => .ite hu.postResult (.ite hu.postResult hu.setKeyHash.setRgF.postResult)))

theorem FlashIs.execKeyDisable (h : FlashIs F s) : KeepsFlash F (execKeyDisable arg s) :=
  .next (.command0 h (fun _ hu => hu) (fun _ hu => .ite hu.postResult (.ite hu.postResult hu.setKeyHash.setRgF.postResult)))

theorem FlashIs.execKeyLock (h : FlashIs F s) : KeepsFlash F (execKeyLock arg s) :=
  .next (.command0 h (fun _ hu => hu) (fun _ hu => hu.setRgF.postResult))

end

/-! Recovery, and the tick of the counter clock. -/

section
variable {F : Flash} {s : State}

theorem FlashIs.execWarmReset {arg : Arg} (h : FlashIs F s) : KeepsFlash F (execWarmReset arg s) :=
  .next (.command0 h (fun _ hu => hu) (fun _ hu => hu.count1.count1.warmBegin.postResult))

theorem FlashIs.execPartReset {arg : Arg} (h : FlashIs F s) : KeepsFlash F (execPartReset arg s) :=
  .next (.command h (fun _ hu => hu) (fun _ hu => .ite hu.postResult (.ite hu.postResult hu.partitionReset.count1.postResult)))

theorem FlashIs.readyAgain (h : FlashIs F s) : FlashIs F (readyAgain s) := .foldl (fun _ _ hu => hu.setReady) h

theorem FlashIs.flushCache (h : FlashIs F s) : FlashIs F (flushCache s) := by
  unfold Machine.flushCache
  extract_lets s'
  have h' : FlashIs F s' := h.writeBacks
  exact .of_eq h' rfl

theorem FlashIs.execWarmResetComplete {same : Bool} (h : FlashIs F s) : KeepsFlash F (execWarmResetComplete same s) := by
  unfold Machine.execWarmResetComplete
  refine .guarded h ?_
  refine .ite h.setRgF.setRgF ?_
  extract_lets s₁ _ s₂ _ _ s₃
  have h₁ : FlashIs F s₁ := h.flushCache
  have h₂ : FlashIs F s₂ := .setRgF (.readyAgain (.ite h₁.loseMemory h₁))
  have h₃ : FlashIs F s₃ := .of_eq h₂ rfl
  exact .ite h₃.goOos h₃

theorem FlashIs.execDupVerdict_tcountSite {x : Nat} (h : FlashIs F s) : FlashIs F (execDupVerdict.tcountSite s x) := h.count1

theorem FlashIs.execDupVerdict {site : SiteIx} {sound : Bool} (h : FlashIs F s) :
    KeepsFlash F (execDupVerdict site sound s) := by
  unfold Machine.execDupVerdict
  extract_lets _ _ s'
  have h' : FlashIs F s' := h
  split
  · exact .skip h
  · exact .next (.answerCheck (.ite (.count1 (.ite_snd h'.fiTake h'))
    (.raise (.charge (.execDupVerdict_tcountSite
    (.count1 (.chargeTile (.ite (.setRg (.setRg (.ite_snd h'.fiTake h'))) (.ite_snd h'.fiTake h')))))))))

theorem FlashIs.execRotSelftestStart {q : BitVec 2} (h : FlashIs F s) : KeepsFlash F (execRotSelftestStart q s) := by
  unfold Machine.execRotSelftestStart
  extract_lets
  split
  · exact .skip h
  · exact .guarded h (.setRgF h)

theorem FlashIs.execRotSelftestDone {q : BitVec 2} {ok : Bool} {faults : List (BitVec 7 × BitVec 7)} (h : FlashIs F s) :
    KeepsFlash F (execRotSelftestDone q ok faults s) := by
  unfold Machine.execRotSelftestDone
  extract_lets _ _ _ s'
  have h' : FlashIs F s' := .setRgF h
  split
  · exact .skip h
  · exact .next (.ite h'.testDone.count1 h'.testDone)

theorem FlashIs.countDerated {l : List Nat} (h : FlashIs F s) : FlashIs F (countDerated l s) := by
  induction l generalizing s with
  | nil => exact h
  | cons k l ih => exact ih (.ite h.count1 h)

theorem FlashIs.countMs (h : FlashIs F s) : FlashIs F (countMs s) := by
  unfold Machine.countMs
  refine .ite ?_ h
  extract_lets s'
  have h' : FlashIs F s' := .ite h h.count1
  exact .ite h'.count1 h'

theorem FlashIs.holdLull (h : FlashIs F s) : FlashIs F (holdLull s) := .ite h h
theorem FlashIs.counterTick (h : FlashIs F s) : FlashIs F (counterTick s) := .countMs (.holdLull h)
theorem FlashIs.fclkCycle (h : FlashIs F s) : FlashIs F (fclkCycle s) := .ite (.countDerated h) h
theorem FlashIs.tick (h : FlashIs F s) : FlashIs F (tick s) := .ite h h.counterTick.fclkCycle

end

/-! Conversions and reductions. -/

section
variable {F : Flash} {s : State} {acy : Nat} {t : TileIx}

theorem FlashIs.cvtAct {t : Nat} {e : BitVec 128} (h : FlashIs F s) : FlashIs F (cvtAct t acy e s) := by
  unfold Machine.cvtAct
  extract_lets _ _ _ _ _ _ _ _ _ _ _ s'
  have h' : FlashIs F s' := h.setTile.skinkEvents
  exact .foldl (fun _ _ hu => .ite hu.arithEvent hu) (.ite h'.tcount h')

theorem FlashIs.execCvt (h : FlashIs F s) : KeepsFlash F (execCvt t acy s) := h.skinkIssue (fun _ _ _ hu => hu.cvtAct)

theorem FlashIs.execPack (h : FlashIs F s) : KeepsFlash F (execPack t acy s) := by
  unfold Machine.execPack
  extract_lets
  refine h.skinkIssue (fun _ _ _ hu => ?_)
  extract_lets
  split
  · exact hu
  · dsimp -zeta only
    extract_lets s₁ s₂
    have h₁ : FlashIs F s₁ := hu.setTile.countConv
    have h₂ : FlashIs F s₂ := .ite h₁.tcount h₁
    exact .ite h₂ h₂.traise

theorem FlashIs.execUnpack (h : FlashIs F s) : KeepsFlash F (execUnpack t acy s) := by
  unfold Machine.execUnpack
  extract_lets
  refine h.skinkIssue (fun _ _ _ hu => ?_)
  extract_lets
  split
  · exact hu
  · extract_lets _ _ _ _ s'
    have h' : FlashIs F s' := hu.setTile.skinkEvents
    exact .ite h'.traise h'

theorem FlashIs.redStep {opcode : Nat} {f : Nat → Option RChain → List RLane → RChain × KEv} {out : Nat → RChain → Nat × KEv}
    (h : FlashIs F s) : KeepsFlash F (redStep t acy opcode f out s) := by
  unfold Machine.redStep
  exact h.skinkIssue (fun _ _ _ hu => .ite hu.setTile.skinkEvents hu.setTile.skinkEvents)

end

/-! The dispatcher and the step. -/

section
variable {F : Flash} {s : State}

theorem FlashIs.exec {c : Instr} (h : FlashIs F s) : KeepsFlash F (exec c s) := by
  unfold Machine.exec
  cases c with
  | nop => exact h.execNop
  | undefinedCommand => exact h.execUndefinedCommand
  | siteMapApply => exact h.execSiteMapApply
  | partSet => exact h.execPartSet
  | modeApply => exact h.execModeApply
  | descCreate => exact h.execDescCreate
  | descDestroy => exact h.execDescDestroy
  | descRead => exact h.execDescRead
  | imageLoad => exact h.execImageLoad
  | imageLoadComplete => exact h.execImageLoadComplete
  | imageUnload => exact h.execImageUnload
  | ctxSave => exact h.execCtxSave
  | ctxRestore => exact h.execCtxRestore
  | allocCreate => exact h.execAllocCreate
  | allocZeroComplete => exact h.execAllocZeroComplete
  | allocRelease => exact h.execAllocRelease
  | allocQuery => exact h.execAllocQuery
  | remapAdd => exact h.execRemapAdd
  | remapRead => exact h.execRemapRead
  | sliceClean => exact h.execSliceClean
  | linkTrain => exact h.execLinkTrain
  | linkDisable => exact h.execLinkDisable
  | timeAlign => exact h.execTimeAlign
  | chorusStart => exact h.execChorusStart
  | chorusStop => exact h.execChorusStop
  | chorusAbort => exact h.execChorusAbort
  | hostSyncAdd | hostSyncSet | hostSyncClear | hostSyncWaitGe | hostSyncWaitSet
  | hostSyncWaitClear | fetchAdd | acquire | hostSyncWrite | hostSyncRead => exact h.hostSync
  | cqReset => exact h.execCqReset
  | nbArm => exact h.execNbArm
  | nbDisarm => exact h.execNbDisarm
  | warmReset => exact h.execWarmReset
  | partReset => exact h.execPartReset
  | keyEnable => exact h.execKeyEnable
  | keyDisable => exact h.execKeyDisable
  | keyLock => exact h.execKeyLock
  | enable => exact h.execEnable
  | quiesce => exact h.execQuiesce
  | quiesceIdle => exact .guarded h h.setBlk
  | selftest => exact h.execSelftest
  | selftestEnd => exact h.execSelftestEnd
  | pwrReq => exact h.execPwrReq
  | powerDomainOn => exact h.execPowerDomainOn
  | powerDomainOff => exact h.execPowerDomainOff
  | evtStickyClear => exact h.execEvtStickyClear
  | counterClear => exact h.execCounterClear
  | lowerWordRead => exact h.execLowerWordRead
  | upperWordWrite => exact h.execUpperWordWrite
  | partialRegisterWrite => exact .guarded h h.raiseOpen
  | registerWrite => exact h.execRegisterWrite
  | launchAtWrite => exact h.execLaunchAtWrite
  | dbCopyTail => exact h.execDbCopyTail
  | rngSeedWrite => exact h.execRngSeedWrite
  | skinkFirstClear => exact h.execSkinkFirstClear
  | faultInjectArm => exact h.execFaultInjectArm
  | siteMapStageWrite => exact h.execSiteMapStageWrite
  | arrayRepairWrite => exact h.execArrayRepairWrite
  | modeReqWrite => exact h.execModeReqWrite
  | syncObjectDefine => exact h.execSyncObjectDefine
  | hostMemRead => exact h.execHostMemRead
  | hostMemWrite => exact h.execHostMemWrite
  | bisnpResponse => exact .guarded h h.snoopDone
  | bisnpTimeout => exact .guarded h h.snoopDone.raiseOpen
  | copyEntry => exact h.execCopyEntry
  | fetchEntry => exact h.execFetchEntry
  | copyEntryComplete => exact h.execCopyEntryComplete
  | fwBegin => exact .guarded h (.ite h.doeResp (.ite h.doeResp (.ite h.doeResp (.ite h.doeResp (.doeResp (.setRgF h))))))
  | fwData => exact .guarded h (.ite h.doeResp (.doeResp h))
  | fwEnd => exact h.execFwEnd
  | testChallenge => exact .guarded h (.ite h.doeResp (.ite h.doeResp (.ite h.doeResp (.doeResp (.of_eq h.fresh32 rfl)))))
  | testUnlock => exact h.execTestUnlock
  | spdmGetVersion => exact h.execSpdmGetVersion
  | spdmGetCapabilities => exact h.execSpdmGetCapabilities
  | spdmNegotiateAlgorithms => exact h.execSpdmNegotiateAlgorithms
  | spdmGetDigests => exact h.execSpdmGetDigests
  | spdmGetCertificate => exact h.execSpdmGetCertificate
  | spdmChallenge => exact h.execSpdmChallenge
  | spdmGetMeasurements => exact h.execSpdmGetMeasurements
  | spdmKeyExchange => exact h.execSpdmKeyExchange
  | spdmFinish => exact h.execSpdmFinish
  | spdmEndSession => exact h.execSpdmEndSession
  | spdmHeartbeat => exact h.execSpdmHeartbeat
  | spdmKeyUpdate => exact h.execSpdmKeyUpdate
  | ideKeyProgram => exact h.execIdeKeyProgram
  | ideIntegrityFail => exact .guarded h h.setRgF.updSec.linkLoss
  | smbusBlockRead => exact h.execSmbusBlockRead
  | jtagBypass | jtagIdcode | jtagSamplePreload => exact .next h.jtagSelect
  | jtagExtest | jtagClamp | jtagHighz => exact .next h.jtagPins
  | powerOnHoldEnd | perstAssert | perstDeassert | supplyExcursion => exact .guarded h h.coldState
  | supplyGlitch => exact .guarded h h.count1
  | pllUnlock => exact h.execPllUnlock
  | bootRomDone => exact h.execBootRomDone
  | hostLinkUp => exact h.execHostLinkUp
  | hostLinkDown => exact .guarded h h.setRgF.raiseLevel.linkLoss
  | blockReady => exact h.execBlockReady
  | thermtrip => exact .guarded h (.raiseOpen (.goOos (.setRgF h)))
  | sensorSample => exact h.execSensorSample
  | powerSample => exact h.execPowerSample
  | powerAverage100us => exact h.execPowerAverage100us
  | powerAverage1ms => exact h.execPowerAverage1ms
  | stretchStep | stretchRelease => exact .guarded h h.updPower
  | dividerSwitch => exact h.execDividerSwitch
  | stackTemperatureReport => exact .next h.setCtrl.raiseLevel.raiseLevel
  | lineRead => exact h.execLineRead
  | lineWrite => exact h.execLineWrite
  | scrubLine => exact h.execScrubLine
  | remapCopyDone => exact h.execRemapCopyDone
  | launchStart => exact h.execLaunchStart
  | segmentStart => exact h.execSegmentStart
  | scheduleFetch => exact h.execScheduleFetch
  | feed => exact h.execFeed
  | feedPresent => exact h.execFeedPresent
  | kpass => exact h.execKpass
  | arrayStep => exact h.execArrayStep
  | outlierStep => exact h.execOutlierStep
  | arraySwap => exact h.execArraySwap
  | drainRowEnter => exact h.execDrainRowEnter
  | drainRowWrite => exact h.execDrainRowWrite
  | checksumVerdict => exact h.execChecksumVerdict
  | statsWrite => exact h.execStatsWrite
  | fallbackDecision => exact h.execFallbackDecision
  | repeatStart => exact h.execRepeatStart
  | fadd | fsub | fmul | fma | vmin | vmax => exact h.laneStep
  | cmpEq | cmpLt | cmpLe | cmpNe => exact h.maskStep
  | sel | iadd | isub | imul | shl | shrl | shra | rotl | vand | vor | vxor | vnot | vandn => exact h.laneStep
  | cvt => exact h.execCvt
  | pack => exact h.execPack
  | unpack => exact h.execUnpack
  | exp2 | log2 | rcp | rsqrt => exact h.laneStep
  | vload => exact h.execVload
  | vstore => exact h.execVstore
  | vstoreLine => exact h.execVstoreLine
  | rand => exact h.execRand
  | redSum | redMax | redMin | redArgmax | redAmax | redCnz => exact h.redStep
  | outlierSelect => exact h.execOutlierSelect
  | moveIn => exact h.execMoveIn
  | moveOut => exact h.execMoveOut
  | linkSend => exact h.execLinkSend
  | lineArrival => exact h.execLineArrival
  | tableLoad => exact h.execTableLoad
  | scaleSet => exact h.execScaleSet
  | occLoad => exact h.execOccLoad
  | slotBind => exact h.execSlotBind
  | slotDispatch => exact h.execSlotDispatch
  | tileSyncAdd | tileSyncSet | tileSyncClear => exact h.tileSync
  | tileSyncWaitGe | tileSyncWaitSet | tileSyncWaitClear => exact h.tileWait
  | epochPointMark => exact h.execEpochPointMark
  | scheduleEnd => exact h.execScheduleEnd
  | contractViolation => exact h.execContractViolation
  | hangDetected => exact .guarded h (.raise (.count1 (.ite h h.setRg)))
  | resumeStep => exact h.execResumeStep
  | dupVerdict => exact h.execDupVerdict
  | siteMove => exact .guarded h h.serveMove
  | rotSelftestStart => exact h.execRotSelftestStart
  | rotSelftestDone => exact h.execRotSelftestDone
  | lullEnd => exact .guarded h (.count1 (.setRg (.setRg h)))
  | warmResetComplete => exact h.execWarmResetComplete
  | dataPacketSend => exact h.execDataPacketSend
  | dataPacketReceive => exact h.execDataPacketReceive
  | idleFlit => exact h.execIdleFlit
  | retry => exact h.execRetry
  | linkCodewordBad => exact .guarded h h.codewordAct
  | timeFlit => exact h.execTimeFlit
  | timeFlitSend => exact .guarded h h.turnOf.setLk.emit
  | trainFlit => exact h.execTrainFlit
  | linkTrainTimeout => exact .guarded h h.endTrain
  | laneDegraded => exact .guarded h h.setLk.sendTrain.count1.raiseOpen
  | laneSwitch => exact h.execLaneSwitch
  | syncOp => exact h.execSyncOp
  | syncUpdate => exact h.execSyncUpdate
  | groupResult => exact h.execGroupResult
  | linkAnnounce => exact h.execLinkAnnounce
  | syncLaunch => exact h.execSyncLaunch
  | chorusRound => exact h.execChorusRound
  | slotAnswer => exact h.execSlotAnswer
  | memberSilent => exact .guarded h h.setMissing.raise
  | chorusAllDisagree => exact .guarded h h.updChorus.raiseOpen
  | roundWord => exact h.execRoundWord
  | annContinue => exact h.execAnnContinue
  | annEpoch => exact h.execAnnEpoch
  | annReplay => exact h.execAnnReplay
  | annAbandon => exact h.execAnnAbandon
  | managerLost => exact .guarded h h.setRgF.raiseOpen.updChorus
  | ctxSaveComplete | ctxRestoreComplete => exact .guarded h h.updPart.count1.postDone
  | sliceCleanComplete => exact .guarded h h.cleanSlice.setBlk.postDone
  | internalError => exact .guarded h h.raise
  | entropyHealthTestFail => exact .next h.setRgF
  | linkSignalLost => exact .guarded h h.linkDown

theorem FlashIs.step (h : FlashIs F s) : KeepsFlash F (step s) := by
  unfold Machine.step
  split
  · exact .next h.tick
  · exact FlashIs.exec (h.of_eq rfl)

end

/-- Settles O3: an idle step is a tick and any other is the front command's, and both leave the flash. -/
theorem flashNeverWritten : Obligations.FlashNeverWritten := by
  intro s t hstep
  have hflash : FlashIs s.flash s := rfl
  exact hflash.step t hstep

end Sys2Proof.Machine

/-! What every step keeps: the queue of commands, the canonical form of every map (`State.canon`), and, where a command does not
reach them, the global counter and what memory and the stack cache show. One lemma for each operation of the model that answers
a state, under the operation's name: what is kept up to the state before it, is kept up to the state after it. Those for
`Scope.wide` are the operations that reach memory. -/

namespace Sys2Proof.Machine

/-! Sparse maps whose values are replaced. -/

section
variable {V : Type} {d : Nat → V} {f : Nat × V → Nat × V} {m : List (Nat × V)}

theorem smRising_map (hk : ∀ e, (f e).1 = e.1) : ∀ {b : Option Nat}, smRising b (m.map f) = smRising b m := by
  induction m with
  | nil => intro b; rfl
  | cons e m ih => intro b; simp [smRising, hk, ih]

/-- The values of a map replaced by others that are not defaults either. -/
theorem smWf_map [DecidableEq V] (hk : ∀ e, (f e).1 = e.1) (hv : ∀ e, e.2 ≠ d e.1 → (f e).2 ≠ d e.1) (h : smWf d m = true) :
    smWf d (m.map f) = true := by
  simp only [smWf, Bool.and_eq_true, List.all_eq_true, decide_eq_true_eq, smRising_map hk] at h ⊢
  refine ⟨h.1, fun x hx => ?_⟩
  obtain ⟨e, he, rfl⟩ := List.mem_map.mp hx
  rw [hk]
  exact hv e (h.2 e he)

/-- The values of a map replaced, and those that are defaults dropped. -/
theorem smWf_map_filter [DecidableEq V] {p : Nat × V → Bool} (hk : ∀ e, (f e).1 = e.1) (hp : ∀ e, p e = true → e.2 ≠ d e.1)
    (h : smWf d m = true) : smWf d ((m.map f).filter p) = true := by
  have hrise : smRising none (m.map f) = true := (smRising_map hk).trans (smWf_rising h)
  simp only [smWf, Bool.and_eq_true, List.all_eq_true, decide_eq_true_eq]
  exact ⟨smRising_filter p hrise, fun x hx => hp x (List.mem_filter.mp hx).2⟩

end

/-- What a reader of the cache sees of a line: all but its protection. -/
def CLine.shown (l : CLine) : Nat × List Byte × Bool := (l.addr, l.data, l.dirty)

/-- What readers see of the stack cache. -/
def shownCache (c : List (Nat × List CLine)) : List (Nat × List (Nat × List Byte × Bool)) :=
  c.map (fun e => (e.1, e.2.map CLine.shown))

/-- The state from which on states are compared, and whether the global counter and memory may change. -/
structure Scope where
  start : State
  clock : Bool
  memory : Bool

/-- The scope in which the global counter may change. -/
def Scope.timed (F : Scope) : Scope := { F with clock := true }

/-- The scope in which the global counter and memory may change. -/
def Scope.wide (F : Scope) : Scope := { F with clock := true, memory := true }

/-- From the start of the scope to a state the queue stands, the maps keep their canonical form, and what the scope does not
let change stands. -/
def Kept (F : Scope) (s : State) : Prop :=
  s.pending = F.start.pending ∧ (F.start.canon = true → s.canon = true) ∧ (F.clock = false → s.gcnt = F.start.gcnt) ∧
    (F.memory = false → s.mem = F.start.mem ∧ shownCache s.cache = shownCache F.start.cache)

/-- A command leaves a next state, which is kept. -/
def Leaves (F : Scope) (o : Host.Outcome State Fault Refusal) : Prop := ∃ t, o = .next t ∧ Kept F t

section
variable {F : Scope} {s u v : State}

theorem Kept.refl (s : State) (clock memory : Bool) : Kept ⟨s, clock, memory⟩ s := ⟨rfl, id, fun _ => rfl, fun _ => ⟨rfl, rfl⟩⟩

/-- A change of maps that keeps their form, and of the cache's protections. -/
theorem Kept.update (h : Kept F u) (hp : v.pending = u.pending) (hg : v.gcnt = u.gcnt) (hm : v.mem = u.mem)
    (hl : shownCache v.cache = shownCache u.cache) (hc : u.canon = true → v.canon = true) : Kept F v := by
  obtain ⟨hp', hc', hg', hm'⟩ := h
  exact ⟨hp.trans hp', hc ∘ hc', fun hF => hg.trans (hg' hF), fun hF => ⟨hm.trans (hm' hF).1, hl.trans (hm' hF).2⟩⟩

/-- A change of memory that keeps the forms. -/
theorem Kept.rewrite (h : Kept F.wide u) (hp : v.pending = u.pending) (hc : u.canon = true → v.canon = true) :
    Kept F.wide v := by
  obtain ⟨hp', hc', -, -⟩ := h
  exact ⟨hp.trans hp', hc ∘ hc', nofun, nofun⟩

/-! The maps of the state, one by one. -/

theorem Kept.regs {m : List (Nat × Word)} (h : Kept F s) (hm : smWf regReset s.regs = true → smWf regReset m = true) :
    Kept F { s with regs := m } := by
  refine h.update rfl rfl rfl rfl fun hs => ?_
  rw [canon_iff] at hs ⊢
  obtain ⟨h1, h2, h3⟩ := hs
  exact ⟨h1, hm h2, h3⟩

theorem Kept.pages {m : List (Nat × Page)} (h : Kept F s) (hm : smWf pageReset s.pages = true → smWf pageReset m = true) :
    Kept F { s with pages := m } := by
  refine h.update rfl rfl rfl rfl fun hs => ?_
  rw [canon_iff] at hs ⊢
  obtain ⟨h1, h2, h3, h4⟩ := hs
  exact ⟨h1, h2, hm h3, h4⟩

theorem Kept.ready {m : List (Nat × Bool)} (h : Kept F s)
    (hm : smWf (fun _ => false) s.ready = true → smWf (fun _ => false) m = true) : Kept F { s with ready := m } := by
  refine h.update rfl rfl rfl rfl fun hs => ?_
  rw [canon_iff] at hs ⊢
  obtain ⟨h1, h2, h3, h4, h5, h6⟩ := hs
  exact ⟨h1, h2, h3, h4, hm h5, h6⟩

theorem Kept.cnt {m : List (Nat × Counter)} (h : Kept F s)
    (hm : smWf (fun _ => ({} : Counter)) s.cnt = true → smWf (fun _ => ({} : Counter)) m = true) :
    Kept F { s with cnt := m } := by
  refine h.update rfl rfl rfl rfl fun hs => ?_
  rw [canon_iff] at hs ⊢
  obtain ⟨h1, h2, h3, h4, h5, h6, h7⟩ := hs
  exact ⟨h1, h2, h3, h4, h5, hm h6, h7⟩

theorem Kept.tiles {m : List (Nat × Tile)} (h : Kept F s)
    (hm : smWf (fun _ => ({} : Tile)) s.tiles = true → smWf (fun _ => ({} : Tile)) m = true) :
    Kept F { s with tiles := m } := by
  refine h.update rfl rfl rfl rfl fun hs => ?_
  rw [canon_iff] at hs ⊢
  obtain ⟨h1, h2, h3, h4, h5, h6, h7, h8, h9⟩ := hs
  exact ⟨h1, h2, h3, h4, h5, h6, h7, hm h8, h9⟩

theorem Kept.sync {m : List (Nat × SyncObj)} (h : Kept F s)
    (hm : smWf (fun _ => ({} : SyncObj)) s.sync = true → smWf (fun _ => ({} : SyncObj)) m = true) :
    Kept F { s with sync := m } := by
  refine h.update rfl rfl rfl rfl fun hs => ?_
  rw [canon_iff] at hs ⊢
  obtain ⟨h1, h2, h3, h4, h5, h6, h7, h8, h9, h10⟩ := hs
  exact ⟨h1, h2, h3, h4, h5, h6, h7, h8, hm h9, h10⟩

theorem Kept.descs {m : List (Nat × BitVec 1024)} (h : Kept F s)
    (hm : smWf (fun _ => (0 : BitVec 1024)) s.descs = true → smWf (fun _ => (0 : BitVec 1024)) m = true) :
    Kept F { s with descs := m } := by
  refine h.update rfl rfl rfl rfl fun hs => ?_
  rw [canon_iff] at hs ⊢
  obtain ⟨h1, h2, h3, h4, h5, h6, h7, h8, h9, h10, h11⟩ := hs
  exact ⟨h1, h2, h3, h4, h5, h6, h7, h8, h9, hm h10, h11⟩

theorem Kept.links {m : List (Nat × LinkSt)} (h : Kept F s)
    (hm : smWf (fun _ => ({} : LinkSt)) s.links = true → smWf (fun _ => ({} : LinkSt)) m = true) :
    Kept F { s with links := m } := by
  refine h.update rfl rfl rfl rfl fun hs => ?_
  rw [canon_iff] at hs ⊢
  obtain ⟨h1, h2, h3, h4, h5, h6, h7, h8, h9, h10, h11, h12, h13⟩ := hs
  exact ⟨h1, h2, h3, h4, h5, h6, h7, h8, h9, h10, h11, hm h12, h13⟩

/-- The cache's lines with some protections changed. -/
theorem Kept.protections {m : List (Nat × List CLine)} (h : Kept F s) (hl : shownCache m = shownCache s.cache)
    (hm : smWf (fun _ => ([] : List CLine)) s.cache = true → smWf (fun _ => ([] : List CLine)) m = true) :
    Kept F { s with cache := m } := by
  refine h.update rfl rfl rfl hl fun hs => ?_
  rw [canon_iff] at hs ⊢
  obtain ⟨h1, h2, h3, h4, h5, h6, h7, h8, h9, h10, h11, h12, h13⟩ := hs
  exact ⟨h1, h2, h3, h4, h5, h6, h7, h8, h9, h10, h11, h12, hm h13⟩

theorem Kept.cache {m : List (Nat × List CLine)} (h : Kept F.wide s)
    (hm : smWf (fun _ => ([] : List CLine)) s.cache = true → smWf (fun _ => ([] : List CLine)) m = true) :
    Kept F.wide { s with cache := m } := by
  refine h.rewrite rfl fun hs => ?_
  rw [canon_iff] at hs ⊢
  obtain ⟨h1, h2, h3, h4, h5, h6, h7, h8, h9, h10, h11, h12, h13⟩ := hs
  exact ⟨h1, h2, h3, h4, h5, h6, h7, h8, h9, h10, h11, h12, hm h13⟩

theorem Kept.mem {m : Mem} (h : Kept F.wide s) (hm : s.mem.wf = true → m.wf = true) : Kept F.wide { s with mem := m } := by
  refine h.rewrite rfl fun hs => ?_
  rw [canon_iff] at hs ⊢
  obtain ⟨h1, h2⟩ := hs
  exact ⟨hm h1, h2⟩

theorem Kept.gcnt {x : DWord} (h : Kept F.timed s) : Kept F.timed { s with gcnt := x } := by
  obtain ⟨hp, hc, -, hm⟩ := h
  exact ⟨hp, hc, nofun, hm⟩


/-! The shapes of the model's definitions. -/


theorem Kept.ite {c : Prop} [Decidable c] (hu : Kept F u) (hv : Kept F v) : Kept F (if c then u else v) := by
  split
  · exact hu
  · exact hv

theorem Kept.ite_fst {α : Type} {c : Prop} [Decidable c] {x y : State × α} (hx : Kept F x.1) (hy : Kept F y.1) :
    Kept F (if c then x else y).1 := by
  split
  · exact hx
  · exact hy

theorem Kept.ite_snd {α : Type} {c : Prop} [Decidable c] {x y : α × State} (hx : Kept F x.2) (hy : Kept F y.2) :
    Kept F (if c then x else y).2 := by
  split
  · exact hx
  · exact hy

theorem Kept.foldl {α : Type} {f : State → α → State} {l : List α} (hf : ∀ u x, Kept F u → Kept F (f u x))
    (h : Kept F s) : Kept F (l.foldl f s) := by
  induction l generalizing s with
  | nil => exact h
  | cons x l ih => exact ih (hf s x h)

theorem Kept.foldl_fst {α β : Type} {f : State × β → α → State × β} {l : List α} {r : State × β}
    (hf : ∀ r x, Kept F r.1 → Kept F (f r x).1) (h : Kept F r.1) : Kept F (l.foldl f r).1 := by
  induction l generalizing r with
  | nil => exact h
  | cons x l ih => exact ih (hf r x h)

theorem Kept.foldl_snd {α β : Type} {f : β × State → α → β × State} {l : List α} {r : β × State}
    (hf : ∀ r x, Kept F r.2 → Kept F (f r x).2) (h : Kept F r.2) : Kept F (l.foldl f r).2 := by
  induction l generalizing r with
  | nil => exact h
  | cons x l ih => exact ih (hf r x h)

theorem Kept.pair_snd {α : Type} {a : α} (h : Kept F s) : Kept F (a, s).2 := h

theorem Leaves.next (h : Kept F s) : Leaves F (.next s) := ⟨s, rfl, h⟩

theorem Leaves.ite {c : Prop} [Decidable c] {o r : Host.Outcome State Fault Refusal} (ho : Leaves F o)
    (hr : Leaves F r) : Leaves F (if c then o else r) := by
  split
  · exact ho
  · exact hr

theorem Leaves.skip (h : Kept F s) : Leaves F (skip s) := .next h

theorem Leaves.guarded {c : Bool} (hs : Kept F s) (hu : Kept F u) : Leaves F (guarded c s u) :=
  .next (.ite hu hs)

end

/-! Registers, tiles, partitions and counters, and what resets clear. -/

section
variable {F : Scope} {s : State} {echo o p t : Nat} {b : Bool}

theorem Kept.setRg {v : Word} (h : Kept F s) : Kept F (setRg s p o v) :=
  h.update rfl rfl rfl rfl (setRg_canon p o v)
theorem Kept.setRgF {hi lo v : Nat} (h : Kept F s) : Kept F (setRgF s p o hi lo v) := h.setRg
theorem Kept.setRg64 {v : Nat} (h : Kept F s) : Kept F (setRg64 s p o v) := h.setRg.setRg
theorem Kept.setPage {x : Page} (h : Kept F s) : Kept F (setPage s p x) :=
  h.update rfl rfl rfl rfl (setPage_canon p x)
theorem Kept.setBlk {b : Blk} (h : Kept F s) : Kept F (setBlk s p b) :=
  h.update rfl rfl rfl rfl (setBlk_canon p b)
theorem Kept.setCtl {i : Nat} (h : Kept F s) : Kept F (setCtl s p i b) := h.setBlk
theorem Kept.setReady (h : Kept F s) : Kept F (setReady s p b) :=
  h.update rfl rfl rfl rfl (setReady_canon p b)
theorem Kept.updPart {f : Part → Part} (h : Kept F s) : Kept F (updPart s p f) :=
  h.update rfl rfl rfl rfl (setPart_canon _ _)
theorem Kept.setTile {x : Tile} (h : Kept F s) : Kept F (setTile s t x) :=
  h.update rfl rfl rfl rfl (setTile_canon t x)
theorem Kept.updTile {f : Tile → Tile} (h : Kept F s) : Kept F (updTile s t f) := h.setTile
theorem Kept.setCnt {i : Nat} {c : Counter} (h : Kept F s) : Kept F (setCnt s p i c) :=
  h.update rfl rfl rfl rfl (setCnt_canon p i c)
theorem Kept.choose {n : Nat} (h : Kept F s) : Kept F (choose s n).2 := h

theorem Kept.postResult {code : Nat} (h : Kept F s) : Kept F (postResult s p code echo) := h.setPage

theorem Kept.postRunning (h : Kept F s) : Kept F (postRunning s p echo) := h.setPage
theorem Kept.postDone {code : Nat} (h : Kept F s) : Kept F (postDone s p code echo) := h.setPage
theorem Kept.tileRegsReset (h : Kept F s) : Kept F (tileRegsReset s t) := h.setRg.setRg

theorem Kept.tilesReset {l : List Nat} (h : Kept F s) : Kept F (tilesReset s l) := by
  induction l generalizing s with
  | nil => exact h
  | cons t l ih => exact ih h.tileRegsReset.updTile

theorem Kept.sealAlloc {handle : Nat} (h : Kept F s) : Kept F (sealAlloc s p handle b) := h

theorem Kept.setImgState {v : Nat} (h : Kept F s) : Kept F (setImgState s p v) := h.setRgF
theorem Kept.syncLaunchState (h : Kept F s) : Kept F (syncLaunchState s p) := h.setRgF
theorem Kept.setDigest {d : List Byte} (h : Kept F s) : Kept F (setDigest s p d) := .foldl (fun _ _ hu => hu.setRg) h
theorem Kept.dropAhead (h : Kept F s) : Kept F (dropAhead s p) := .updPart (.foldl (fun _ _ hu => hu.updTile) h)

theorem Kept.dropImage (h : Kept F s) : Kept F (dropImage s p) := by
  unfold Machine.dropImage
  split
  · exact h
  · have hdescs := h.descs (smWf_filter (fun e =>
      !(e.1 / 2 ^ 20 == p && ‹Img›.descs.contains (e.1 % 2 ^ 20))))
    exact .setDigest (.setRg (.dropAhead (.updPart hdescs.sealAlloc)))

theorem Kept.abortRunning {pg : Nat} (h : Kept F s) : Kept F (abortRunning s pg) := by
  unfold Machine.abortRunning
  split
  · exact h.postDone
  · exact h

theorem Kept.sendMsix {v : Nat} (h : Kept F s) : Kept F (sendMsix s v) := h
theorem Kept.endQueue (h : Kept F s) : Kept F (endQueue s p) := h.setRgF.updPart

theorem Kept.stopQueue (h : Kept F s) : Kept F (stopQueue s p) := by
  unfold Machine.stopQueue
  extract_lets s'
  have h' : Kept F s' := h.endQueue
  exact .ite h'.sendMsix h'

theorem shownCache_unprotect (p : Nat) (c : List (Nat × List CLine)) : shownCache (unprotect p c) = shownCache c := by
  have hline : ∀ l : CLine, CLine.shown (if l.prot = some p then { l with prot := none } else l) = l.shown := by
    intro l
    split <;> rfl
  simp [shownCache, unprotect, hline, Function.comp_def]

theorem unprotect_wf (p : Nat) {c : List (Nat × List CLine)} (h : smWf (fun _ => ([] : List CLine)) c = true) :
    smWf (fun _ => ([] : List CLine)) (unprotect p c) = true :=
  smWf_map (fun _ => rfl) (fun _ he => by simpa using he) h

theorem Kept.partitionReset (h : Kept F s) : Kept F (partitionReset s p) := by
  unfold Machine.partitionReset
  extract_lets _ _ _ s₁ _ s₂
  have h₁ : Kept F s₁ := h.abortRunning.tilesReset.dropImage
  clear_value s₁
  have h₂ : Kept F s₂ :=
    ((h₁.descs (smWf_filter _)).sync (smWf_filter _)).protections (shownCache_unprotect p s₁.cache) (unprotect_wf p)
  exact .syncLaunchState (.stopQueue (.setRg (.updPart (.ite h₂.setRgF h₂))))

theorem Kept.warmPart (h : Kept F s) : Kept F (warmPart s p) := h.updPart.partitionReset.updPart

theorem eventDefaults_wf {m : List (Nat × Page)} (h : smWf pageReset m = true) : smWf pageReset (eventDefaults m) = true :=
  smWf_map_filter (fun _ => rfl) (fun _ he => by simpa using he) h

theorem Kept.warmClear (h : Kept F s) : Kept F (warmClear s) := by
  unfold Machine.warmClear
  extract_lets s'
  have h' : Kept F s' := h.warmPart.warmPart.warmPart.warmPart
  have hpages := h'.pages eventDefaults_wf
  have hmaps := (((hpages.sync fun _ => smWf_nil _).tiles fun _ => smWf_nil _).regs (smWf_filter fun e => warmKeepsReg e.1)).cnt
    (smWf_filter fun e => !warmClearedCnt e.1)
  exact .endQueue (.endQueue (.endQueue (.endQueue hmaps)))

end

/-! Events, counters and the fault collector. -/

section
variable {F : Scope} {s : State} {cause e i info n p t : Nat} {owners : List Nat} {count : State → Nat → Nat → State}

theorem Kept.goOos (h : Kept F s) : Kept F (goOos s) := .ite h (.sendMsix h)
theorem Kept.latch (h : Kept F s) : Kept F (latch s p e info) := h.setPage
theorem Kept.countRaw (h : Kept F s) : Kept F (countRaw s p i n).1 := h.setCnt

theorem Kept.warmBegin (h : Kept F s) : Kept F (warmBegin s cause) := by
  unfold Machine.warmBegin
  extract_lets s'
  have h' : Kept F s' := h.warmClear
  have hready := h'.ready (smWf_filter fun e => !(isTilePage e.1 || isFabricPage e.1 || isSlicePage e.1))
  exact .setRgF (.setRgF (.setRgF hready))

theorem Kept.faultEnter {cls : Nat} (h : Kept F s) : Kept F (faultEnter s p e cls) := by
  unfold Machine.faultEnter
  extract_lets _ _ s'
  have h' : Kept F s' := h
  exact .ite h' h'.setRg.setRg

theorem Kept.setPendingBit (h : Kept F s) : Kept F (setPendingBit s p) := h.setRg

theorem Kept.containParts {l : List Nat} (h : Kept F s) (hcount : ∀ u p i, Kept F u → Kept F (count u p i)) :
    Kept F (containParts count l s) := by
  induction l generalizing s with
  | nil => exact h
  | cons q l ih => exact ih (hcount _ _ _ h.partitionReset)

theorem Kept.poisonPart {q : Nat} (h : Kept F s) (hcount : ∀ u y z, Kept F u → Kept F (count u y z)) :
    Kept F (poisonPart count s q) := by
  unfold Machine.poisonPart
  extract_lets s'
  have h' : Kept F s' := h.updPart
  split
  · exact .ite (.updPart (hcount _ _ _ h')) h'
  · exact h'

theorem Kept.poisonParts {l : List Nat} (h : Kept F s) (hcount : ∀ u p i, Kept F u → Kept F (count u p i)) :
    Kept F (poisonParts count l s) := by
  induction l generalizing s with
  | nil => exact h
  | cons q l ih => exact ih (.ite (.poisonPart h hcount) (.containParts h hcount))

theorem Kept.collect {cls : Nat} {hang : Bool} (h : Kept F s) (hcount : ∀ u y z, Kept F u → Kept F (count u y z)) :
    Kept F (collect count s p e cls hang owners) := by
  unfold Machine.collect
  extract_lets s₁ _ _ _ s₂ s₃ s₄ s₅
  have h₁ : Kept F s₁ := h.setPendingBit
  have h₂ : Kept F s₂ := .faultEnter (hcount _ _ _ h₁)
  have h₃ : Kept F s₃ := .ite h₂.sendMsix (.foldl (fun _ _ hu => hu.sendMsix) h₂)
  have h₄ : Kept F s₄ := h₂.sendMsix
  have h₅ : Kept F s₅ := h₂.sendMsix
  exact .ite (.sendMsix (hcount _ _ _ h₁))
    (.ite (.ite h₃ (.containParts h₃ hcount))
    (.ite (.ite h₄ (.poisonParts h₄ hcount)) (.ite (.ite h₅.setRgF h₅) (.ite h₅ (.warmBegin (hcount _ _ _ h₅))))))

theorem Kept.raiseWith (h : Kept F s) (hcount : ∀ u y z, Kept F u → Kept F (count u y z)) :
    Kept F (raiseWith count s p e info owners) := by
  unfold Machine.raiseWith
  extract_lets _ _ s'
  have h' : Kept F s' := h.latch
  exact .ite h' (.collect h' hcount)

theorem Kept.countN (h : Kept F s) : Kept F (countN n s p i) := by
  induction n generalizing s p i with
  | zero => exact h.countRaw
  | succ n ih =>
    rw [countN_succ]
    exact .ite (.raiseWith h.countRaw.choose fun _ _ _ hu => ih hu) h.countRaw

theorem Kept.countBy (h : Kept F s) : Kept F (countBy s p i n) := by
  rw [countBy_eq]
  exact .ite (.raiseWith h.countRaw.choose fun _ _ _ hu => hu.countN) h.countRaw

theorem Kept.count1 (h : Kept F s) : Kept F (count1 s p i) := h.countBy

theorem Kept.raiseOwned (h : Kept F s) : Kept F (raiseOwned s p e info owners) :=
  .raiseWith h (fun _ _ _ hu => hu.countN)

theorem Kept.raise (h : Kept F s) : Kept F (raise s p e info) := h.raiseOwned
theorem Kept.raiseOpen (h : Kept F s) : Kept F (raiseOpen s p e) := .raise h

theorem Kept.raiseLevel {on : Bool} (h : Kept F s) : Kept F (raiseLevel s p e on) := by
  unfold Machine.raiseLevel
  extract_lets _ _ _ s'
  have h' : Kept F s' := h.setPage
  exact .ite h'.raiseOpen h'

theorem Kept.tcount (h : Kept F s) : Kept F (tcount s t i n) := .ite h h.countBy
theorem Kept.traise (h : Kept F s) : Kept F (traise s t e info) := h.raise

theorem Kept.tdcAdd {ltile op : Nat} (h : Kept F s) : Kept F (tdcAdd s p cause ltile op) :=
  .count1 (.count1 (.ite h h.setRg.setRg))

theorem Kept.tdcTile {op : Nat} (h : Kept F s) : Kept F (tdcTile s t cause op) := h.tdcAdd
theorem Kept.clearPages (h : Kept F s) : Kept F (clearPages s p n) :=
  ((h.pages (smWf_filter _)).cnt (smWf_filter _)).regs (smWf_filter _)
theorem Kept.countSwitches {s0 : State} (h : Kept F s) : Kept F (countSwitches s0 s n) := h.countBy
theorem Kept.domainOff (h : Kept F s) : Kept F (domainOff s p) := h.setBlk.setReady.clearPages.countSwitches
theorem Kept.retireSite {site : Nat} (h : Kept F s) : Kept F (retireSite s site) := .domainOff h

theorem Kept.reloadMap (h : Kept F s) : Kept F (reloadMap s) :=
  .foldl (fun _ _ hu => hu.setRg) (.foldl (fun _ _ hu => hu.setRg) h)

theorem Kept.retireFree {site : Nat} (h : Kept F s) : Kept F (retireFree s site) :=
  h.retireSite.setRg.reloadMap.raiseOpen

theorem Kept.charge {k : Nat} (h : Kept F s) : Kept F (charge s k) := by
  unfold Machine.charge
  extract_lets _ s'
  have h' : Kept F s' := h
  exact .ite h' (.ite h' (.ite (.ite h'.retireFree h') h'.goOos))

theorem Kept.chargeTile (h : Kept F s) : Kept F (chargeTile s t) := h.tcount.charge

theorem Kept.injectUsed (h : Kept F s) : Kept F (injectUsed s) := by
  unfold Machine.injectUsed
  extract_lets _ _ s'
  have h' : Kept F s' := h
  exact .ite h'.setRgF h'

theorem Kept.fiTake {kind page : Nat} (h : Kept F s) : Kept F (fiTake s kind page).2 := .ite_snd h.injectUsed h

end

/-! The memory tiers and the stack cache. -/

section
variable {F : Scope} {s : State} {a hint n part q src : Nat} {err : List (BitVec 7 × Byte)} {d : List Byte}

theorem Kept.setCtrl {k : Nat} {c : Ctrl} (h : Kept F s) : Kept F (setCtrl s k c) :=
  h.update rfl rfl rfl rfl (setCtrl_canon k c)
theorem Kept.putSet {k : Nat} {l : List CLine} (h : Kept F.wide s) : Kept F.wide (putSet s k l) :=
  h.cache (smWf_smSet _ _)
theorem Kept.dropCached (h : Kept F.wide s) : Kept F.wide (dropCached s a) := h.putSet

/-- The lines of a cache rewritten where they are. -/
theorem cacheMap_wf {f : Nat → CLine → CLine} {c : List (Nat × List CLine)}
    (h : smWf (fun _ => ([] : List CLine)) c = true) :
    smWf (fun _ => ([] : List CLine)) (c.map (fun e => (e.1, e.2.map (f e.1)))) = true :=
  smWf_map (fun _ => rfl) (fun _ he => by simpa using he) h

theorem poisonFilter_wf {m : Mem} (p : Nat × Bool → Bool) (h : m.wf = true) :
    ({ m with poison := m.poison.filter p } : Mem).wf = true := by
  simp only [Mem.wf, Bool.and_eq_true] at h ⊢
  exact ⟨h.1, smWf_filter p h.2⟩

theorem unpoisoned_wf {m : Mem} (h : m.wf = true) : ({ m with poison := [] } : Mem).wf = true := by
  simp only [Mem.wf, Bool.and_eq_true] at h ⊢
  exact ⟨h.1, rfl⟩

theorem Kept.blankRange {base size : Nat} (h : Kept F.wide s) : Kept F.wide (blankRange s base size) :=
  (h.mem (memBlank_wf base size (s.free + 1))).cache (cacheMap_wf (f := fun _ => _))

theorem Kept.loseMemory (h : Kept F.wide s) : Kept F.wide (loseMemory s) := .blankRange (h.mem unpoisoned_wf)

theorem Kept.ueRecord {reread : Bool} (h : Kept F s) : Kept F (ueRecord s a src reread) := .ite h h.setRg64.setRg
theorem Kept.poisonLine (h : Kept F.wide s) : Kept F.wide (poisonLine s a src) :=
  .raiseOwned (.count1 (.ueRecord (h.mem (setPoison_wf a true))))
theorem Kept.poisonRead (h : Kept F s) : Kept F (poisonRead s a src) := h.ueRecord.count1.raiseOwned
theorem Kept.repairRow (h : Kept F s) : Kept F (repairRow s a) := .ite h.raiseOpen h.setCtrl.count1.raiseOpen

theorem Kept.noteRow (h : Kept F s) : Kept F (noteRow s a) := by
  unfold Machine.noteRow
  extract_lets _ _ _ _ _ _ _ _ _ _ s₁ s₂
  have h₁ : Kept F s₁ := h.setCtrl
  have h₂ : Kept F s₂ := .ite h₁.count1 h₁
  exact .ite h₂.repairRow h₂

theorem Kept.correctLine (h : Kept F s) : Kept F (correctLine s a n) := h.count1.countBy.raiseOpen.noteRow
theorem Kept.injectErr (h : Kept F s) : Kept F (injectErr s err).2 := h

theorem Kept.memRead (h : Kept F.wide s) : Kept F.wide (memRead s a src err).2 := by
  unfold Machine.memRead
  extract_lets
  dsimp -zeta only
  extract_lets s'
  have h' : Kept F.wide s' := .ite (.ite_snd h.fiTake.injectErr h.fiTake) (.count1 (.ite_snd h.fiTake.injectErr h.fiTake))
  refine .ite_snd (.ite h' h'.poisonRead) ?_
  split
  · exact h'
  · exact .correctLine (.ite h' (h'.mem (memSetBytes_wf a _)))
  · exact h'.poisonLine

theorem Kept.memWrite (h : Kept F.wide s) : Kept F.wide (memWrite s a d) :=
  .count1 (h.mem fun hm => setPoison_wf a false (memSetBytes_wf a _ hm))
theorem Kept.writeBack {l : CLine} (h : Kept F.wide s) : Kept F.wide (writeBack s l) := h.memWrite.count1

theorem Kept.cachePut {x : CLine} (h : Kept F.wide s) : Kept F.wide (cachePut s x) := by
  unfold Machine.cachePut
  extract_lets _ _ _ _ out _ s₁ s₂
  have h₁ : Kept F.wide s₁ := .ite h.count1 h
  have h₂ : Kept F.wide s₂ := by
    unfold s₂
    clear_value out
    split
    · exact .ite h₁.writeBack h₁
    · exact h₁
  exact h₂.putSet

theorem Kept.readLine (h : Kept F.wide s) : Kept F.wide (readLine s a hint part err).2 := by
  unfold Machine.readLine
  extract_lets sp kind miss serve
  have hmiss : ∀ u e, Kept F.wide u → Kept F.wide (miss u e).2 := by
    intro u e hu
    have hread : Kept F.wide (Machine.memRead (Machine.count1 u sp 1) a 0 e).2 := hu.count1.memRead
    exact .ite_snd hread (.ite_snd (.pair_snd hread.cachePut) (.ite_snd (.pair_snd hread.cachePut) hread))
  have hserve : ∀ u l d, Kept F.wide u → Kept F.wide (serve u l d).2 := by
    intro u l d hu
    unfold serve
    clear_value kind
    split
    · exact hu.cachePut
    · exact hu.putSet
    · exact hu.cachePut
    · exact .ite hu.dropCached.count1 hu.dropCached
  split
  · exact hmiss _ _ h
  · split
    · exact hserve _ _ _ h.count1
    · exact hserve _ _ _ h.count1.count1
    · exact .ite_snd h.dropCached.poisonLine (hmiss _ _ h.dropCached)

theorem Kept.writeLine (h : Kept F.wide s) : Kept F.wide (writeLine s a d hint part) := by
  unfold Machine.writeLine
  extract_lets s'
  have h' : Kept F.wide s' := h.mem (setPoison_wf a false)
  refine .ite ?_ h'.cachePut
  split
  · exact h'.putSet.memWrite
  · exact h'.memWrite

theorem Kept.snoop (h : Kept F s) : Kept F (snoop s a) := .ite (.count1 h) h
theorem Kept.devRead (h : Kept F.wide s) : Kept F.wide (devRead s a hint part err).2 := h.snoop.readLine
theorem Kept.devWrite (h : Kept F.wide s) : Kept F.wide (devWrite s a d hint part) := h.snoop.writeLine

theorem Kept.devSpan {hint : Nat → Nat} {errs : List (List (BitVec 7 × Byte))} (h : Kept F.wide s) :
    Kept F.wide (devSpan s a n hint part errs).2 := .foldl_snd (fun _ _ hu => hu.devRead) h

theorem Kept.devMerge {bs : List (Option Byte)} (h : Kept F.wide s) : Kept F.wide (devMerge s a bs hint part) := h.devWrite

theorem Kept.devPut {l : List Byte} (h : Kept F.wide s) : Kept F.wide (devPut s a l hint part) :=
  .foldl (fun _ _ hu => hu.devMerge) h

theorem Kept.anyTile {p : Nat} (h : Kept F s) : Kept F (anyTile s p).2 := h

theorem Kept.parityLine (h : Kept F.wide s) : Kept F.wide (parityLine s a q) := by
  unfold Machine.parityLine
  extract_lets s'
  have h' : Kept F.wide s' := h.snoop.dropCached
  exact .raise (.charge (.count1 (.count1 (h'.mem (setPoison_wf a true)))))

theorem Kept.outLine (h : Kept F.wide s) : Kept F.wide (outLine s q a d hint part) :=
  .ite h.fiTake.parityLine h.fiTake.devWrite

theorem Kept.outLink (h : Kept F s) : Kept F (outLink s q d).2 := .ite_snd h.fiTake.charge.raiseOpen h.fiTake

theorem Kept.pokeBytes {l : List Byte} (h : Kept F.wide s) : Kept F.wide (pokeBytes s a l) := by
  unfold Machine.pokeBytes
  extract_lets
  refine .foldl (fun _ _ hu => ?_) (h.mem (memSetBytes_wf a l))
  split
  · exact hu.putSet
  · exact hu

theorem Kept.setDesc {p : Nat} {d : BitVec 1024} (h : Kept F.wide s) : Kept F.wide (setDesc s p n d) :=
  .pokeBytes (h.descs (smWf_smSet _ _))

end

/-! The gate of commands, arithmetic events, the issue of schedule entries and sampled duplicates. -/

section
variable {F : Scope} {s v : State} {acy op p stream t : Nat} {e : AEv} {act : State → State}

theorem Kept.noteWrite (h : Kept F s) : Kept F (noteWrite s p) := h.setPage

theorem Kept.command {code : Nat} {arg : Arg} {unready : Bool} {refuse : State → State} (h : Kept F s)
    (hrefuse : ∀ u, Kept F u → Kept F (refuse u)) (hact : ∀ u, Kept F u → Kept F (act u)) :
    Kept F (command s p code arg unready refuse act) := by
  unfold Machine.command
  refine .ite h ?_
  extract_lets s₁ _ s₂
  have h₁ : Kept F s₁ := h.noteWrite
  have h₂ : Kept F s₂ := h₁.setPage
  exact .ite h₁ (.ite (.postResult (hrefuse _ h₂))
    (.ite (.postResult (hrefuse _ h₂)) (.ite (.postResult (hrefuse _ h₂)) (.ite (.postResult (hrefuse _ h₂)) (hact _ h₂)))))

theorem Kept.command0 {code : Nat} {arg : Arg} {refuse : State → State} (h : Kept F s)
    (hrefuse : ∀ u, Kept F u → Kept F (refuse u)) (hact : ∀ u, Kept F u → Kept F (act u)) :
    Kept F (command0 s p code arg refuse act) :=
  .command h hrefuse (fun _ hu => .ite (.postResult (hrefuse _ hu)) (hact _ hu))

theorem Kept.tsCheck {a n : Nat} (h : Kept F s) : Kept F (tsCheck s t a n) := by
  unfold Machine.tsCheck
  split
  · exact h
  · exact h.chargeTile.tcount.traise

theorem Kept.arithRecord {a : APlace} (h : Kept F s) : Kept F (arithRecord s t a e) :=
  .ite h.setRg.setRg.setRg.setRg.updTile (.ite h.setRg h)

theorem Kept.arithRaise (h : Kept F s) : Kept F (arithRaise s t op e) := by
  unfold Machine.arithRaise
  extract_lets s₁ s₂
  have h₁ : Kept F s₁ := .ite h.traise h
  have h₂ : Kept F s₂ := .ite h₁.traise h₁
  exact .ite h₂.traise h₂

theorem Kept.arithEvent {a : APlace} (h : Kept F s) : Kept F (arithEvent s t a e) := .ite h h.arithRecord.arithRaise

theorem Kept.scatterEvent {order stage : Nat} (h : Kept F s) : Kept F (scatterEvent s t op acy order stage e) :=
  .ite h (.arithEvent h)

theorem Kept.looseEvent (h : Kept F s) : Kept F (looseEvent s t e) :=
  .ite h (.ite (.arithRaise h) (.updTile (.scatterEvent h)))

theorem Kept.precFirst {cause fromRung : Nat} (h : Kept F s) : Kept F (precFirst s t op cause fromRung) :=
  .ite h h.setRg

theorem Kept.skinkRecord {opcode ra i : Nat} {e : KEv} (h : Kept F s) : Kept F (skinkRecord s t op opcode ra i e) :=
  .ite h h.setRg.setRg.updTile

theorem Kept.skinkEvents {opcode ra : Nat} {evs : List KEv} (h : Kept F s) :
    Kept F (skinkEvents s t op opcode ra evs) := .tcount (.tcount (.tcount (.tcount (.tcount (.ite h.skinkRecord h)))))

theorem Kept.countConv {c : Counts} {conv : Bool} (h : Kept F s) : Kept F (countConv s t c conv) := by
  unfold Machine.countConv
  extract_lets s'
  have h' : Kept F s' := h.tcount.tcount
  exact .tcount (.tcount (.ite h'.tcount h'))

theorem Kept.noteStalls {idx a b : Nat} (h : Kept F s) : Kept F (noteStalls s t idx a b) := .ite h h.setTile.tcount

theorem Kept.issueEntry {e : BitVec 128} (h : Kept F s) : Kept F (issueEntry s t stream acy e) := by
  unfold Machine.issueEntry
  extract_lets _ _ _ _ _ _ _ s'
  have h' : Kept F s' := h.noteStalls.updTile.setRg
  exact .ite h'.tcount.tdcTile h'

theorem Kept.issueStep {is unitOk : BitVec 128 → Bool} {unitFrom : BitVec 128 → Option Nat}
    {act : BitVec 128 → State → State} (h : Kept F s) (hact : ∀ x u, Kept F u → Kept F (act x u)) :
    Leaves F (issueStep s t stream acy is unitOk unitFrom act) := by
  unfold Machine.issueStep
  split
  · exact .skip h
  · exact .guarded h (hact _ _ h.issueEntry.updTile)

theorem Kept.issueFree {is : BitVec 128 → Bool} {act : BitVec 128 → State → State} (h : Kept F s)
    (hact : ∀ x u, Kept F u → Kept F (act x u)) : Leaves F (issueFree s t stream acy is act) := h.issueStep hact

theorem Kept.twinStep {u v : State} {ends : Bool} (h : Kept F v) : Kept F (twinStep u v t acy ends act) :=
  .ite h (.ite h.updTile h.updTile)

theorem Kept.shadowUnit {kind : Nat} {differs : Bool} (h : Kept F s) : Kept F (shadowUnit s t kind op differs) := by
  unfold Machine.shadowUnit
  split
  · exact h
  · extract_lets _ s'
    have h' : Kept F s' := h.updTile
    refine .ite h' ?_
    refine .ite h' ?_
    split
    · exact h'.count1
    · exact h'

end

/-! The feeders and the Anole array. -/

section
variable {F : Scope} {s : State} {acy r t : Nat} {feeder : BitVec 1} {b : OBlock} {q : Present}

theorem Kept.feedAct {side : Nat} {e : BitVec 128} (h : Kept F s) : Kept F (feedAct t side acy e s) :=
  h.setTile.tcount

theorem Kept.execFeed {t : TileIx} (h : Kept F s) : Leaves F (execFeed t feeder acy s) :=
  h.issueStep (fun _ _ hu => hu.feedAct)

theorem Kept.kpassAct {e : BitVec 128} {fr fc : FeedSt} (h : Kept F s) : Kept F (kpassAct t acy e fr fc s) :=
  h.setTile

theorem Kept.execKpass {t : TileIx} (h : Kept F s) : Leaves F (execKpass t acy s) := by
  unfold Machine.execKpass
  extract_lets
  refine h.issueStep (fun _ _ hu => ?_)
  extract_lets
  split
  · exact hu.kpassAct
  · exact hu

theorem Kept.presentQuant (h : Kept F s) : Kept F (presentQuant s t q) := by
  unfold Machine.presentQuant
  split
  · exact .foldl (fun _ _ hu => hu.countConv.tcount.updTile) h
  · exact h

theorem Kept.presentCounts (h : Kept F s) : Kept F (presentCounts s t q) := h.tcount.tcount

theorem Kept.presentReads (h : Kept F s) : Kept F (presentReads s t q) := by
  unfold Machine.presentReads
  extract_lets _ _ _ _ _ s₁ _ _ _ _ s₂
  have h₁ : Kept F s₁ := .ite h h.tcount.updTile
  have h₂ : Kept F s₂ := by
    unfold s₂
    refine .foldl (fun _ _ hu => ?_) (.ite h₁ h₁.tcount.traise)
    extract_lets _ _ s₃ s₄
    have h₃ : Kept F s₃ := by
      unfold s₃
      split
      · exact hu.tsCheck
      · exact hu
    have h₄ : Kept F s₄ := .ite h₃.traise h₃
    exact .ite h₄.tcount h₄
  refine .ite h ?_
  refine .ite ?_ (.ite h₂.tsCheck h₂)
  refine .foldl (fun _ _ hu => ?_) h
  extract_lets
  split
  · exact hu.tsCheck
  · exact hu

theorem Kept.presentOverflow (h : Kept F s) : Kept F (presentOverflow s t acy q) :=
  .foldl (fun _ _ hu => hu.arithEvent) h

theorem Kept.feedDone {fd : FeedSt} (h : Kept F s) : Kept F (feedDone s t acy q fd) := .ite h h.tcount.updTile

theorem Kept.presentStep (h : Kept F s) : Kept F (presentStep s t acy q) := by
  unfold Machine.presentStep
  extract_lets _ _ s₁ _ s₂
  have h₁ : Kept F s₁ := h.presentQuant.presentCounts.presentReads.presentOverflow
  have h₂ : Kept F s₂ := .updTile (.ite h₁.tcount h₁)
  refine .ite h₁ ?_
  split
  · exact h₂.feedDone
  · exact h₂

theorem Kept.execFeedPresent {t : TileIx} {lane : BitVec 10} (h : Kept F s) :
    Leaves F (execFeedPresent t feeder lane acy s) := by
  unfold Machine.execFeedPresent
  extract_lets
  refine .ite (.skip h) ?_
  split
  · exact .skip h
  · exact .guarded h h.updTile.presentStep

theorem Kept.cellAct {c : Nat} {p : KPassSt} {e k : LinkEntry} (h : Kept F s) :
    Kept F (cellAct s t r c acy b p e k) := by
  unfold Machine.cellAct
  extract_lets _ _ _ _ _ _ s₁ s₂
  have h₁ : Kept F s₁ := h.setTile.noteStalls
  have h₂ : Kept F s₂ := .ite h₁.injectUsed h₁
  exact .arithEvent (.ite h₂.tcount h₂)

theorem Kept.execArrayStep {t : TileIx} {r c : BitVec 7} (h : Kept F s) : Leaves F (execArrayStep t r c acy s) := by
  unfold Machine.execArrayStep
  extract_lets
  refine .ite (.skip h) ?_
  split
  · exact .skip h
  · exact .guarded h h.cellAct

theorem Kept.outlierAct {c : Nat} {p : KPassSt} (h : Kept F s) : Kept F (outlierAct s t r c acy b p) := by
  unfold Machine.outlierAct
  extract_lets
  dsimp -zeta only
  extract_lets s'
  have h' : Kept F s' := h.setTile
  exact .arithEvent (.ite h'.tcount h')

theorem Kept.execOutlierStep {t : TileIx} {r c : BitVec 7} (h : Kept F s) :
    Leaves F (execOutlierStep t r c acy s) := by
  unfold Machine.execOutlierStep
  extract_lets
  refine .ite (.skip h) ?_
  split
  · exact .skip h
  · exact .guarded h h.outlierAct

theorem Kept.slackCheck {sched : Nat} (h : Kept F s) : Kept F (slackCheck s t acy b sched) :=
  .ite h h.updTile.tcount.tdcTile

theorem Kept.swapAct (h : Kept F s) : Kept F (swapAct s t r acy b) := .ite h.setTile.slackCheck h.setTile

theorem Kept.execArraySwap {t : TileIx} {r : BitVec 7} (h : Kept F s) : Leaves F (execArraySwap t r acy s) := by
  unfold Machine.execArraySwap
  extract_lets
  refine .ite (.skip h) ?_
  split
  · exact .skip h
  · exact .guarded h h.swapAct

theorem Kept.enterAct (h : Kept F s) : Kept F (enterAct s t r acy b) := by
  unfold Machine.enterAct
  extract_lets _ _ _ _ _ _ _ _ s'
  have h' : Kept F s' := .ite h.setTile.noteStalls h.setTile
  exact .ite h'.slackCheck h'

theorem Kept.execDrainRowEnter {t : TileIx} {r : BitVec 6} (h : Kept F s) :
    Leaves F (execDrainRowEnter t r acy s) := by
  unfold Machine.execDrainRowEnter
  extract_lets
  refine .ite (.skip h) ?_
  split
  · exact .skip h
  · exact .guarded h h.enterAct

theorem Kept.drainStore {q : Drain} {off at_ : Nat} {l : List Byte} {keep : Bool} (h : Kept F s) :
    Kept F (drainStore s q off at_ l keep) := .ite h h.updTile

theorem Kept.drainWide {q : Drain} {ds : List XV} (h : Kept F s) : Kept F (drainWide s q ds) := by
  unfold Machine.drainWide
  refine .foldl (fun _ _ hu => ?_) h
  extract_lets _ _ s'
  have h' : Kept F s' := hu.drainStore
  exact .ite h'.arithEvent h'

theorem Kept.drainBlock {q : Drain} {rowscale : XV} {ds : List XV} {g : Nat} (h : Kept F s) :
    Kept F (drainBlock q rowscale ds s g) := by
  unfold Machine.drainBlock
  extract_lets _ _ _ _ _ _ _ _ _ _ _ _ _ _ _ _ _ _ _ _ _ s'
  have h' : Kept F s' := h.drainStore.countConv.updTile
  exact .ite h' h'.traise

theorem Kept.writeReport {id : Nat} (h : Kept F s) : Kept F (writeReport s t id) := by
  unfold Machine.writeReport
  split
  · exact h
  · exact .ite h h.updTile

theorem Kept.drainDone (h : Kept F s) : Kept F (drainDone s t acy b) := h.updTile.writeReport.shadowUnit.updTile

theorem Kept.drainRow {q : Drain} {v : ConvRow} (h : Kept F s) : Kept F (drainRow s q v) := by
  unfold Machine.drainRow
  extract_lets _ _ _ _ _ _ _ s₁ s₂ _ _ _ _ _ s₃ s₄
  have h₁ : Kept F s₁ := .ite h.tsCheck h
  have h₂ : Kept F s₂ := .ite h₁.tsCheck h₁
  have h₃ : Kept F s₃ := .tcount (.foldl (fun _ _ hu => hu.arithEvent) (.ite h₂.tsCheck h₂))
  have h₄ : Kept F s₄ := .ite h₃.tcount h₃
  exact .ite h₄.drainBlock.drainBlock h₄.updTile.drainWide

theorem Kept.dupRow {q : Drain} {v : ConvRow} {s' : State} (h : Kept F s') : Kept F (dupRow s q v s') :=
  .ite h.updTile h

theorem Kept.writeAct {x : Tile} {q : Drain} {v : ConvRow} (h : Kept F s) : Kept F (writeAct s x t acy q v) := by
  unfold Machine.writeAct
  extract_lets _ _ s'
  have h' : Kept F s' := h.setTile.drainRow.dupRow
  split
  · exact .ite h'.drainDone h'
  · exact h'

theorem Kept.execDrainRowWrite {t : TileIx} {r : BitVec 6} (h : Kept F s) :
    Leaves F (execDrainRowWrite t r acy s) := by
  unfold Machine.execDrainRowWrite
  extract_lets
  refine .ite (.skip h) ?_
  split
  · exact .skip h
  · split
    · exact .skip h
    · exact .guarded h h.writeAct

theorem Kept.chkRecord (h : Kept F s) : Kept F (chkRecord s t b) := .ite h h.setRg.setRg.setRg.setRg.setRg.setRg

theorem Kept.mismatchAct (h : Kept F s) : Kept F (mismatchAct s t acy b) :=
  .ite h.raise (.ite h.setTile (.ite h.setTile.tcount.tdcTile h.raise))

theorem Kept.verdictAct (h : Kept F s) : Kept F (verdictAct s t acy b) := by
  unfold Machine.verdictAct
  extract_lets s'
  have h' : Kept F s' := h.updTile
  exact .updTile (.ite h'.tcount.chkRecord.traise.chargeTile.mismatchAct h'.tcount.updTile)

theorem Kept.execChecksumVerdict {t : TileIx} (h : Kept F s) : Leaves F (execChecksumVerdict t acy s) := by
  unfold Machine.execChecksumVerdict
  refine .ite (.skip h) ?_
  extract_lets
  split
  · exact .skip h
  · exact .next h.verdictAct

theorem Kept.statsAct {fd : FeedSt} (h : Kept F s) : Kept F (statsAct s t acy fd) := by
  unfold Machine.statsAct
  extract_lets
  split
  · exact h.setTile

theorem Kept.execStatsWrite {t : TileIx} (h : Kept F s) : Leaves F (execStatsWrite t feeder acy s) := by
  unfold Machine.execStatsWrite
  refine .ite (.skip h) ?_
  extract_lets
  split
  · exact .skip h
  · exact .next h.statsAct

theorem Kept.decideAct (h : Kept F s) : Kept F (decideAct s t acy b) := by
  unfold Machine.decideAct
  extract_lets _ _ _ s'
  have h' : Kept F s' := h.updTile
  exact .updTile (.writeReport (.ite h' (.ite h'.updTile.tcount.precFirst h'.traise)))

theorem Kept.execFallbackDecision {t : TileIx} (h : Kept F s) : Leaves F (execFallbackDecision t acy s) := by
  unfold Machine.execFallbackDecision
  refine .ite (.skip h) ?_
  extract_lets
  split
  · exact .skip h
  · exact .next h.decideAct

theorem Kept.reopen {start : Nat} {old : OBlock} {l : List KPassSt} (h : Kept F s) :
    Kept F (reopen s t old start l) := by
  induction l generalizing s start with
  | nil => exact h
  | cons p l ih =>
    unfold Machine.reopen
    dsimp only
    split
    · exact h
    · exact ih h.setTile.updTile

theorem Kept.repeatAct {q : Repeat} {rest : List Repeat} (h : Kept F s) : Kept F (repeatAct s t q rest) :=
  h.setTile.reopen.tcount

theorem Kept.execRepeatStart {t : TileIx} (h : Kept F s) : Leaves F (execRepeatStart t acy s) := by
  unfold Machine.execRepeatStart
  extract_lets
  split
  · exact .skip h
  · exact .guarded h h.repeatAct

end

/-! The Brekeger links. -/

section
variable {F : Scope} {s : State} {n : Nat} {arg : Arg} {b : BitVec 160} {f flit : BitVec 256} {p : TxPkt}

theorem Kept.setLk {l : LinkSt} (h : Kept F s) : Kept F (setLk s n l) :=
  h.update rfl rfl rfl rfl (setLk_canon n l)
theorem Kept.setLkState {v : Nat} (h : Kept F s) : Kept F (setLkState s n v) := h.setRgF

theorem Kept.emit {kind seq : Nat} {body : BitVec 160} (h : Kept F s) : Kept F (emit s n kind seq body) :=
  h.setLk.count1

theorem Kept.emitData {payload : List Byte} (h : Kept F s) : Kept F (emitData s n payload) := h.setLk.countBy

theorem Kept.emitPacket {seq : Nat} (h : Kept F s) : Kept F (emitPacket s n seq p) := by
  unfold Machine.emitPacket
  extract_lets s'
  have h' : Kept F s' := h.emit
  exact .ite h'.emitData h'

theorem Kept.flush (h : Kept F s) : Kept F (flush s n) := .ite h.emit h
theorem Kept.flushAll (h : Kept F s) : Kept F (flushAll s) := .foldl (fun _ _ hu => hu.flush) h

theorem Kept.transmit (h : Kept F s) : Kept F (transmit s n p) := by
  unfold Machine.transmit
  extract_lets _ _ s₁ s₂
  have h₁ : Kept F s₁ := h.setLk
  have h₂ : Kept F s₂ := by
    unfold s₂
    split
    · exact h₁.setLk
    · exact h₁
  exact h₂.count1.emitPacket

theorem Kept.drainSync {l : List TxPkt} (h : Kept F s) : Kept F (drainSync s n l) := by
  induction l generalizing s with
  | nil => exact h
  | cons p l ih => exact .ite h.setLk (ih h.transmit)

theorem Kept.freeHeld (h : Kept F s) : Kept F (freeHeld s p) := by
  unfold Machine.freeHeld
  split
  · exact h.setLk
  · exact h

theorem Kept.enqueue (h : Kept F s) : Kept F (enqueue s n p) :=
  .ite h.freeHeld.count1 (.ite h.setLk h.setLk.drainSync)

theorem Kept.originate {dest : Nat} (h : Kept F s) : Kept F (originate s dest p) := by
  unfold Machine.originate
  split
  · exact h.enqueue
  · exact h

theorem Kept.linkDown (h : Kept F s) : Kept F (linkDown s n) :=
  .raiseOpen (.countBy (.setReady (.setLkState (.setLk (.foldl (fun _ _ hu => hu.freeHeld) h)))))

theorem Kept.ackTo {a : Nat} (h : Kept F s) : Kept F (ackTo s n a) := .ite h.setLk.drainSync h

theorem Kept.sendRetry (h : Kept F s) : Kept F (sendRetry s n) := by
  unfold Machine.sendRetry
  extract_lets _ _ s'
  have h' : Kept F s' := h.setLk.emit.count1.raiseOpen
  exact .ite h'.linkDown h'

theorem Kept.badCtl (h : Kept F s) : Kept F (badCtl s n f) := by
  unfold Machine.badCtl
  extract_lets s'
  have h' : Kept F s' := .count1 (.ite h.raiseOpen h)
  exact .ite h'.sendRetry h'.setLk

theorem Kept.goodCtl (h : Kept F s) : Kept F (goodCtl s n f) := by
  unfold Machine.goodCtl
  extract_lets _ s'
  have h' : Kept F s' := h.setLk
  split
  · exact h'.ackTo
  · exact h'

theorem Kept.recvCtl {act : State → State} (h : Kept F s) (hact : ∀ u, Kept F u → Kept F (act u)) :
    Kept F (recvCtl s n f act) := by
  unfold Machine.recvCtl
  extract_lets s'
  have h' : Kept F s' := h.count1
  exact .ite (hact _ h'.goodCtl) h'.badCtl

theorem Kept.recvData {ds : List (BitVec 256)} (h : Kept F s) : Kept F (recvData s n ds) := h.setLk.countBy
theorem Kept.accepted (h : Kept F s) : Kept F (accepted s n) := h.setLk.count1

theorem Kept.accept {act : State → State} (h : Kept F s) (hact : ∀ u, Kept F u → Kept F (act u)) :
    Kept F (accept s n f act) := by
  unfold Machine.accept
  extract_lets _ s'
  have h' : Kept F s' := h.setLk
  exact .ite h' (hact _ h'.accepted)

theorem Kept.freeFlits {k : Nat} (h : Kept F s) : Kept F (freeFlits s n k) := h.setLk

theorem Kept.forward {dest hops : Nat} (h : Kept F s) : Kept F (forward s n dest hops p) := by
  unfold Machine.forward
  split
  · exact h.raiseOpen.count1.freeFlits
  · exact h.raiseOpen.count1.freeFlits
  · exact h.count1.enqueue

theorem Kept.tileLineCheck {t : Nat} {d : BitVec 1024} {desc : Nat} {ix : Int} {l : List Byte} (h : Kept F s) :
    Kept F (tileLineCheck s t d desc ix l) := by
  unfold Machine.tileLineCheck
  split
  · exact h
  · exact h.traise
  · exact h.tcount

theorem Kept.deliverLine {p t : Nat} {d : BitVec 1024} {i : Nat} {l : List Byte} (h : Kept F.wide s) :
    Kept F.wide (deliverLine s b p t d i l) := by
  unfold Machine.deliverLine
  extract_lets
  refine .ite (.ite (.foldl (fun _ _ hu => hu.looseEvent) h.updTile) h.updTile) ?_
  refine .ite ?_ h.devWrite
  dsimp -zeta only
  extract_lets _ s'
  have h' : Kept F.wide s' := h.devRead.devWrite
  exact .ite (.foldl (fun _ _ hu => hu.looseEvent) h') h'

theorem Kept.consume {payload : List Byte} (h : Kept F.wide s) : Kept F.wide (consume s n b payload) := by
  unfold Machine.consume
  extract_lets _ _ _ _ s₁ _ _ s₂ _ _ s₃ _ _ s₄ s₅
  have h₁ : Kept F.wide s₁ := h.freeFlits
  have h₂ : Kept F.wide s₂ := .foldl (fun _ _ hu => hu.deliverLine) h₁
  have h₃ : Kept F.wide s₃ := .ite h₂.tcount h₂
  have h₄ : Kept F.wide s₄ := h₃.setLk
  have h₅ : Kept F.wide s₅ := .ite h₄.tdcAdd h₄
  exact .ite h₁.raiseOpen (.ite h₃.setLk (.ite h₅.tdcAdd h₅))

theorem Kept.execDataPacketSend {n : LinkIx} (h : Kept F s) : Leaves F (execDataPacketSend n s) := by
  unfold Machine.execDataPacketSend
  extract_lets
  split
  · exact .skip h
  · exact .guarded h h.setLk.transmit.flushAll

theorem Kept.takePacket {data : List (BitVec 256)} (h : Kept F.wide s) : Kept F.wide (takePacket s n b data) :=
  .ite h.consume h.forward

theorem Kept.execDataPacketReceive {n : LinkIx} {data : List (BitVec 256)} {next : BitVec 256} (h : Kept F.wide s) :
    Leaves F.wide (execDataPacketReceive n flit data next s) := by
  unfold Machine.execDataPacketReceive
  extract_lets
  refine .guarded h ?_
  refine .flushAll ?_
  refine .recvCtl h (fun _ hu => ?_)
  extract_lets s'
  have h' : Kept F.wide s' := hu.recvData
  exact .ite (.accept h' (fun _ hv => hv.takePacket)) h'.count1.badCtl

theorem Kept.execIdleFlit {n : LinkIx} {body : BitVec 224} {crc : BitVec 32} (h : Kept F s) :
    Leaves F (execIdleFlit n body crc s) := .guarded h (.flushAll (.recvCtl h (fun _ hu => hu)))

theorem Kept.resend (h : Kept F s) : Kept F (resend s n f) := .countBy (.foldl (fun _ _ hu => hu.emitPacket) h.setLk)

theorem Kept.execRetry {n : LinkIx} (h : Kept F s) : Leaves F (execRetry n flit s) :=
  .guarded h (.flushAll (.recvCtl h (fun _ hu => .ite hu.linkDown hu.resend)))

theorem Kept.codewordAct {lanes : List (BitVec 680)} (h : Kept F s) : Kept F (codewordAct s n lanes) := by
  unfold Machine.codewordAct
  split
  · exact h
  · exact h.count1
  · extract_lets s'
    have h' : Kept F s' := h.count1
    exact .ite h'.sendRetry h'.setLk

theorem Kept.sendTrain (h : Kept F s) : Kept F (sendTrain s n) := h.emit

theorem Kept.execLinkTrain {n : LinkIx} (h : Kept F s) : Leaves F (execLinkTrain n arg s) :=
  .next (.command h (fun _ hu => hu)
    (fun _ hu => .ite hu.postResult (.ite hu.postResult hu.setLk.setLkState.sendTrain.postRunning)))

theorem Kept.execLinkDisable {n : LinkIx} (h : Kept F s) : Leaves F (execLinkDisable n arg s) :=
  .next (.command h (fun _ hu => hu) (fun _ hu => .ite hu.postResult (.postResult (.ite hu hu.linkDown))))

theorem Kept.endTrain {code : Nat} (h : Kept F s) : Kept F (endTrain s n code) := .ite h.postDone h
theorem Kept.trainSeen (h : Kept F s) : Kept F (trainSeen s n f) := h.setLk.setRg.setRg64
theorem Kept.spareAsked (h : Kept F s) : Kept F (spareAsked s n f) := .ite h.setLk h

theorem Kept.trainAct (h : Kept F s) : Kept F (trainAct s n f) := by
  unfold Machine.trainAct
  extract_lets _ _ s₁ _ s₂
  have h₁ : Kept F s₁ := h.trainSeen
  have h₂ : Kept F s₂ := h₁.setLk.sendTrain
  exact .ite h₁.sendTrain (.ite h₁.setLk.setLkState.endTrain.raiseOpen.sendTrain
    (.ite h₂.setLkState.setReady.endTrain.raiseOpen h₂))

theorem Kept.execTrainFlit {n : LinkIx} (h : Kept F s) : Leaves F (execTrainFlit n flit s) :=
  .guarded h (.flushAll (.recvCtl h.setLk (fun _ hu => .ite hu.spareAsked hu.trainAct)))

theorem Kept.execLaneSwitch {n : LinkIx} {cw : Word} (h : Kept F s) : Leaves F (execLaneSwitch n cw s) := by
  unfold Machine.execLaneSwitch
  extract_lets _ _ _ s'
  have h' : Kept F s' := .ite h.setRgF.setRgF h
  exact .next (.setLk (.ite h'.setRgF.setRgF h'))

theorem Kept.turnOf {tx : Nat} (h : Kept F s) : Kept F (turnOf s n tx).2 := .ite_snd h h

theorem Kept.driftCheck {off : Int} (h : Kept F s) : Kept F (driftCheck s off) := by
  unfold Machine.driftCheck
  extract_lets s'
  have h' : Kept F s' := h.setRgF
  exact .ite (.raiseOpen h') h'

theorem Kept.delaySeen {rx : Nat} (h : Kept F s) : Kept F (delaySeen s n f rx) := .setLk (.ite h h.setRg)

theorem Kept.driftSeen {rx : Nat} (h : Kept F s) : Kept F (driftSeen s n f rx) := by
  unfold Machine.driftSeen
  refine .ite h ?_
  extract_lets s'
  have h' : Kept F s' := h.count1
  split
  · exact h'.driftCheck
  · exact h'

theorem Kept.execTimeFlit {n : LinkIx} {frac : BitVec 4} (h : Kept F s) : Leaves F (execTimeFlit n flit frac s) :=
  .guarded h (.flushAll (.recvCtl h (fun _ hu => hu.delaySeen.driftSeen)))

theorem Kept.shiftTimes {by_ : Int} (h : Kept F s) : Kept F (shiftTimes s by_) :=
  h.links (smWf_map_filter (fun _ => rfl) (fun _ he => by simpa using he))

theorem Kept.alignTo {count depth : Nat} (h : Kept F.timed s) : Kept F.timed (alignTo s count depth) := by
  unfold Machine.alignTo
  extract_lets s₁
  have h₁ : Kept F.timed s₁ := h.shiftTimes
  dsimp -zeta only
  extract_lets s₂
  have h₂ : Kept F.timed s₂ := .setRgF (.setRgF (.setRgF h₁.gcnt.choose))
  exact .raiseOpen h₂

theorem Kept.execTimeAlign (h : Kept F.timed s) : Leaves F.timed (execTimeAlign arg s) := by
  unfold Machine.execTimeAlign
  extract_lets
  refine .next ?_
  refine .command0 h (fun _ hu => hu) (fun _ hu => ?_)
  extract_lets
  refine .ite hu.postResult ?_
  refine .ite hu.postResult ?_
  split
  · exact hu.postResult
  · exact .ite hu.postResult (.ite hu.raiseOpen.postResult hu.alignTo.postResult)

end

/-! Sync objects and notification bindings. -/

section
variable {F : Scope} {s : State} {aux code msg n obj op p value : Nat} {flit : BitVec 256}

theorem Kept.setSync {o : SyncObj} (h : Kept F s) : Kept F (setSync s n o) :=
  h.update rfl rfl rfl rfl (setSync_canon n o)
theorem Kept.setArmed {b : Bool} (h : Kept F s) : Kept F (setArmed s n b) := h.setRg
theorem Kept.fireBinding (h : Kept F s) : Kept F (fireBinding s n) := .sendMsix (.setArmed h)
theorem Kept.notify (h : Kept F s) : Kept F (notify s obj) := .foldl (fun _ _ hu => hu.fireBinding) h
theorem Kept.sendMsg {dest : Nat} (h : Kept F s) : Kept F (sendMsg s msg code dest obj value aux) := h.originate

theorem Kept.toRoster (h : Kept F s) : Kept F (toRoster s msg code obj value aux) :=
  .foldl (fun _ _ hu => .sendMsg (.ite hu.count1 hu)) h

theorem Kept.toGroups (h : Kept F s) : Kept F (toGroups s msg code obj value aux) :=
  .foldl (fun _ _ hu => .ite hu.toRoster (.sendMsg (.ite hu.count1 hu))) h

theorem Kept.sendUpdates (h : Kept F s) : Kept F (sendUpdates s n) := by
  unfold Machine.sendUpdates
  extract_lets
  split
  · exact h.toRoster
  · exact h.toGroups
  · exact h

theorem Kept.applyOp {arg : DWord} (h : Kept F s) : Kept F (applyOp s n op arg).2 := by
  unfold Machine.applyOp
  extract_lets _ s'
  have h' : Kept F s' := h.count1
  exact .ite h' h'.setSync.notify.sendUpdates

theorem Kept.setLast {v : Nat} (h : Kept F s) : Kept F (setLast s p v) := h.setRgF

theorem Kept.launchWrite {g : Nat} (h : Kept F s) : Kept F (launchWrite s p g) := by
  unfold Machine.launchWrite
  extract_lets s'
  have h' : Kept F s' := h.setRg64
  exact .ite h'.updPart.dropAhead.setLast.syncLaunchState (.ite h'.setLast (.ite h'.setLast h'.updPart.syncLaunchState))

theorem Kept.launchObject {g part : Nat} {atHome : Bool} (h : Kept F s) :
    Kept F (launchObject s n g part atHome) := by
  unfold Machine.launchObject
  extract_lets _ s'
  have h' : Kept F s' := h.launchWrite
  split
  · exact .ite h'.toRoster h'
  · exact .ite h'.toGroups (.ite h'.toRoster h')
  · exact h'

theorem Kept.execSyncObjectDefine {n : BitVec 16} {field : BitVec 2} {v : RegData} (h : Kept F s) :
    Leaves F (execSyncObjectDefine n field v s) := by
  unfold Machine.execSyncObjectDefine
  extract_lets _ _ _ _ _ s'
  have h' : Kept F s' := h.noteWrite
  refine .guarded h ?_
  refine .ite h'.raiseOpen ?_
  split
  · exact .ite h'.setPage h'.setSync
  · exact h'.setSync

theorem Kept.hostSync {up : BitVec 20} (h : Kept F s) : Leaves F (hostSync op up s) :=
  .next (.command h (fun _ hu => hu)
    (fun _ hu => .ite hu.postResult
    (.ite hu.raiseOpen.postResult (.ite hu.postResult
    (.ite hu.raiseOpen.postResult (.ite hu.count1.launchObject.postResult
    (.postResult (.ite hu.applyOp.setRg64 hu.applyOp))))))))

theorem Kept.beginWait {kind number : Nat} (h : Kept F s) : Kept F (beginWait s p kind number) :=
  .ite h h.setRg.updPart

theorem Kept.endWait (h : Kept F s) : Kept F (endWait s p) := .ite h h.setRg
theorem Kept.tileOp {arg : DWord} (h : Kept F s) : Kept F (tileOp s n op arg) := .ite h.applyOp h.count1.sendMsg

theorem Kept.tileSync {t : TileIx} {acy : Nat} (h : Kept F s) : Leaves F (tileSync op t acy s) :=
  h.issueFree (fun _ _ hu => hu.tileOp)

theorem Kept.waitOn {t : Nat} {e : BitVec 128} (h : Kept F s) : Kept F (waitOn s t e) := h.beginWait.updTile

theorem Kept.waitOver {t : Nat} {e : BitVec 128} (h : Kept F s) : Kept F (waitOver s t p e) := by
  unfold Machine.waitOver
  extract_lets s'
  have h' : Kept F s' := h.updTile
  exact .ite h'.endWait h'

theorem Kept.tileWait {t : TileIx} {acy : Nat} (h : Kept F s) : Leaves F (tileWait op t acy s) := by
  unfold Machine.tileWait
  extract_lets
  split
  · exact .skip h
  · exact .ite (.next h.waitOn) (h.issueStep (fun _ _ hu => hu.waitOver))

theorem Kept.syncRecv {n : LinkIx} {act : BitVec 160 → State → State} (h : Kept F s)
    (hact : ∀ x u, Kept F u → Kept F (act x u)) : Leaves F (syncRecv n flit msg act s) :=
  .guarded h (.flushAll (.recvCtl h (fun _ hu => .accept hu (fun _ hv => .ite (hact _ _ hv) hv.forward))))

theorem Kept.execSyncOp {n : LinkIx} (h : Kept F s) : Leaves F (execSyncOp n flit s) :=
  h.syncRecv (fun _ _ hu => .ite hu.applyOp hu)

theorem Kept.execSyncUpdate {n : LinkIx} (h : Kept F s) : Leaves F (execSyncUpdate n flit s) := by
  unfold Machine.execSyncUpdate
  refine h.syncRecv (fun _ _ hu => ?_)
  extract_lets _ _ s'
  have h' : Kept F s' := hu.setSync.notify
  exact .ite hu (.ite h'.toRoster h')

theorem Kept.execSyncLaunch {n : LinkIx} (h : Kept F s) : Leaves F (execSyncLaunch n flit s) :=
  h.syncRecv (fun _ _ hu => hu.launchObject)

end

/-! The move stream. -/

section
variable {F : Scope} {s : State} {acy desc hint i op t ts : Nat} {d : BitVec 1024} {e : BitVec 128}
  {err : List (BitVec 7 × Byte)} {before : List (List (BitVec 7 × Byte))} {m : MoveSt}

theorem Kept.readLines {p : Nat} {as : List Nat} (h : Kept F.wide s) : Kept F.wide (readLines s p hint as).2 :=
  .foldl_snd (fun _ _ hu => hu.devRead) h

theorem Kept.runLines {first : Int} {count : Nat} (h : Kept F.wide s) : Kept F.wide (runLines s t desc d first count hint).2 :=
  h.readLines

theorem Kept.countOor {cnt : Nat} {ls : List RunLine} (h : Kept F s) : Kept F (countOor s t op cnt ls) :=
  .ite h h.tcount.traise

theorem Kept.moveInAct (h : Kept F.wide s) : Kept F.wide (moveInAct t acy e s) := h.runLines.setTile.tcount.countOor

theorem Kept.execMoveIn {t : TileIx} (h : Kept F.wide s) : Leaves F.wide (execMoveIn t acy s) :=
  h.issueFree (fun _ _ hu => hu.moveInAct)

theorem Kept.accessLine (h : Kept F.wide s) : Kept F.wide (accessLine s t m i err).1 := by
  unfold Machine.accessLine
  extract_lets
  split
  · exact h
  · exact h.devRead.devSpan

theorem Kept.accessLines (h : Kept F.wide s) : Kept F.wide (accessLines s t m i before err).1 :=
  .foldl_fst (fun _ _ hu => hu.accessLine) h

theorem Kept.arriveAct {parity : Bool} (h : Kept F.wide s) : Kept F.wide (arriveAct s t acy m i before parity err) := by
  unfold Machine.arriveAct
  extract_lets
  dsimp -zeta only
  extract_lets s₁ s₂ _ s₃ _ s₄ s₅
  have h₁ : Kept F.wide s₁ := .ite h.accessLines.tileLineCheck h.accessLines
  have h₂ : Kept F.wide s₂ := .ite h₁.traise h₁
  have h₃ : Kept F.wide s₃ := .ite (.traise (.tcount (.chargeTile (.ite_snd h₂.fiTake h₂)))) (.ite_snd h₂.fiTake h₂)
  have h₄ : Kept F.wide s₄ := .ite h₃.tcount h₃
  have h₅ : Kept F.wide s₅ := h₄.updTile
  exact .ite h₄ (.ite h₅.tdcTile h₅)

theorem Kept.execLineArrival {t : TileIx} {tag : Nat} {parity : Bool} (h : Kept F.wide s) :
    Leaves F.wide (execLineArrival t tag i acy before parity err s) := by
  unfold Machine.execLineArrival
  extract_lets
  refine .ite (.skip h) ?_
  split
  · exact .skip h
  · exact .ite (.next h.snoop) (.guarded h h.arriveAct)

theorem Kept.putRunLine {count : Nat} {q : Nat × RunLine} (h : Kept F.wide s) :
    Kept F.wide (putRunLine s t desc hint d ts count q) := by
  unfold Machine.putRunLine
  extract_lets
  dsimp -zeta only
  extract_lets _ _ s'
  have h' : Kept F.wide s' := h.tsCheck.outLine
  exact .ite h' h'.devPut

theorem Kept.scatterLine {order : Nat} {k : Int} {qs : List (Nat × RunLine)} (h : Kept F.wide s) :
    Kept F.wide (scatterLine s t desc hint op acy order d ts k qs) := by
  unfold Machine.scatterLine
  extract_lets _ _ s'
  have h' : Kept F.wide s' := .foldl (fun _ _ hu => hu.tsCheck) h
  exact .updPart (.outLine (.foldl (fun _ _ hu => hu.scatterEvent.scatterEvent) (.ite_snd h'.devRead h')))

theorem Kept.scatterAll {order : Nat} {qs : List (Nat × RunLine)} (h : Kept F.wide s) :
    Kept F.wide (scatterAll s t desc hint op acy order d ts qs) := .foldl (fun _ _ hu => hu.scatterLine) h

theorem Kept.moveOutAct (h : Kept F.wide s) : Kept F.wide (moveOutAct t acy e s) := by
  unfold Machine.moveOutAct
  extract_lets
  dsimp -zeta only
  extract_lets _ _ s'
  have h' : Kept F.wide s' := h.runLines.updTile.tcount.countOor
  exact .ite h'.scatterAll (.foldl (fun _ _ hu => hu.putRunLine) h')

theorem Kept.execMoveOut {t : TileIx} (h : Kept F.wide s) : Leaves F.wide (execMoveOut t acy s) :=
  h.issueFree (fun _ _ hu => hu.moveOutAct)

theorem Kept.sendLines {m : Mrec} {run : List RunLine} (h : Kept F.wide s) : Kept F.wide (sendLines s t m hint run).2 :=
  .ite_snd (.foldl_snd (fun _ _ hu => hu.tsCheck.outLink) h) (.foldl_snd (fun _ _ hu => .ite_snd hu hu.devRead.tileLineCheck) h)

theorem Kept.linkSendAct (h : Kept F.wide s) : Kept F.wide (linkSendAct t acy e s) :=
  .foldl (fun _ _ hu => hu.originate)
    (.sendLines (.ite (.updTile (.ite_snd h h.runLines)) (.countOor (.tcount (.ite_snd h h.runLines)))))

theorem Kept.execLinkSend {t : TileIx} (h : Kept F.wide s) : Leaves F.wide (execLinkSend t acy s) :=
  h.issueFree (fun _ _ hu => hu.linkSendAct)

theorem Kept.execTableLoad {t : TileIx} (h : Kept F s) : Leaves F (execTableLoad t acy s) :=
  h.issueFree (fun _ _ hu => hu.tsCheck.updTile)

theorem Kept.execScaleSet {t : TileIx} (h : Kept F s) : Leaves F (execScaleSet t acy s) :=
  h.issueFree (fun _ _ hu => hu.tsCheck.updTile)

theorem Kept.execOccLoad {t : TileIx} (h : Kept F s) : Leaves F (execOccLoad t acy s) :=
  h.issueFree (fun _ _ hu => hu.tsCheck.updTile)

theorem Kept.execSlotBind {t : TileIx} (h : Kept F s) : Leaves F (execSlotBind t acy s) :=
  h.issueFree (fun _ _ hu => .ite hu.updTile (.updTile hu))

theorem Kept.dispatchAct (h : Kept F s) : Kept F (dispatchAct t acy e s) := by
  unfold Machine.dispatchAct
  extract_lets _ _ _ _ _ _ _ s'
  have h' : Kept F s' := h.tsCheck.setTile.tcount.tcount
  exact .ite h' h'.traise

theorem Kept.execSlotDispatch {t : TileIx} (h : Kept F s) : Leaves F (execSlotDispatch t acy s) :=
  h.issueFree (fun _ _ hu => hu.dispatchAct)

end

/-! Launches, segments, checks and announcements. -/

section
variable {F : Scope} {s : State} {acy p res t : Nat} {stream : BitVec 3} {low : BitVec 36} {check : BitVec 8} {g : Group}
  {errs : List (List (BitVec 7 × Byte))} {r : Run}

theorem Kept.updRun {f : Run → Run} (h : Kept F s) : Kept F (updRun s p f) := h.updPart

theorem Kept.forTiles {f : State → Nat → State} (h : Kept F s) (hf : ∀ u y, Kept F u → Kept F (f u y)) :
    Kept F (forTiles s p f) := .foldl hf h

theorem Kept.execLaunchStart {p : PartIx} (h : Kept F s) : Leaves F (execLaunchStart p s) := by
  unfold Machine.execLaunchStart
  extract_lets _ _ _ _ s₁
  have h₁ : Kept F s₁ := h.updPart
  split
  · exact .skip h
  · extract_lets _ _ _ _ _ s₂
    have h₂ : Kept F s₂ := .count1
      (.setRg (.setImgState (.syncLaunchState (.setLast (.updPart (.forTiles h₁ (fun _ _ hu => hu.updTile)))))))
    exact .guarded h (.ite h₁.dropAhead.setLast.syncLaunchState.count1.raiseOpen.sendMsix
      (.foldl (fun _ _ hu => hu.tdcAdd) (.ite h₂ h₂)))

theorem foldl_smDel_wf {V W : Type} [DecidableEq V] {d : Nat → V} {l : List (Nat × W)} {m : List (Nat × V)}
    (h : smWf d m = true) : smWf d (l.foldl (fun m e => smDel m e.1) m) = true := by
  induction l generalizing m with
  | nil => exact h
  | cons e l ih => exact ih (smWf_smDel e.1 h)

theorem foldl_smSet_wf {V : Type} [DecidableEq V] {d : Nat → V} {l m : List (Nat × V)} (h : smWf d m = true) :
    smWf d (l.foldl (fun m e => smSet d m e.1 e.2) m) = true := by
  induction l generalizing m with
  | nil => exact h
  | cons e l ih => exact ih (smWf_smSet e.1 e.2 h)

theorem Kept.restoreSnap (h : Kept F s) : Kept F (restoreSnap s p r) := by
  unfold Machine.restoreSnap
  extract_lets s'
  have h' : Kept F s' := .foldl (fun _ _ hu => .foldl (fun _ _ hv => hv.setCnt) hu.updTile) h
  exact .foldl (fun _ _ hu => hu.sendUpdates) (h'.sync fun hs => foldl_smSet_wf (foldl_smDel_wf hs))

theorem Kept.execSegmentStart {p : PartIx} (h : Kept F s) : Leaves F (execSegmentStart p s) := by
  unfold Machine.execSegmentStart
  extract_lets
  refine .ite (.skip h) ?_
  split
  · exact .skip h
  · exact .guarded h (.updRun (.forTiles (.ite (.updPart (.ite (.restoreSnap (.forTiles h (fun _ _ hu => hu.updTile))) h)) h)
    (fun _ _ hu => hu.updTile.setRg.setRg)))

theorem Kept.readGroup (h : Kept F.wide s) : Kept F.wide (readGroup s p g errs).2 := .pair_snd h.devSpan
theorem Kept.lateGroup {late : Bool} (h : Kept F s) : Kept F (lateGroup s t g late) := .ite h.tcount.tdcTile h

theorem Kept.fetchRun {st : Nat} (h : Kept F.wide s) : Kept F.wide (fetchRun s t st acy r g errs) :=
  h.readGroup.updTile.lateGroup

theorem Kept.aheadFor {mode : Nat} (h : Kept F s) : Kept F (aheadFor s p mode) := .ite h h.dropAhead.updPart

theorem Kept.fetchAhead {st : Nat} (h : Kept F.wide s) : Kept F.wide (fetchAhead s t st g errs) :=
  h.aheadFor.readGroup.updTile.lateGroup

theorem Kept.execScheduleFetch {t : TileIx} (h : Kept F.wide s) : Leaves F.wide (execScheduleFetch t stream acy errs s) := by
  unfold Machine.execScheduleFetch
  extract_lets
  refine .ite (.skip h) ?_
  split
  · exact .next h.fetchRun
  · exact .next h.fetchAhead
  · exact .skip h

theorem Kept.lateCheck (h : Kept F s) : Kept F (lateCheck s p) := by
  unfold Machine.lateCheck
  split
  · exact .ite h h.tdcAdd.updRun
  · exact h

theorem Kept.setOutcome {v : Nat} (h : Kept F s) : Kept F (setOutcome s v) := h.setRgF.sendMsix
theorem Kept.outcome {v : Nat} (h : Kept F s) : Kept F (outcome s v) := .ite h h.setOutcome

theorem Kept.takeContinue (h : Kept F s) : Kept F (takeContinue s p res) := by
  unfold Machine.takeContinue
  split
  · exact h
  · extract_lets _ s'
    have h' : Kept F s' := h.updRun
    exact .ite h'.outcome.count1 h'

theorem Kept.takeEpoch (h : Kept F s) : Kept F (takeEpoch s p res) := by
  unfold Machine.takeEpoch
  split
  · exact h
  · exact .updRun (.forTiles h (fun _ _ hu => .ite hu hu.updTile.tcount))

theorem Kept.takeReplay (h : Kept F s) : Kept F (takeReplay s p res) :=
  .raiseOpen (.count1 (.outcome (.setRgF (.tdcAdd (.forTiles h.updRun (fun _ _ hu => hu.updTile))))))

theorem Kept.takeAbandon (h : Kept F s) : Kept F (takeAbandon s p res) := h.updRun

theorem Kept.endRun (h : Kept F s) : Kept F (endRun s p) := by
  unfold Machine.endRun
  extract_lets _ s'
  have h' : Kept F s' := .forTiles h (fun _ _ hu => hu.updTile.setRgF)
  exact .sendMsix (.setImgState (.syncLaunchState (.endWait (.updPart
    (h'.protections (shownCache_unprotect p s'.cache) (unprotect_wf p))))))

theorem Kept.abandonRun (h : Kept F s) : Kept F (abandonRun s p res) := by
  unfold Machine.abandonRun
  split
  · exact h
  · exact .raiseOpen (.count1 (.outcome (.endWait (.updRun (.forTiles h (fun _ _ hu => hu.updTile))))))

theorem Kept.decideAlone {code : Nat} (h : Kept F s) : Kept F (decideAlone s p code r) := by
  unfold Machine.decideAlone
  extract_lets _ _ s'
  have h' : Kept F s' := .ite h.lateCheck h
  split
  · exact .ite h'.takeReplay h'.takeAbandon
  · exact h'.takeEpoch
  · exact h'.takeContinue

theorem Kept.answerCheck (h : Kept F s) : Kept F (answerCheck s p) := by
  unfold Machine.answerCheck
  split
  · exact h
  · refine .ite h ?_
    extract_lets _ _ s'
    have h' : Kept F s' := .updRun (.ite h.count1 h)
    exact .ite h'.decideAlone h'

theorem Kept.issueMark {stream : Nat} {e : BitVec 128} (h : Kept F s) : Kept F (issueMark s t stream acy e) := by
  unfold Machine.issueMark
  extract_lets _ s'
  have h' : Kept F s' := h.issueEntry.updTile
  refine .ite ?_ h'
  split
  · exact .ite h' h'.updRun.beginWait
  · exact h'

theorem Kept.execEpochPointMark {t : TileIx} (h : Kept F s) : Leaves F (execEpochPointMark t stream acy s) := by
  unfold Machine.execEpochPointMark
  extract_lets
  refine .ite (.skip h) ?_
  split
  · exact .ite (.next h.issueMark.answerCheck) (.next h.answerCheck)
  · exact .next h.answerCheck

theorem Kept.execScheduleEnd {p : PartIx} (h : Kept F s) : Leaves F (execScheduleEnd p s) := by
  unfold Machine.execScheduleEnd
  extract_lets
  refine .ite (.skip h) ?_
  split
  · exact .skip h
  · exact .guarded h h.endRun

theorem Kept.openNext (h : Kept F s) : Kept F (openNext s p r) := .ite h h

theorem Kept.execResumeStep {p : PartIx} (h : Kept F s) : Leaves F (execResumeStep p s) := by
  unfold Machine.execResumeStep
  extract_lets
  refine .ite (.skip h) ?_
  split
  · exact .skip h
  · split
    · exact .skip h
    · exact .guarded h (.ite h.abandonRun
      (.ite h.updRun.endWait (.ite (.answerCheck (.updRun (.forTiles h (fun _ _ hu => hu.updTile))))
      h.openNext.updRun.endWait)))

theorem Kept.announceLate {lead : Nat} (h : Kept F s) : Kept F (announceLate s r res lead) := by
  unfold Machine.announceLate
  extract_lets s'
  have h' : Kept F s' := .ite h.lateCheck h
  exact .ite h'.count1.raiseOpen.lateCheck h'

theorem Kept.takeCopy {check low : Nat} {lead : Run → Nat} {act : State → Nat → State} (h : Kept F s)
    (hact : ∀ u y, Kept F u → Kept F (act u y)) : Kept F (takeCopy s check low lead act) := by
  unfold Machine.takeCopy
  split
  · exact hact _ _ h.count1.announceLate
  · split
    · exact .ite h.raiseOpen h
    · exact h

theorem Kept.execAnnContinue (h : Kept F s) : Leaves F (execAnnContinue check low s) :=
  .guarded h (.setRgF (.takeCopy h (fun _ _ hu => hu.takeContinue)))

theorem Kept.execAnnEpoch (h : Kept F s) : Leaves F (execAnnEpoch check low s) :=
  .guarded h (.setRgF (.takeCopy h (fun _ _ hu => hu.takeEpoch)))

theorem Kept.execAnnReplay (h : Kept F s) : Leaves F (execAnnReplay check low s) :=
  .guarded h (.setRgF (.takeCopy h (fun _ _ hu => hu.takeReplay)))

theorem Kept.execAnnAbandon (h : Kept F s) : Leaves F (execAnnAbandon check low s) := by
  unfold Machine.execAnnAbandon
  refine .guarded h ?_
  extract_lets s'
  have h' : Kept F s' := h.setRgF
  split
  · exact h'
  · exact .ite h'.count1.takeAbandon (.takeCopy h' (fun _ _ hu => hu.takeAbandon))

theorem Kept.execContractViolation {t : TileIx} (h : Kept F s) :
    Leaves F (execContractViolation t stream acy s) := by
  unfold Machine.execContractViolation
  extract_lets _ _ _ due why
  clear_value due
  split
  · exact .skip h
  · clear_value why
    split
    · exact .skip h
    · exact .guarded h (.traise (.updTile (.ite h h.setRg.setRg)))

theorem Kept.abandonRot {site : Nat} (h : Kept F s) : Kept F (abandonRot s site) := .ite (.count1 (.setRgF h)) h

theorem Kept.moveTile {site : Nat} (h : Kept F s) : Kept F (moveTile s t site) := by
  unfold Machine.moveTile
  extract_lets _ s'
  have h' : Kept F s' := h.abandonRot
  exact .raiseOpen (.reloadMap (.updRun (.setRg (.retireSite h'))))

theorem Kept.serveMove (h : Kept F s) : Kept F (serveMove s t) := by
  unfold Machine.serveMove
  extract_lets
  split
  · exact h.moveTile
  · exact h.goOos.raise

end

/-! The Skink lanes. -/

section
variable {F : Scope} {s : State} {acy opcode : Nat} {t : TileIx}

theorem Kept.skinkAct {t : Nat} {act : State → State} {u : State} (h : Kept F u)
    (hact : ∀ u, Kept F u → Kept F (act u)) : Kept F (skinkAct t acy opcode act u) := .twinStep (hact _ h.tcount)

theorem Kept.skinkIssue {t : Nat} {act : Nat → BitVec 128 → State → State} (h : Kept F s)
    (hact : ∀ x y u, Kept F u → Kept F (act x y u)) : Leaves F (skinkIssue t acy opcode act s) :=
  h.issueFree (fun _ _ hu => .skinkAct hu (fun _ hv => hact _ _ _ hv))

theorem Kept.laneStep {lat : Nat} {f : Nat → Bool → Nat → Nat → Nat → Nat × KEv} (h : Kept F s) :
    Leaves F (laneStep t acy opcode lat f s) := by
  unfold Machine.laneStep
  exact h.skinkIssue (fun _ _ _ hu => hu.setTile.skinkEvents)

theorem Kept.maskStep {f : Nat → Nat → Nat → Bool × KEv} (h : Kept F s) : Leaves F (maskStep t acy opcode f s) := by
  unfold Machine.maskStep
  exact h.skinkIssue (fun _ _ _ hu => hu.setTile.skinkEvents)

theorem Kept.execVload (h : Kept F s) : Leaves F (execVload t acy s) := by
  unfold Machine.execVload
  exact h.skinkIssue (fun _ _ _ hu => hu.setTile.tsCheck)

theorem Kept.storeAct {t off n : Nat} {e : BitVec 128} (h : Kept F s) : Kept F (storeAct t acy off n e s) :=
  h.setTile.shadowUnit

theorem Kept.execVstore (h : Kept F s) : Leaves F (execVstore t acy s) := h.skinkIssue (fun _ _ _ hu => hu.storeAct)

theorem Kept.execVstoreLine (h : Kept F s) : Leaves F (execVstoreLine t acy s) :=
  h.skinkIssue (fun _ _ _ hu => hu.storeAct)

theorem Kept.execRand (h : Kept F s) : Leaves F (execRand t acy s) := by
  unfold Machine.execRand
  exact h.skinkIssue (fun _ _ _ hu => hu.setTile.tcount)

theorem Kept.selectAct {t : Nat} {e : BitVec 128} (h : Kept F s) : Kept F (selectAct t acy e s) := by
  unfold Machine.selectAct
  extract_lets _ _ _ _ _ _ s'
  have h' : Kept F s' := h.setTile.tsCheck
  exact .shadowUnit (.ite h' h'.traise.tcount)

theorem Kept.execOutlierSelect (h : Kept F s) : Leaves F (execOutlierSelect t acy s) :=
  h.skinkIssue (fun _ _ _ hu => hu.selectAct)

end

/-! Allocations, slices and controllers, the control of blocks, and the site map. -/

section
variable {F : Scope} {s : State} {base p : Nat} {arg : Arg} {ok : Bool} {k : CtrlIx} {err : List (BitVec 7 × Byte)}
  {page : PageIx}

theorem Kept.allocFail {check : Nat} (h : Kept F s) : Kept F (allocFail p check s) := h.setRg
theorem Kept.dropRange {size : Nat} (h : Kept F.wide s) : Kept F.wide (dropRange s base size) :=
  h.cache (smWf_map_filter (fun _ => rfl) (fun _ he => by simpa using he))
theorem Kept.countFill {L : Nat} (h : Kept F s) : Kept F (countFill s base L) := .foldl (fun _ _ hu => hu.countBy) h

theorem Kept.zeroRange {size : Nat} (h : Kept F.wide s) : Kept F.wide (zeroRange s base size) := by
  unfold Machine.zeroRange
  extract_lets _ s'
  have h' : Kept F.wide s' := h.dropRange
  exact .countFill (h'.mem (fun hm => poisonFilter_wf _ (memBlank_wf base _ 0 hm)))

theorem Kept.execAllocCreate {p : PartIx} (h : Kept F.wide s) : Leaves F.wide (execAllocCreate p arg s) := by
  unfold Machine.execAllocCreate
  extract_lets
  refine .next ?_
  refine .command0 h (fun _ hu => hu.allocFail) (fun _ hu => ?_)
  refine .ite hu.allocFail.postResult ?_
  split
  · exact hu.allocFail.postResult
  · extract_lets _ s'
    have h' : Kept F.wide s' := .setRg hu
    exact .ite h'.updPart.postRunning h'.blankRange.postResult

theorem Kept.execAllocZeroComplete {p : PartIx} (h : Kept F.wide s) : Leaves F.wide (execAllocZeroComplete p s) := by
  unfold Machine.execAllocZeroComplete
  extract_lets
  split
  · exact .skip h
  · extract_lets s'
    have h' : Kept F.wide s' := by
      unfold s'
      split
      · exact h.zeroRange
      · exact h
    exact .next h'.updPart.postDone

theorem Kept.execAllocRelease {p : PartIx} (h : Kept F.wide s) : Leaves F.wide (execAllocRelease p arg s) := by
  unfold Machine.execAllocRelease
  extract_lets
  refine .next ?_
  refine .command0 h (fun _ hu => hu) (fun _ hu => ?_)
  split
  · exact hu.postResult
  · refine .ite hu.postResult ?_
    extract_lets s'
    have h' : Kept F.wide s' := hu.dropRange.blankRange
    exact .postResult h'

theorem Kept.execAllocQuery {p : PartIx} (h : Kept F s) : Leaves F (execAllocQuery p arg s) := by
  unfold Machine.execAllocQuery
  extract_lets
  refine .next ?_
  refine .command0 h (fun _ hu => hu) (fun _ hu => ?_)
  split
  · exact hu.postResult
  · exact hu.setRgF.setRg64.setRg64.postResult

theorem Kept.execRemapAdd (h : Kept F s) : Leaves F (execRemapAdd k arg s) := by
  unfold Machine.execRemapAdd
  extract_lets
  refine .next ?_
  refine .command0 h (fun _ hu => hu) (fun _ hu => ?_)
  extract_lets
  split
  · exact hu.postResult
  · exact hu.setCtrl.postResult

theorem Kept.execRemapRead (h : Kept F s) : Leaves F (execRemapRead k arg s) := by
  unfold Machine.execRemapRead
  extract_lets
  refine .next ?_
  refine .command h (fun _ hu => hu) (fun _ hu => ?_)
  refine .ite hu.postResult ?_
  split
  · exact hu.postResult
  · exact hu.setRg64.postResult

theorem Kept.writeBacks {l : List CLine} (h : Kept F.wide s) : Kept F.wide (writeBacks s l) :=
  .foldl (fun _ _ hu => hu.writeBack) h

theorem Kept.cleanSlice {n : Nat} (h : Kept F.wide s) : Kept F.wide (cleanSlice s n) := by
  unfold Machine.cleanSlice
  extract_lets s'
  have h' : Kept F.wide s' := h.writeBacks
  exact h'.cache (smWf_map (fun e => by split <;> rfl) (fun e he => by split <;> simpa using he))

theorem Kept.dropSlice {n : Nat} (h : Kept F.wide s) : Kept F.wide (dropSlice s n) := h.cache (smWf_filter _)

theorem Kept.execSliceClean {n : BitVec 4} (h : Kept F s) : Leaves F (execSliceClean n arg s) :=
  .next (.command h (fun _ hu => hu) (fun _ hu => hu.postRunning.setBlk))

theorem Kept.execLineRead {line : BitVec 52} {hint : BitVec 2} {part : PartIx} (h : Kept F.wide s) :
    Leaves F.wide (execLineRead line hint part err s) := .guarded h h.devRead

theorem Kept.execLineWrite {line : BitVec 52} {hint : BitVec 2} {part : PartIx} {data : BitVec 576}
    {parity : Option (BitVec 2)} (h : Kept F.wide s) : Leaves F.wide (execLineWrite line hint part data parity s) := by
  unfold Machine.execLineWrite
  extract_lets
  refine .guarded h ?_
  split
  · exact h.parityLine
  · exact h.devWrite

theorem Kept.execScrubLine (h : Kept F.wide s) : Leaves F.wide (execScrubLine k err s) := by
  unfold Machine.execScrubLine
  extract_lets _ _ _ _ _ _ _ s'
  have h' : Kept F.wide s' := .setCtrl (.ite h h.memRead.count1)
  exact .next (.ite h'.count1 h')

theorem Kept.copyCodeword {a : Nat} (h : Kept F.wide s) : Kept F.wide (copyCodeword s a err) := h.memRead.count1

theorem Kept.execRemapCopyDone {channel : BitVec 6} {row : BitVec 24} {errs : RowErrs} (h : Kept F.wide s) :
    Leaves F.wide (execRemapCopyDone k channel row errs s) := .guarded h (.foldl (fun _ _ hu => hu.copyCodeword) h.setCtrl)

theorem Kept.execNop (h : Kept F s) : Leaves F (execNop page arg s) := by
  unfold Machine.execNop
  extract_lets _ s'
  have h' : Kept F s' := h.noteWrite
  exact .ite (.skip h) (.guarded h' h'.setPage.postResult)

theorem Kept.execUndefinedCommand {code : Byte} (h : Kept F s) : Leaves F (execUndefinedCommand page code arg s) :=
  .ite h.hostSync (.next (.ite h (.command h (fun _ hu => hu) (fun _ hu => hu.postResult))))

theorem Kept.postControl {code : Nat} (h : Kept F s) : Kept F (postControl s p code) := .postResult h

theorem Kept.execEnable {v : Word} (h : Kept F s) : Leaves F (execEnable page v s) := by
  unfold Machine.execEnable
  extract_lets _ s'
  have h' : Kept F s' := h.noteWrite
  exact .guarded h (.ite h'.postControl h'.setCtl)

theorem Kept.execQuiesce {v : Word} (h : Kept F s) : Leaves F (execQuiesce page v s) :=
  .guarded h h.noteWrite.setCtl.setBlk

theorem Kept.refuseTest {code : Nat} (h : Kept F s) : Kept F (refuseTest s p code) := h.setCtl.postControl

theorem Kept.execSelftest {v : Word} (h : Kept F s) : Leaves F (execSelftest page v s) := by
  unfold Machine.execSelftest
  extract_lets _ s'
  have h' : Kept F s' := h.noteWrite
  exact .guarded h (.ite h' (.ite h'.refuseTest (.ite h'.refuseTest (.ite h' (.ite h'.refuseTest h'.setCtl.setBlk.setReady)))))

theorem Kept.siteFailed {site : Nat} (h : Kept F s) : Kept F (siteFailed s site) := by
  unfold Machine.siteFailed
  extract_lets _ s'
  have h' : Kept F s' := h
  split
  · exact h'.retireFree
  · exact .ite h'.retireSite.reloadMap.serveMove h'.serveMove

/-- A self-test's verdict reaches no more than the slice, if it is one, that the test has emptied. -/
theorem Kept.testDone_of_slice {f : List (BitVec 7 × BitVec 7)} (h : Kept F s)
    (hslice : isSlicePage p = true → Kept F (Machine.dropSlice s (p - 0x30))) : Kept F (Machine.testDone s p ok f).2 := by
  unfold Machine.testDone
  refine .ite_snd ?_ ?_
  · extract_lets _ s₁
    have h₁ : Kept F s₁ := by
      unfold s₁
      split
      · exact h.updTile
      · exact h
    dsimp -zeta only
    split
    · exact .siteFailed (.ite_snd h₁ h₁)
    · exact .ite_snd h₁ h₁
    · exact .raiseOpen (.setRg (.ite_snd h₁ h₁))
  · extract_lets s₂
    have h₂ : Kept F s₂ := by
      unfold s₂
      split
      next hp => exact hslice hp
      next => exact h
    exact .ite h₂ h₂.setBlk.goOos

theorem Kept.testDone {f : List (BitVec 7 × BitVec 7)} (h : Kept F.wide s) : Kept F.wide (testDone s p ok f).2 :=
  h.testDone_of_slice fun _ => h.dropSlice

theorem Kept.execSelftestEnd {faults : List (BitVec 7 × BitVec 7)} (h : Kept F.wide s) :
    Leaves F.wide (execSelftestEnd page ok faults s) := by
  unfold Machine.execSelftestEnd
  extract_lets _ _ s'
  have h' : Kept F.wide s' := h.setCtl.setBlk
  split
  · exact .skip h
  · exact .guarded h (.ite h'.testDone.postControl.setBlk.setReady h'.testDone.postControl)

theorem Kept.execPwrReq {v : Word} (h : Kept F s) : Leaves F (execPwrReq page v s) := by
  unfold Machine.execPwrReq
  extract_lets _ s'
  have h' : Kept F s' := h.noteWrite
  exact .guarded h (.ite h' (.ite (.ite h'.postControl h'.setCtl) (.ite h'.postControl h'.setCtl)))

theorem Kept.loseContents (h : Kept F.wide s) : Kept F.wide (loseContents s p) := by
  unfold Machine.loseContents
  refine .ite h.cleanSlice.dropSlice ?_
  refine .ite (.setCtrl (h.mem fun hm => poisonFilter_wf _ (memBlank_wf _ _ _ hm))) ?_
  refine .ite (h.links (smWf_smDel _)) ?_
  refine .ite ?_ h
  split
  · exact h.setTile
  · exact h

theorem Kept.execPowerDomainOff (h : Kept F.wide s) : Leaves F.wide (execPowerDomainOff page s) := by
  unfold Machine.execPowerDomainOff
  extract_lets _ s'
  have h' : Kept F.wide s' := h.loseContents.domainOff
  exact .guarded h h'

theorem Kept.factoryRepair {site : Nat} (h : Kept F s) : Kept F (factoryRepair s site) := h.setRg

theorem Kept.execPowerDomainOn (h : Kept F s) : Leaves F (execPowerDomainOn page s) := by
  unfold Machine.execPowerDomainOn
  extract_lets _ _ s'
  have h' : Kept F s' := h.setBlk
  exact .guarded h (.countSwitches (.ite h'.factoryRepair h'))

theorem Kept.execBlockReady {faults : List (BitVec 7 × BitVec 7)} (h : Kept F.wide s) :
    Leaves F.wide (execBlockReady page ok faults s) := by
  unfold Machine.execBlockReady
  extract_lets _ _ s'
  have h' : Kept F.wide s' := .ite h.factoryRepair (.ite h.setCtrl h)
  exact .guarded h (.ite (.setReady (.ite_snd h'.testDone h')) (.ite_snd h'.testDone h'))

theorem Kept.siteMap {m : SiteMap} (h : Kept F s) : Kept F { s with map := m } := h

theorem Kept.applyMap (h : Kept F s) : Kept F (applyMap s) := by
  unfold Machine.applyMap
  extract_lets _ _ s'
  have h' : Kept F s' := .foldl (fun _ _ hu => hu.abandonRot) h
  exact .foldl (fun _ _ hu => hu.retireSite) h'.siteMap

theorem Kept.execSiteMapApply (h : Kept F s) : Leaves F (execSiteMapApply arg s) :=
  .next (.command h (fun _ hu => .ite hu hu.reloadMap)
    (fun _ hu => .ite hu.reloadMap.postResult (.ite hu.applyMap.reloadMap.postResult hu.reloadMap.postResult)))

theorem Kept.execSiteMapStageWrite {off : BitVec 12} {v : Word} (h : Kept F s) :
    Leaves F (execSiteMapStageWrite off v s) := by
  unfold Machine.execSiteMapStageWrite
  extract_lets _ s'
  have h' : Kept F s' := h.noteWrite
  exact .guarded h (.ite h' (.ite h'.setRg h'.setRg))

theorem Kept.execPartSet (h : Kept F s) : Leaves F (execPartSet arg s) :=
  .next (.command h (fun _ hu => hu)
    (fun _ hu => .ite hu.postResult
    (.ite hu.postResult (.ite hu.postResult (.postResult (.foldl (fun _ _ hv => hv.updPart) (.setRgF (hu.descs fun _ => smWf_nil _))))))))

theorem Kept.execArrayRepairWrite {site : SiteIx} {v : Word} (h : Kept F s) :
    Leaves F (execArrayRepairWrite site v s) := by
  unfold Machine.execArrayRepairWrite
  extract_lets _ _ _ _ s'
  have h' : Kept F s' := h.noteWrite
  exact .guarded h (.ite h' h'.setRg)

end

/-! The Chorus bus. -/

section
variable {F : Scope} {s : State} {j : Nat} {arg : Arg}

theorem Kept.updChorus {f : Chorus → Chorus} (h : Kept F s) : Kept F (updChorus s f) := h

theorem Kept.chorusCmd {code : Nat} {act : State → State} (h : Kept F s) (hact : ∀ u, Kept F u → Kept F (act u)) :
    Leaves F (chorusCmd code arg act s) :=
  .next (.command0 h (fun _ hu => hu) (fun _ hu => .ite hu.postResult (hact _ hu)))

theorem Kept.execChorusStart (h : Kept F s) : Leaves F (execChorusStart arg s) :=
  h.chorusCmd (fun _ hu => .ite hu.postResult hu.setRgF.postResult)

theorem Kept.execChorusStop (h : Kept F s) : Leaves F (execChorusStop arg s) :=
  h.chorusCmd (fun _ hu => .ite hu.postResult hu.setRgF.updChorus.postResult)

theorem Kept.execChorusAbort (h : Kept F s) : Leaves F (execChorusAbort arg s) := by
  unfold Machine.execChorusAbort
  refine h.chorusCmd (fun _ hu => ?_)
  split
  · exact hu.postResult
  · exact hu.updChorus.postRunning

theorem Kept.setAnn {type check res : Nat} (h : Kept F s) : Kept F (setAnn s type check res) := h.updChorus

theorem Kept.announceAll {type check res : Nat} (h : Kept F s) : Kept F (announceAll s type check res) :=
  .foldl (fun _ _ hu => hu.sendMsg) h

theorem Kept.decideSystem (h : Kept F s) : Kept F (decideSystem s j) := .ite h.updChorus.announceAll.setAnn h
theorem Kept.noteGroup {g answer : Nat} (h : Kept F s) : Kept F (noteGroup s g answer j) := h.updChorus.decideSystem

theorem Kept.completeCheck (h : Kept F s) : Kept F (completeCheck s j) := by
  unfold Machine.completeCheck
  extract_lets _ s'
  have h' : Kept F s' := .count1 (.updChorus (.ite h.postDone h))
  exact .ite h'.setAnn (.ite h'.noteGroup h'.sendMsg)

theorem Kept.execGroupResult {n : LinkIx} {flit : BitVec 256} (h : Kept F s) :
    Leaves F (execGroupResult n flit s) := by
  unfold Machine.execGroupResult
  refine h.syncRecv (fun _ _ hu => ?_)
  split
  · exact .ite hu.noteGroup hu
  · exact hu

theorem Kept.execLinkAnnounce {n : LinkIx} {flit : BitVec 256} (h : Kept F s) :
    Leaves F (execLinkAnnounce n flit s) := h.syncRecv (fun _ _ hu => .ite hu.setAnn hu)

theorem Kept.execChorusRound (h : Kept F s) : Leaves F (execChorusRound s) := by
  unfold Machine.execChorusRound
  extract_lets _ say _ s₁ _ s₂
  have hsay : ∀ u w, Kept F u → Kept F (say u w) := fun _ _ hu => hu
  have h₁ : Kept F s₁ := h.count1.updChorus
  have h₂ : Kept F s₂ := .ite h₁.postDone h₁
  refine .guarded h ?_
  split
  · exact hsay _ _ h₁
  · exact .ite (hsay _ _ h₁.updChorus) (.ite (hsay _ _ h₁) (hsay _ _ (.updChorus (.ite h₂.announceAll h₂))))

theorem Kept.execRoundWord {word : DWord} (h : Kept F s) : Leaves F (execRoundWord word s) := by
  unfold Machine.execRoundWord
  extract_lets _ _ s₁ s₂ _ s₃
  have h₁ : Kept F s₁ := h.count1
  have h₂ : Kept F s₂ := h₁.updChorus
  have h₃ : Kept F s₃ := h₁.updChorus.count1.raiseOpen
  exact .guarded h (.ite (.ite h₂.setRgF h₂) (.ite h₃.setRgF.raiseOpen h₃))

theorem Kept.setMissing {k n : Nat} (h : Kept F s) : Kept F (setMissing s k n) := h.updChorus

theorem Kept.execSlotAnswer {slot : BitVec 6} {code : BitVec 4} {all : Bool} (h : Kept F s) :
    Leaves F (execSlotAnswer slot code all s) := by
  unfold Machine.execSlotAnswer
  extract_lets _ _ s₁ s₂ _ s₃ _ s₄ s₅ _ _ _ s₆
  have h₁ : Kept F s₁ := h.setRgF
  have h₂ : Kept F s₂ := .ite h₁.raiseOpen h₁
  have h₃ : Kept F s₃ := .ite h₂.raiseOpen h₂
  have h₄ : Kept F s₄ := .ite h₃ h₃.setMissing
  have h₅ : Kept F s₅ := .ite h₄.raise h₄
  have h₆ : Kept F s₆ := .updChorus (.ite h₅ h₅.updChorus)
  refine .guarded h ?_
  split
  · exact h₃
  · exact .ite h₆.completeCheck h₆

end

/-! Descriptors, images and contexts. -/

section
variable {F : Scope} {s : State} {code p : Nat} {arg : Arg}

theorem Kept.descFail {check dim : Nat} (h : Kept F s) : Kept F (descFail p check dim s) := h.setRg

theorem Kept.descCmd {refuse : State → State} {act : Nat → State → State} (h : Kept F s)
    (hrefuse : ∀ u, Kept F u → Kept F (refuse u)) (hact : ∀ x u, Kept F u → Kept F (act x u)) :
    Leaves F (descCmd p code arg refuse act s) :=
  .next (.command h hrefuse (fun _ hu => .ite (.postResult (hrefuse _ hu)) (.ite (.postResult (hrefuse _ hu)) (hact _ _ hu))))

theorem Kept.execDescCreate {p : PartIx} (h : Kept F.wide s) : Leaves F.wide (execDescCreate p arg s) := by
  unfold Machine.execDescCreate
  extract_lets
  refine h.descCmd (fun _ hu => hu.descFail) (fun _ _ hu => ?_)
  refine .ite hu.descFail.postResult ?_
  split
  · exact hu.descFail.postResult
  · exact hu.setDesc.setRg.postResult

theorem Kept.execDescDestroy {p : PartIx} (h : Kept F s) : Leaves F (execDescDestroy p arg s) := by
  unfold Machine.execDescDestroy
  exact h.descCmd (fun _ hu => hu) (fun _ _ hu => .ite hu.postResult (.postResult (hu.descs (smWf_smDel _))))

theorem Kept.execDescRead {p : PartIx} (h : Kept F s) : Leaves F (execDescRead p arg s) := by
  unfold Machine.execDescRead
  extract_lets
  refine h.descCmd (fun _ hu => hu) (fun _ _ hu => ?_)
  split
  · exact hu.postResult
  · exact .postResult (.foldl (fun _ _ hv => hv.setRg) hu)

theorem Kept.asLoaded {hd : Header} {i : Img} (h : Kept F s) : Kept F (asLoaded s p hd i) := by
  unfold Machine.asLoaded
  extract_lets
  exact .foldl (fun _ _ hu => hu.descs (smWf_smSet _ _)) h.updPart

theorem Kept.imgCmd {refuse act : State → State} (h : Kept F s) (hrefuse : ∀ u, Kept F u → Kept F (refuse u))
    (hact : ∀ u, Kept F u → Kept F (act u)) : Leaves F (imgCmd p code arg refuse act s) :=
  .next (.command0 h hrefuse (fun _ hu => .ite (.postResult (hrefuse _ hu)) (hact _ hu)))

theorem Kept.imgFail {stage item : Nat} (h : Kept F s) : Kept F (imgFail s p stage item) := h.setRg

theorem Kept.execImageLoad {p : PartIx} (h : Kept F s) : Leaves F (execImageLoad p arg s) :=
  h.imgCmd (fun _ hu => hu) (fun _ hu => .ite hu.postResult (.ite hu.postResult hu.sealAlloc.updPart.setImgState.postRunning))

theorem Kept.refuseLoad {handle stage item : Nat} (h : Kept F s) :
    Kept F (refuseLoad s p handle stage item code) := by
  unfold Machine.refuseLoad
  extract_lets s'
  have h' : Kept F s' := h.sealAlloc.updPart
  exact .postDone (.imgFail (.setImgState (.ite h'.count1 h')))

theorem Kept.acceptLoad {hd : Header} {i : Img} (h : Kept F.wide s) : Kept F.wide (acceptLoad s p hd i) :=
  .postDone (.setRg (.setDigest (.foldl (fun _ _ hu => hu.updTile) (.foldl (fun _ _ hu => hu.setDesc) h.updPart))))

theorem Kept.execImageLoadComplete {p : PartIx} (h : Kept F.wide s) : Leaves F.wide (execImageLoadComplete p s) := by
  unfold Machine.execImageLoadComplete
  extract_lets
  split
  · exact .skip h
  · refine .guarded h ?_
    split
    · exact h.refuseLoad
    · extract_lets
      split
      · exact h.refuseLoad
      · exact h.acceptLoad

theorem Kept.execImageUnload {p : PartIx} (h : Kept F s) : Leaves F (execImageUnload p arg s) :=
  h.imgCmd (fun _ hu => hu) (fun _ hu => .ite hu.postResult hu.dropImage.postResult)

theorem Kept.pokeLong {a : Nat} {l : List Byte} (h : Kept F.wide s) : Kept F.wide (pokeLong s a l) := by
  unfold Machine.pokeLong
  extract_lets s'
  have h' : Kept F.wide s' := .foldl (fun _ _ hu => hu.pokeBytes) h
  exact h'.mem (poisonFilter_wf _)

theorem Kept.ctxWrite {a : Alloc} (h : Kept F.wide s) : Kept F.wide (ctxWrite s p a) := h.pokeLong

theorem Kept.execCtxSave {p : PartIx} (h : Kept F.wide s) : Leaves F.wide (execCtxSave p arg s) := by
  unfold Machine.execCtxSave
  extract_lets
  refine h.imgCmd (fun _ hu => hu) (fun _ hu => ?_)
  refine .ite hu.postResult ?_
  refine .ite hu.postResult ?_
  split
  · exact hu.postResult
  · exact .ite hu.postResult hu.ctxWrite.updPart.postRunning

theorem Kept.ctxTileRestore {a t : Nat} (h : Kept F s) : Kept F (ctxTileRestore s a t) := by
  unfold Machine.ctxTileRestore
  extract_lets
  exact h.updTile

theorem ctxTileRestore_sync (s : State) (a t : Nat) : (Machine.ctxTileRestore s a t).sync = s.sync := by
  unfold Machine.ctxTileRestore
  extract_lets nat
  exact updTile_sync s t _

theorem foldl_sync {α : Type} {f : State → α → State} (hf : ∀ s x, (f s x).sync = s.sync) {l : List α} :
    (l.foldl f s).sync = s.sync := by
  induction l generalizing s with
  | nil => rfl
  | cons x l ih => rw [List.foldl_cons, ih, hf]

theorem Kept.ctxApply {c : Ctx} (h : Kept F.wide s) : Kept F.wide (ctxApply s p c) := by
  unfold Machine.ctxApply
  extract_lets ds objs kept s₁ s₂
  have h₁ : Kept F.wide s₁ := .foldl (fun _ _ hu => hu.ctxTileRestore) h
  have hsync : s₁.sync = s.sync := foldl_sync (fun _ _ => ctxTileRestore_sync ..)
  have hkept : smWf (fun _ => ({} : SyncObj)) s.sync = true → smWf (fun _ => ({} : SyncObj)) kept = true := foldl_smDel_wf
  clear_value ds objs kept s₁
  have h₂ : Kept F.wide s₂ := (h₁.descs (smWf_filter _)).sync fun hs => foldl_smSet_wf (hkept (hsync ▸ hs))
  clear_value s₂
  exact .setRgF (.updPart (.foldl (fun _ _ hu => hu.setDesc) h₂))

theorem Kept.execCtxRestore {p : PartIx} (h : Kept F.wide s) : Leaves F.wide (execCtxRestore p arg s) := by
  unfold Machine.execCtxRestore
  extract_lets
  refine h.imgCmd (fun _ hu => hu) (fun _ hu => ?_)
  refine .ite hu.postResult ?_
  refine .ite hu.postResult ?_
  split
  · exact hu.imgFail.postResult
  · exact hu.ctxApply.updPart.postRunning

end

/-! The register file as the host sees it. -/

section
variable {F : Scope} {s : State} {e o p : Nat} {page : PageIx} {lo : Word}

theorem Kept.readWord (h : Kept F s) : Kept F (readWord s p o).2 := by
  unfold Machine.readWord
  extract_lets
  refine .ite_snd h.setPage ?_
  split
  · exact .ite_snd h.setPage h
  · exact h

theorem Kept.readWords {wide : Bool} (h : Kept F s) : Kept F (readWords s p o wide).2 :=
  .ite_snd h.readWord.readWord h.readWord

theorem Kept.execLowerWordRead {acc : RegRead} (h : Kept F s) : Leaves F (execLowerWordRead page acc s) := by
  unfold Machine.execLowerWordRead
  extract_lets _ _ _ s'
  have h' : Kept F s' := h.readWords
  exact .guarded h (.ite h h')

theorem Kept.execUpperWordWrite {off : BitVec 12} {v : Word} (h : Kept F s) :
    Leaves F (execUpperWordWrite page off v s) := .guarded h (.ite h.noteWrite.postControl h.setPage)

theorem Kept.writeChorus {v : Word} (h : Kept F s) : Kept F (writeChorus s o v) :=
  .ite (.ite h.postControl h) (.ite (.ite h.postControl h.setRg) h.setRg)

theorem Kept.showThermal (h : Kept F s) : Kept F (showThermal s) := h.setRgF.setRgF.raiseLevel

theorem Kept.writeReg {v : Word} (h : Kept F s) : Kept F (writeReg s p o v) := by
  unfold Machine.writeReg
  extract_lets
  split
  · exact h.setPage
  · exact h.setPage
  · exact h.setPage
  · exact .ite h (.ite h.writeChorus (.ite h.setRg.showThermal h.setRg))

theorem Kept.rearmRecords {sticky z : Nat → Bool} (h : Kept F s) : Kept F (rearmRecords s p sticky z) := by
  unfold Machine.rearmRecords
  extract_lets _ s₁ s₂ s₃
  have h₁ : Kept F s₁ := .foldl (fun _ _ hu => hu.setRg) h
  have h₂ : Kept F s₂ := by
    unfold s₂
    refine .ite ?_ h
    split
    · exact h₁.updTile
    · exact h₁
  have h₃ : Kept F s₃ := .ite (.foldl (fun _ _ hu => hu.setRg) h₂) h₂
  exact .ite (.ite (.foldl (fun _ _ hu => hu.setRg) h₃) h₃)
    (.ite (.ite (.foldl (fun _ _ hu => hu.setRg) h) h) (.ite h.setRgF (.ite (.foldl (fun _ _ hu => hu.setRg) h) h)))

theorem Kept.fillRecord {ws : List Word} (h : Kept F s) : Kept F (fillRecord s p e ws) := by
  unfold Machine.fillRecord
  split
  · exact h
  · exact .ite h (.foldl (fun _ _ hu => hu.setRg) h)

theorem Kept.reportAgain {owners : List Nat} (h : Kept F s) : Kept F (reportAgain s p e owners) :=
  .ite (.collect h (fun _ _ _ hu => hu.countN)) h

theorem Kept.takeAgain {held : Nat → Bool} {a : Again} (h : Kept F s) : Kept F (takeAgain s p held a) := by
  unfold Machine.takeAgain
  extract_lets _ _ s'
  have h' : Kept F s' := h.fillRecord
  exact .ite h (.ite h'.reportAgain h'.raiseOwned)

theorem Kept.execEvtStickyClear {v : Word} {again : List Again} (h : Kept F s) :
    Leaves F (execEvtStickyClear page v again s) :=
  .guarded h (.foldl (fun _ _ hu => hu.takeAgain) h.noteWrite.setPage.rearmRecords)

theorem Kept.incCounter {i : Nat} {x : Inc} (h : Kept F s) : Kept F (incCounter s p i x) := by
  unfold Machine.incCounter
  refine .ite h.tdcAdd ?_
  refine .ite h.tdcAdd ?_
  refine .ite ?_ h.count1
  split
  · exact h.count1.precFirst
  · exact h.count1

theorem Kept.execCounterClear {v : Word} {inc : List Inc} (h : Kept F s) :
    Leaves F (execCounterClear page v inc s) := by
  unfold Machine.execCounterClear
  extract_lets _ _ s₁ s₂
  have h₁ : Kept F s₁ := h.noteWrite
  have h₂ : Kept F s₂ := h₁.setCnt
  exact .guarded h (.ite h₁ (.foldl (fun _ _ hu => hu.incCounter) (.ite h₁ (.ite h₂.setRg (.ite h₂.setRg.setRg h₂)))))

theorem Kept.execLaunchAtWrite {p : PartIx} {bar2 : Bool} {hi : Option Word} (h : Kept F s) :
    Leaves F (execLaunchAtWrite p bar2 hi lo s) := .guarded h h.noteWrite.launchWrite

theorem Kept.execRngSeedWrite {site : SiteIx} {hi : Option Word} (h : Kept F s) :
    Leaves F (execRngSeedWrite site hi lo s) := by
  unfold Machine.execRngSeedWrite
  extract_lets _ _ s'
  have h' : Kept F s' := h.noteWrite
  refine .guarded h ?_
  split
  · exact h'
  · exact .ite h'.updPart h'.updPart

theorem Kept.execSkinkFirstClear {site : SiteIx} {v : Word} (h : Kept F s) :
    Leaves F (execSkinkFirstClear site v s) := by
  unfold Machine.execSkinkFirstClear
  extract_lets _ s₁ s₂
  have h₁ : Kept F s₁ := h.noteWrite
  have h₂ : Kept F s₂ := h₁.setRg.setRg
  refine .guarded h ?_
  refine .ite h₁ ?_
  split
  · exact h₂.updTile
  · exact h₂

theorem Kept.freeWords {n : Nat} (h : Kept F s) : Kept F (freeWords n s).2 := by
  induction n generalizing s with
  | zero => exact h
  | succ n ih => exact ih (s := (Machine.choose s (2 ^ 32)).2) h.choose

theorem Kept.injectEvent (h : Kept F s) : Kept F (injectEvent s p e) := by
  unfold Machine.injectEvent
  dsimp -zeta only
  exact h.freeWords.choose.fillRecord.raiseOwned

theorem Kept.execFaultInjectArm {v : Word} (h : Kept F s) : Leaves F (execFaultInjectArm v s) := by
  unfold Machine.execFaultInjectArm
  extract_lets _ _ _ _ s₁ _ s₂ _ s₃
  have h₁ : Kept F s₁ := h.noteWrite
  have h₂ : Kept F s₂ := h₁.setRg
  have h₃ : Kept F s₃ := h₂
  exact .guarded h (.ite h₁ (.ite (.foldl (fun _ _ hu => hu.injectEvent) h₃) h₃))

theorem Kept.execModeReqWrite {v : Word} (h : Kept F s) : Leaves F (execModeReqWrite v s) := by
  unfold Machine.execModeReqWrite
  extract_lets _ s'
  have h' : Kept F s' := h.noteWrite.setRgF
  exact .guarded h (.ite h' h'.setRgF)

theorem Kept.after {o : Host.Outcome State Fault Refusal} (ho : Leaves F o) :
    Kept F (after s o) := by
  obtain ⟨t, rfl, ht⟩ := ho
  exact ht

theorem Kept.writeWord {v : Word} (h : Kept F s) : Kept F (writeWord s p o v) := by
  unfold Machine.writeWord
  extract_lets _ _ upper s'
  have h' : Kept F s' := h.noteWrite
  refine .ite (.after (Kept.execPwrReq (.after (Kept.execSelftest (.after (Kept.execQuiesce (.after h.execEnable))))))) ?_
  refine .ite h ?_
  refine .ite (.after h.execEvtStickyClear) ?_
  refine .ite (.after h.execCounterClear) ?_
  refine .ite (.after h.execUpperWordWrite) ?_
  refine .ite (.after h.execArrayRepairWrite) ?_
  refine .ite (.after h.execSkinkFirstClear) ?_
  refine .ite (.after h.execRngSeedWrite) ?_
  refine .ite (.after h.execLaunchAtWrite) ?_
  refine .ite (.after h.execFaultInjectArm) ?_
  refine .ite (.after h.execSiteMapStageWrite) ?_
  refine .ite (.after h.execModeReqWrite) ?_
  refine .ite ?_ h
  clear_value upper
  split
  · exact h'.writeReg.writeReg
  · exact h'.writeReg

theorem Kept.writeWide {hi : Word} (h : Kept F s) : Kept F (writeWide s p o lo hi) :=
  .ite h.writeWord.writeWord (.ite (.after h.execRngSeedWrite)
    (.ite (.after h.execLaunchAtWrite) (.ite h.noteWrite.writeReg.writeReg h)))

theorem Kept.execRegisterWrite {off : BitVec 12} {v : RegData} (h : Kept F s) :
    Leaves F (execRegisterWrite page off v s) := by
  unfold Machine.execRegisterWrite
  extract_lets
  split
  · exact .guarded h h.writeWord
  · exact .guarded h h.writeWide

end

/-! The host interface. -/

section
variable {F : Scope} {s : State} {a done hint p : Nat} {arg : Arg}

theorem Kept.holdLine (h : Kept F s) : Kept F (holdLine s a) := by
  unfold Machine.holdLine
  refine .ite h ?_
  extract_lets s'
  have h' : Kept F s' := .ite h.snoop h
  exact h'

theorem Kept.holdLines {on : Bool} {l : List Nat} (h : Kept F s) : Kept F (holdLines s on l) :=
  .ite (.foldl (fun _ _ hu => hu.holdLine) h) h

theorem Kept.hostLineRead {err : List (BitVec 7 × Byte)} (h : Kept F.wide s) : Kept F.wide (hostLineRead s a err).2.2 :=
  h.count1.readLine

theorem Kept.hostReads {l : List (Nat × List (BitVec 7 × Byte))} (h : Kept F.wide s) : Kept F.wide (hostReads l s).2.2 := by
  induction l generalizing s with
  | nil => exact h
  | cons x l ih => exact ih h.hostLineRead

theorem Kept.execHostMemRead {decoder : BitVec 1} {offset : BitVec 52} {hold : Bool} {err1 err2 : List (BitVec 7 × Byte)}
    (h : Kept F.wide s) (hin : hdmInside s decoder offset.toNat = true) :
    Leaves F.wide (execHostMemRead decoder offset hold err1 err2 s) := by
  unfold Machine.execHostMemRead
  rw [hin]
  extract_lets _ _ _ s₁ s₂
  have h₁ : Kept F.wide s₁ := h.hostReads
  have h₂ : Kept F.wide s₂ := h₁
  exact .guarded h (.holdLines (.ite h₂.raiseOpen h₂))

theorem Kept.dropWrite (h : Kept F s) : Kept F (dropWrite s) := h.count1.raiseOpen

theorem Kept.hostLineWrite {bs : List (Option Byte)} (h : Kept F.wide s) : Kept F.wide (hostLineWrite s a bs) := by
  unfold Machine.hostLineWrite
  extract_lets _ read
  have hread : Kept F.wide read.2 := by
    unfold read
    split
    · exact h
    · exact h.readLine
  split
  · exact h.count1.raiseOpen.dropWrite
  · exact .ite h.dropWrite (.ite hread.count1.dropWrite hread.count1.count1.writeLine)

theorem Kept.execHostMemWrite {decoder : BitVec 1} {offset : BitVec 52} {data : BitVec 512} {be : BitVec 64} {hold : Bool}
    (h : Kept F.wide s) (hin : hdmInside s decoder offset.toNat = true) :
    Leaves F.wide (execHostMemWrite decoder offset data be hold s) := by
  unfold Machine.execHostMemWrite
  rw [hin]
  exact .guarded h (.holdLines (.foldl (fun _ _ hu => hu.hostLineWrite) h))

theorem Kept.snoopDone (h : Kept F s) : Kept F (snoopDone s a) := h

theorem Kept.copyIndex {d : BitVec 1024} {vs : List (List Nat)} (h : Kept F.wide s) : Kept F.wide (copyIndex s p d vs).2 :=
  h.readLines

theorem Kept.copyCheckLine {src : Nat} {a : BitVec 1024} {l : Int} {d : List Byte} (h : Kept F s) :
    Kept F (copyCheckLine s p src a l d) := by
  unfold Machine.copyCheckLine
  split
  · exact h.count1
  · exact .traise h
  · exact h

theorem Kept.copySources {src : Nat} {a : BitVec 1024} {streams : Bool} {l : List Int} (h : Kept F.wide s) :
    Kept F.wide (copySources s p src a streams l).1 := by
  induction l generalizing s with
  | nil => exact h
  | cons k l ih => exact ih h.devRead.copyCheckLine.devSpan

theorem Kept.copyOld {b : BitVec 1024} {ks : List Int} (h : Kept F.wide s) : Kept F.wide (copyOld s p hint b ks).1 :=
  .foldl_fst (fun _ _ hu => hu.devRead) h

theorem Kept.copyWrites {e : List Byte} {a b : BitVec 1024} (h : Kept F.wide s) : Kept F.wide (copyWrites s p e a b).1 := by
  unfold Machine.copyWrites
  dsimp -zeta only
  have hread : ∀ {k l x y z}, Kept F.wide
    (Machine.copySources (Machine.copyIndex (Machine.copyIndex s p b k).2 p a l).2 p x a y z).1 :=
    h.copyIndex.copyIndex.copySources
  exact .ite_fst hread (.ite_fst (.looseEvent (.anyTile (.ite_fst hread.copyOld hread))) (.ite_fst hread.copyOld hread))

theorem Kept.makeWrite {w : LineWrite} (h : Kept F.wide s) : Kept F.wide (makeWrite s p hint w) := h.devMerge

theorem Kept.makeWrites {ws : List LineWrite} (h : Kept F.wide s) : Kept F.wide (makeWrites s p hint ws) :=
  .foldl (fun _ _ hu => hu.makeWrite) h

theorem Kept.queueFail {check code : Nat} (h : Kept F s) : Kept F (queueFail s p check code) :=
  h.setRg.raiseOpen.sendMsix

theorem Kept.queueExec {e : List Byte} {ws : List LineWrite} (h : Kept F.wide s) : Kept F.wide (queueExec s p e done ws) :=
  h.updPart.makeWrites

theorem Kept.execCopyEntry {p : PartIx} {entry : BitVec 512} (h : Kept F.wide s) :
    Leaves F.wide (execCopyEntry p entry done s) := by
  unfold Machine.execCopyEntry
  extract_lets _ _ s'
  have h' : Kept F.wide s' := h.count1
  refine .guarded h ?_
  split
  · exact h'.queueFail
  · exact h'.copyWrites.queueExec

theorem Kept.execFetchEntry {p : PartIx} {entry : BitVec 512} {lines : List (BitVec 576)} (h : Kept F.wide s) :
    Leaves F.wide (execFetchEntry p entry lines done s) := by
  unfold Machine.execFetchEntry
  extract_lets _ _ s'
  have h' : Kept F.wide s' := h.count1
  refine .guarded h ?_
  split
  · exact h'.queueFail
  · exact h'.countBy.queueExec

theorem Kept.execCopyEntryComplete {p : PartIx} (h : Kept F.wide s) : Leaves F.wide (execCopyEntryComplete p s) := by
  unfold Machine.execCopyEntryComplete
  extract_lets
  split
  · exact .skip h
  · extract_lets _ _ _ s'
    have h' : Kept F.wide s' := h.makeWrites.updPart.setRg.count1
    exact .next (.ite h'.sendMsix h')

theorem Kept.execCqReset (h : Kept F s) : Leaves F (execCqReset arg s) :=
  .next (.command h (fun _ hu => hu) (fun _ hu => .ite hu.postResult (.ite hu.postResult hu.setRg.setRg.setRgF.postResult)))

theorem Kept.execDbCopyTail {p : PartIx} {v : Word} (h : Kept F s) : Leaves F (execDbCopyTail p v s) := by
  unfold Machine.execDbCopyTail
  extract_lets _ _ _ s'
  have h' : Kept F s' := by
    unfold s'
    split
    · exact .ite h.setPage h
    · exact h
  exact .guarded h (.ite h'.raiseOpen h'.setRg)

theorem Kept.execNbArm (h : Kept F s) : Leaves F (execNbArm arg s) := by
  unfold Machine.execNbArm
  extract_lets
  refine .next ?_
  refine .command h (fun _ hu => hu) (fun _ hu => ?_)
  extract_lets _ _ _ _ s'
  have h' : Kept F s' := .setArmed hu
  exact .ite hu.postResult (.postResult (.ite h'.fireBinding h'))

theorem Kept.execNbDisarm (h : Kept F s) : Leaves F (execNbDisarm arg s) :=
  .next (.command h (fun _ hu => hu) (fun _ hu => .ite hu.postResult (.postResult (.setArmed hu))))

theorem Kept.execHostLinkUp {rate width : BitVec 2} {below : Bool} (h : Kept F s) :
    Leaves F (execHostLinkUp rate width below s) := by
  unfold Machine.execHostLinkUp
  extract_lets _ s'
  have h' : Kept F s' := h
  exact .next (.ite h'.raiseLevel h'.setRgF.setRgF.setRgF.setReady.raiseLevel)

theorem Kept.linkLoss (h : Kept F s) : Kept F (linkLoss s) := h.stopQueue.stopQueue.stopQueue.stopQueue.raiseOpen

end

/-! Supplies, firmware, test mode, JTAG, power and heat. -/

section
variable {F : Scope} {s : State}

theorem Kept.coldState {b : Boot} (h : Kept F.wide s) : Kept F.wide (coldState s b) := by
  refine h.rewrite rfl fun _ => (canon_iff _).mpr ?_
  exact ⟨memBlank_wf _ _ _ rfl, rfl, rfl, rfl, rfl, rfl, rfl, rfl, rfl, rfl, rfl, rfl, rfl⟩

theorem Kept.execBootRomDone {puf : BitVec 2} (h : Kept F s) : Leaves F (execBootRomDone puf s) := by
  unfold Machine.execBootRomDone
  extract_lets _ _ _ _ s'
  have h' : Kept F s' := h.setRg.setRg64.setRgF.setRgF.setReady.setReady
  exact .guarded h (.ite h' h'.goOos.raise)

theorem Kept.doeResp {code : Nat} {data : List Byte} (h : Kept F s) : Kept F (doeResp s code data) := h
theorem Kept.endStatus {stage code : Nat} (h : Kept F s) : Kept F (endStatus s stage code) := h.setRgF.setRgF.setRgF

theorem Kept.setFwDigest {d : List Byte} (h : Kept F s) : Kept F (setFwDigest s d) :=
  .foldl (fun _ _ hu => hu.setRg) h

theorem Kept.execFwEnd (h : Kept F s) : Leaves F (execFwEnd s) := by
  unfold Machine.execFwEnd
  refine .guarded h ?_
  split
  · exact h.doeResp
  · extract_lets _ _ s'
    have h' : Kept F s' := h
    exact .ite h'.endStatus.doeResp (.doeResp (.setRgF (.setFwDigest (.setRg (.setRg (.endStatus h'))))))

theorem Kept.fresh32 (h : Kept F s) : Kept F (fresh32 s).2 := h

theorem Kept.execTestUnlock {sig : BitVec 512} (h : Kept F s) : Leaves F (execTestUnlock sig s) := by
  unfold Machine.execTestUnlock
  refine .guarded h ?_
  split
  · exact h.doeResp
  · refine .ite h.doeResp ?_
    extract_lets _ s'
    have h' : Kept F s' := h
    exact .ite (.doeResp h') h'.doeResp

theorem Kept.jtagSelect {i : Nat} {data : List Byte} (h : Kept F s) : Kept F (jtagSelect s i data) := h
theorem Kept.jtagPins {i : Nat} (h : Kept F s) : Kept F (jtagPins s i) := h.jtagSelect
theorem Kept.updPower {f : Power → Power} (h : Kept F s) : Kept F (updPower s f) := h

theorem Kept.execModeApply {arg : Arg} (h : Kept F s) : Leaves F (execModeApply arg s) :=
  .next (.command0 h (fun _ hu => hu)
    (fun _ hu => .ite hu.postResult (.ite hu.postResult (.ite hu.postResult hu.updPower.postRunning))))

theorem Kept.execPllUnlock (h : Kept F.wide s) : Leaves F.wide (execPllUnlock s) := by
  unfold Machine.execPllUnlock
  refine .guarded h ?_
  extract_lets s'
  have h' : Kept F.wide s' := h.raiseOpen
  exact .ite (.setRgF (.loseMemory h')) h'

theorem Kept.noteCalm {violated : Bool} (h : Kept F s) : Kept F (noteCalm s violated) := h.updPower
theorem Kept.powerViol (h : Kept F s) : Kept F (powerViol s) := h.setRgF.updPower

theorem Kept.execPowerSample {power : BitVec 16} {vcore current : BitVec 12} (h : Kept F s) :
    Leaves F (execPowerSample power vcore current s) := by
  unfold Machine.execPowerSample
  refine .guarded h ?_
  extract_lets _ _ s₁ s₂
  have h₁ : Kept F s₁ := h.updPower.setRg
  have h₂ : Kept F s₂ := .ite h₁ h₁.countBy
  exact .noteCalm (.ite h₂.raiseOpen.setRgF.updPower h₂)

theorem Kept.openQuot {a b : Nat} (h : Kept F s) : Kept F (openQuot s a b).2 := h

theorem Kept.execPowerAverage100us (h : Kept F s) : Leaves F (execPowerAverage100us s) := by
  unfold Machine.execPowerAverage100us
  extract_lets
  refine .guarded h ?_
  dsimp -zeta only
  extract_lets _ _ s₁ s₂ _ s₃
  have h₁ : Kept F s₁ := h.updPower.openQuot.setRgF.openQuot.openQuot.setRg
  have h₂ : Kept F s₂ := .ite h₁.count1 h₁
  have h₃ : Kept F s₃ := .ite h₂.raiseOpen h₂
  exact .noteCalm (.ite h₃.powerViol h₃)

theorem Kept.execPowerAverage1ms (h : Kept F s) : Leaves F (execPowerAverage1ms s) := by
  unfold Machine.execPowerAverage1ms
  extract_lets
  refine .guarded h ?_
  dsimp -zeta only
  extract_lets s₁ s₂
  have h₁ : Kept F s₁ := h.updPower.openQuot.setRgF
  have h₂ : Kept F s₂ := .ite h₁ h₁.openQuot.setRgF
  exact .noteCalm (.ite h₂.powerViol h₂)

theorem Kept.takeReading {r : Reading} (h : Kept F s) : Kept F (takeReading s r) := by
  unfold Machine.takeReading
  extract_lets _ _ s'
  have h' : Kept F s' := h.updPower
  exact .ite h'.raiseOpen h'

theorem Kept.execSensorSample {readings : List Reading} (h : Kept F s) :
    Leaves F (execSensorSample readings s) := by
  unfold Machine.execSensorSample
  refine .guarded h ?_
  extract_lets _ _ _ _ s'
  have h' : Kept F s' := .setRgF (.setRgF (.setRg (.foldl (fun _ _ hu => hu.takeReading) h)))
  exact .noteCalm (.showThermal (.raiseLevel (.ite h'.count1 h')))

theorem Kept.setDivider {d mode : Nat} (h : Kept F s) : Kept F (setDivider s d mode) :=
  .foldl (fun _ _ hu => .ite hu.updRun hu) h.setRgF.setRgF

theorem Kept.stretched (h : Kept F s) : Kept F (stretched s) := by
  unfold Machine.stretched
  extract_lets _ _ _ s₁ s₂
  have h₁ : Kept F s₁ := .raiseOpen (.count1 (.foldl (fun _ _ hu => .ite hu.tdcAdd hu) h))
  have h₂ : Kept F s₂ := .ite h₁.count1 h₁
  exact .raiseLevel (.updPower (.ite h₂.count1 h₂))

theorem Kept.released (h : Kept F s) : Kept F (released s) := h.setRgF.setRgF.updPower.raiseLevel

theorem Kept.modeChanged {m : Nat} (h : Kept F s) : Kept F (modeChanged s m) :=
  h.setRgF.setRgF.updPower.count1.raiseLevel.postDone

theorem Kept.execDividerSwitch (h : Kept F s) : Leaves F (execDividerSwitch s) := by
  unfold Machine.execDividerSwitch
  split
  · exact .skip h
  · extract_lets _ s'
    have h' : Kept F s' := h.updPower.setDivider
    refine .guarded h ?_
    split
    · exact h'.modeChanged
    · exact .ite h'.stretched h'.released

theorem Kept.execSmbusBlockRead {k : Byte} (h : Kept F s) : Leaves F (execSmbusBlockRead k s) := by
  unfold Machine.execSmbusBlockRead
  refine .guarded h ?_
  split
  · exact h
  · exact h

end

/-! Identity, attestation and link encryption. -/

section
variable {F : Scope} {s : State} {arg : Arg} {act : State → State} {session : Word}

theorem Kept.spdmResp {data : List Byte} (h : Kept F s) : Kept F (spdmResp s data) := h
theorem Kept.spdmErr {code : Nat} (h : Kept F s) : Kept F (spdmErr s code) := .count1 h
theorem Kept.updSec {f : Sec → Sec} (h : Kept F s) : Kept F (updSec s f) := h

theorem Kept.spdmReq (h : Kept F s) (hact : ∀ u, Kept F u → Kept F (act u)) : Leaves F (spdmReq act s) := by
  unfold Machine.spdmReq
  refine .guarded h ?_
  extract_lets s'
  have h' : Kept F s' := h.count1
  exact .ite h'.spdmErr (hact _ h')

theorem Kept.spdmNeg (h : Kept F s) (hact : ∀ u, Kept F u → Kept F (act u)) : Leaves F (spdmNeg act s) :=
  h.spdmReq (fun _ hu => .ite hu.spdmErr (hact _ hu))

theorem Kept.needTrng (h : Kept F s) (hact : ∀ u, Kept F u → Kept F (act u)) : Kept F (needTrng s act) :=
  .ite (hact _ h) h.spdmErr

theorem Kept.signature (h : Kept F s) : Kept F (signature s).2 := h

theorem Kept.execSpdmGetVersion (h : Kept F s) : Leaves F (execSpdmGetVersion s) :=
  h.spdmReq (fun _ hu => hu.updSec.spdmResp)

theorem Kept.execSpdmGetCapabilities (h : Kept F s) : Leaves F (execSpdmGetCapabilities s) :=
  h.spdmReq (fun _ hu => .ite hu.spdmErr hu.updSec.spdmResp)

theorem Kept.execSpdmNegotiateAlgorithms (h : Kept F s) : Leaves F (execSpdmNegotiateAlgorithms s) :=
  h.spdmReq (fun _ hu => .ite hu.spdmErr hu.updSec.spdmResp)

theorem Kept.execSpdmGetDigests (h : Kept F s) : Leaves F (execSpdmGetDigests s) :=
  h.spdmNeg (fun _ hu => hu.spdmResp)

theorem Kept.execSpdmGetCertificate {slot : BitVec 4} {off len : BitVec 16} (h : Kept F s) :
    Leaves F (execSpdmGetCertificate slot off len s) := h.spdmNeg (fun _ hu => .ite hu.spdmErr hu.spdmResp)

theorem Kept.execSpdmChallenge {slot : BitVec 4} (h : Kept F s) : Leaves F (execSpdmChallenge slot s) :=
  h.spdmNeg (fun _ hu => .ite hu.spdmErr (.needTrng hu (fun _ hv => hv.fresh32.signature.spdmResp)))

theorem Kept.execSpdmGetMeasurements {index : Byte} {sign : Bool} (h : Kept F s) :
    Leaves F (execSpdmGetMeasurements index sign s) :=
  h.spdmNeg (fun _ hu => .ite hu.spdmErr (.ite hu.spdmResp (.needTrng hu (fun _ hv => hv.fresh32.signature.spdmResp.count1))))

theorem Kept.showSessions (h : Kept F s) : Kept F (showSessions s) := h.setRgF

theorem Kept.execSpdmKeyExchange (h : Kept F s) : Leaves F (execSpdmKeyExchange session s) :=
  h.spdmNeg (fun _ hu => .ite hu.spdmErr (.ite hu.spdmErr (.needTrng hu (fun _ hv => hv.fresh32.signature.updSec.spdmResp))))

theorem Kept.execSpdmFinish (h : Kept F s) : Leaves F (execSpdmFinish session s) :=
  h.spdmNeg (fun _ hu => .ite hu.spdmErr hu.updSec.showSessions.spdmResp)

theorem Kept.inSession {n : Nat} (h : Kept F s) (hact : ∀ u, Kept F u → Kept F (act u)) :
    Leaves F (inSession n act s) := h.spdmNeg (fun _ hu => .ite hu.spdmErr (hact _ hu))

theorem Kept.execSpdmEndSession (h : Kept F s) : Leaves F (execSpdmEndSession session s) :=
  h.inSession (fun _ hu => hu.updSec.showSessions.spdmResp)

theorem Kept.execSpdmHeartbeat (h : Kept F s) : Leaves F (execSpdmHeartbeat session s) :=
  h.inSession (fun _ hu => hu.spdmResp)

theorem Kept.execSpdmKeyUpdate (h : Kept F s) : Leaves F (execSpdmKeyUpdate session s) :=
  h.inSession (fun _ hu => hu.updSec.spdmResp)

theorem Kept.execIdeKeyProgram {stream dir set : BitVec 1} {key : BitVec 256} (h : Kept F s) :
    Leaves F (execIdeKeyProgram session stream dir set key s) := by
  unfold Machine.execIdeKeyProgram
  refine h.inSession (fun _ hu => ?_)
  extract_lets s'
  have h' : Kept F s' := hu.updSec
  exact .spdmResp (.ite h'.setRgF h')

theorem Kept.setKeyHash {d : List Byte} (h : Kept F s) : Kept F (setKeyHash s d) := .foldl (fun _ _ hu => hu.setRg) h

theorem Kept.execKeyEnable (h : Kept F s) : Leaves F (execKeyEnable arg s) :=
  .next (.command0 h (fun _ hu => hu) (fun _ hu => .ite hu.postResult (.ite hu.postResult hu.setKeyHash.setRgF.postResult)))

theorem Kept.execKeyDisable (h : Kept F s) : Leaves F (execKeyDisable arg s) :=
  .next (.command0 h (fun _ hu => hu) (fun _ hu => .ite hu.postResult (.ite hu.postResult hu.setKeyHash.setRgF.postResult)))

theorem Kept.execKeyLock (h : Kept F s) : Leaves F (execKeyLock arg s) :=
  .next (.command0 h (fun _ hu => hu) (fun _ hu => hu.setRgF.postResult))

end

/-! Recovery, and the tick of the counter clock. -/

section
variable {F : Scope} {s : State}

theorem Kept.execWarmReset {arg : Arg} (h : Kept F s) : Leaves F (execWarmReset arg s) :=
  .next (.command0 h (fun _ hu => hu) (fun _ hu => hu.count1.count1.warmBegin.postResult))

theorem Kept.execPartReset {arg : Arg} (h : Kept F s) : Leaves F (execPartReset arg s) :=
  .next (.command h (fun _ hu => hu) (fun _ hu => .ite hu.postResult (.ite hu.postResult hu.partitionReset.count1.postResult)))

theorem Kept.readyAgain (h : Kept F s) : Kept F (readyAgain s) := .foldl (fun _ _ hu => hu.setReady) h

theorem Kept.flushCache (h : Kept F.wide s) : Kept F.wide (flushCache s) := by
  unfold Machine.flushCache
  extract_lets s'
  have h' : Kept F.wide s' := h.writeBacks
  exact h'.cache fun _ => smWf_nil _

theorem Kept.execWarmResetComplete {same : Bool} (h : Kept F.wide s) : Leaves F.wide (execWarmResetComplete same s) := by
  unfold Machine.execWarmResetComplete
  refine .guarded h ?_
  refine .ite h.setRgF.setRgF ?_
  extract_lets s₁ _ s₂ _ _ s₃
  have h₁ : Kept F.wide s₁ := h.flushCache
  have h₂ : Kept F.wide s₂ := .setRgF (.readyAgain (.ite h₁.loseMemory h₁))
  have h₃ : Kept F.wide s₃ := h₂
  exact .ite h₃.goOos h₃

theorem Kept.execDupVerdict_tcountSite {x : Nat} (h : Kept F s) : Kept F (execDupVerdict.tcountSite s x) := h.count1

theorem Kept.execDupVerdict {site : SiteIx} {sound : Bool} (h : Kept F s) :
    Leaves F (execDupVerdict site sound s) := by
  unfold Machine.execDupVerdict
  extract_lets _ _ s'
  have h' : Kept F s' := h
  split
  · exact .skip h
  · exact .next (.answerCheck (.ite (.count1 (.ite_snd h'.fiTake h'))
    (.raise (.charge (.execDupVerdict_tcountSite
    (.count1 (.chargeTile (.ite (.setRg (.setRg (.ite_snd h'.fiTake h'))) (.ite_snd h'.fiTake h')))))))))

theorem Kept.execRotSelftestStart {q : BitVec 2} (h : Kept F s) : Leaves F (execRotSelftestStart q s) := by
  unfold Machine.execRotSelftestStart
  extract_lets
  split
  · exact .skip h
  · exact .guarded h (.setRgF h)

theorem Kept.execRotSelftestDone {q : BitVec 2} {ok : Bool} {faults : List (BitVec 7 × BitVec 7)} (h : Kept F s) :
    Leaves F (execRotSelftestDone q ok faults s) := by
  unfold Machine.execRotSelftestDone
  extract_lets _ _ _ s'
  have h' : Kept F s' := .setRgF h
  split
  · exact .skip h
  · have htest : ∀ {x}, Kept F (Machine.testDone s' (0x100 + x) ok faults).2 :=
      h'.testDone_of_slice fun hp => by simp [isSlicePage] at hp; omega
    exact .next (.ite htest.count1 htest)

theorem Kept.countDerated {l : List Nat} (h : Kept F s) : Kept F (countDerated l s) := by
  induction l generalizing s with
  | nil => exact h
  | cons k l ih => exact ih (.ite h.count1 h)

theorem Kept.countMs (h : Kept F s) : Kept F (countMs s) := by
  unfold Machine.countMs
  refine .ite ?_ h
  extract_lets s'
  have h' : Kept F s' := .ite h h.count1
  exact .ite h'.count1 h'

theorem Kept.holdLull (h : Kept F s) : Kept F (holdLull s) := .ite h h
theorem Kept.counterTick (h : Kept F.timed s) : Kept F.timed (counterTick s) := .countMs (.holdLull h.gcnt)
theorem Kept.fclkCycle (h : Kept F s) : Kept F (fclkCycle s) := .ite (.countDerated h) h
theorem Kept.tick (h : Kept F.timed s) : Kept F.timed (tick s) := .ite h h.counterTick.fclkCycle

end

/-! Conversions and reductions. -/

section
variable {F : Scope} {s : State} {acy : Nat} {t : TileIx}

theorem Kept.cvtAct {t : Nat} {e : BitVec 128} (h : Kept F s) : Kept F (cvtAct t acy e s) := by
  unfold Machine.cvtAct
  extract_lets _ _ _ _ _ _ _ _ _ _ _ s'
  have h' : Kept F s' := h.setTile.skinkEvents
  exact .foldl (fun _ _ hu => .ite hu.arithEvent hu) (.ite h'.tcount h')

theorem Kept.execCvt (h : Kept F s) : Leaves F (execCvt t acy s) := h.skinkIssue (fun _ _ _ hu => hu.cvtAct)

theorem Kept.execPack (h : Kept F s) : Leaves F (execPack t acy s) := by
  unfold Machine.execPack
  extract_lets
  refine h.skinkIssue (fun _ _ _ hu => ?_)
  extract_lets
  split
  · exact hu
  · dsimp -zeta only
    extract_lets s₁ s₂
    have h₁ : Kept F s₁ := hu.setTile.countConv
    have h₂ : Kept F s₂ := .ite h₁.tcount h₁
    exact .ite h₂ h₂.traise

theorem Kept.execUnpack (h : Kept F s) : Leaves F (execUnpack t acy s) := by
  unfold Machine.execUnpack
  extract_lets
  refine h.skinkIssue (fun _ _ _ hu => ?_)
  extract_lets
  split
  · exact hu
  · extract_lets _ _ _ _ s'
    have h' : Kept F s' := hu.setTile.skinkEvents
    exact .ite h'.traise h'

theorem Kept.redStep {opcode : Nat} {f : Nat → Option RChain → List RLane → RChain × KEv} {out : Nat → RChain → Nat × KEv}
    (h : Kept F s) : Leaves F (redStep t acy opcode f out s) := by
  unfold Machine.redStep
  exact h.skinkIssue (fun _ _ _ hu => .ite hu.setTile.skinkEvents hu.setTile.skinkEvents)

end

/-! The dispatcher and the step. -/

section
variable {F : Scope} {s : State}

/-- A command that does not reach memory leaves a next state, with what memory shows as it was. -/
theorem Kept.execQuiet {c : Instr} (hc : reachesMemory c = false) (h : Kept F.timed s) : Leaves F.timed (exec c s) := by
  unfold Machine.exec
  cases c with
  | nop => exact h.execNop
  | undefinedCommand => exact h.execUndefinedCommand
  | siteMapApply => exact h.execSiteMapApply
  | partSet => exact h.execPartSet
  | modeApply => exact h.execModeApply
  | descDestroy => exact h.execDescDestroy
  | descRead => exact h.execDescRead
  | imageLoad => exact h.execImageLoad
  | imageUnload => exact h.execImageUnload
  | allocQuery => exact h.execAllocQuery
  | remapAdd => exact h.execRemapAdd
  | remapRead => exact h.execRemapRead
  | sliceClean => exact h.execSliceClean
  | linkTrain => exact h.execLinkTrain
  | linkDisable => exact h.execLinkDisable
  | timeAlign => exact h.execTimeAlign
  | chorusStart => exact h.execChorusStart
  | chorusStop => exact h.execChorusStop
  | chorusAbort => exact h.execChorusAbort
  | hostSyncAdd | hostSyncSet | hostSyncClear | hostSyncWaitGe | hostSyncWaitSet
  | hostSyncWaitClear | fetchAdd | acquire | hostSyncWrite | hostSyncRead => exact h.hostSync
  | cqReset => exact h.execCqReset
  | nbArm => exact h.execNbArm
  | nbDisarm => exact h.execNbDisarm
  | warmReset => exact h.execWarmReset
  | partReset => exact h.execPartReset
  | keyEnable => exact h.execKeyEnable
  | keyDisable => exact h.execKeyDisable
  | keyLock => exact h.execKeyLock
  | enable => exact h.execEnable
  | quiesce => exact h.execQuiesce
  | quiesceIdle => exact .guarded h h.setBlk
  | selftest => exact h.execSelftest
  | pwrReq => exact h.execPwrReq
  | powerDomainOn => exact h.execPowerDomainOn
  | evtStickyClear => exact h.execEvtStickyClear
  | counterClear => exact h.execCounterClear
  | lowerWordRead => exact h.execLowerWordRead
  | upperWordWrite => exact h.execUpperWordWrite
  | partialRegisterWrite => exact .guarded h h.raiseOpen
  | registerWrite => exact h.execRegisterWrite
  | launchAtWrite => exact h.execLaunchAtWrite
  | dbCopyTail => exact h.execDbCopyTail
  | rngSeedWrite => exact h.execRngSeedWrite
  | skinkFirstClear => exact h.execSkinkFirstClear
  | faultInjectArm => exact h.execFaultInjectArm
  | siteMapStageWrite => exact h.execSiteMapStageWrite
  | arrayRepairWrite => exact h.execArrayRepairWrite
  | modeReqWrite => exact h.execModeReqWrite
  | syncObjectDefine => exact h.execSyncObjectDefine
  | bisnpResponse => exact .guarded h h.snoopDone
  | bisnpTimeout => exact .guarded h h.snoopDone.raiseOpen
  | fwBegin => exact .guarded h (.ite h.doeResp (.ite h.doeResp (.ite h.doeResp (.ite h.doeResp (.doeResp (.setRgF h))))))
  | fwData => exact .guarded h (.ite h.doeResp (.doeResp h))
  | fwEnd => exact h.execFwEnd
  | testChallenge => exact .guarded h (.ite h.doeResp (.ite h.doeResp (.ite h.doeResp (.doeResp h.fresh32))))
  | testUnlock => exact h.execTestUnlock
  | spdmGetVersion => exact h.execSpdmGetVersion
  | spdmGetCapabilities => exact h.execSpdmGetCapabilities
  | spdmNegotiateAlgorithms => exact h.execSpdmNegotiateAlgorithms
  | spdmGetDigests => exact h.execSpdmGetDigests
  | spdmGetCertificate => exact h.execSpdmGetCertificate
  | spdmChallenge => exact h.execSpdmChallenge
  | spdmGetMeasurements => exact h.execSpdmGetMeasurements
  | spdmKeyExchange => exact h.execSpdmKeyExchange
  | spdmFinish => exact h.execSpdmFinish
  | spdmEndSession => exact h.execSpdmEndSession
  | spdmHeartbeat => exact h.execSpdmHeartbeat
  | spdmKeyUpdate => exact h.execSpdmKeyUpdate
  | ideKeyProgram => exact h.execIdeKeyProgram
  | ideIntegrityFail => exact .guarded h h.setRgF.updSec.linkLoss
  | smbusBlockRead => exact h.execSmbusBlockRead
  | jtagBypass | jtagIdcode | jtagSamplePreload => exact .next h.jtagSelect
  | jtagExtest | jtagClamp | jtagHighz => exact .next h.jtagPins
  | supplyGlitch => exact .guarded h h.count1
  | bootRomDone => exact h.execBootRomDone
  | hostLinkUp => exact h.execHostLinkUp
  | hostLinkDown => exact .guarded h h.setRgF.raiseLevel.linkLoss
  | sensorSample => exact h.execSensorSample
  | powerSample => exact h.execPowerSample
  | powerAverage100us => exact h.execPowerAverage100us
  | powerAverage1ms => exact h.execPowerAverage1ms
  | stretchStep | stretchRelease => exact .guarded h h.updPower
  | dividerSwitch => exact h.execDividerSwitch
  | stackTemperatureReport => exact .next h.setCtrl.raiseLevel.raiseLevel
  | launchStart => exact h.execLaunchStart
  | segmentStart => exact h.execSegmentStart
  | feed => exact h.execFeed
  | feedPresent => exact h.execFeedPresent
  | kpass => exact h.execKpass
  | arrayStep => exact h.execArrayStep
  | outlierStep => exact h.execOutlierStep
  | arraySwap => exact h.execArraySwap
  | drainRowEnter => exact h.execDrainRowEnter
  | drainRowWrite => exact h.execDrainRowWrite
  | checksumVerdict => exact h.execChecksumVerdict
  | statsWrite => exact h.execStatsWrite
  | fallbackDecision => exact h.execFallbackDecision
  | repeatStart => exact h.execRepeatStart
  | fadd | fsub | fmul | fma | vmin | vmax => exact h.laneStep
  | cmpEq | cmpLt | cmpLe | cmpNe => exact h.maskStep
  | sel | iadd | isub | imul | shl | shrl | shra | rotl | vand | vor | vxor | vnot | vandn => exact h.laneStep
  | cvt => exact h.execCvt
  | pack => exact h.execPack
  | unpack => exact h.execUnpack
  | exp2 | log2 | rcp | rsqrt => exact h.laneStep
  | vload => exact h.execVload
  | vstore => exact h.execVstore
  | vstoreLine => exact h.execVstoreLine
  | rand => exact h.execRand
  | redSum | redMax | redMin | redArgmax | redAmax | redCnz => exact h.redStep
  | outlierSelect => exact h.execOutlierSelect
  | tableLoad => exact h.execTableLoad
  | scaleSet => exact h.execScaleSet
  | occLoad => exact h.execOccLoad
  | slotBind => exact h.execSlotBind
  | slotDispatch => exact h.execSlotDispatch
  | tileSyncAdd | tileSyncSet | tileSyncClear => exact h.tileSync
  | tileSyncWaitGe | tileSyncWaitSet | tileSyncWaitClear => exact h.tileWait
  | epochPointMark => exact h.execEpochPointMark
  | scheduleEnd => exact h.execScheduleEnd
  | contractViolation => exact h.execContractViolation
  | hangDetected => exact .guarded h (.raise (.count1 (.ite h h.setRg)))
  | resumeStep => exact h.execResumeStep
  | dupVerdict => exact h.execDupVerdict
  | siteMove => exact .guarded h h.serveMove
  | rotSelftestStart => exact h.execRotSelftestStart
  | rotSelftestDone => exact h.execRotSelftestDone
  | lullEnd => exact .guarded h (.count1 (.setRg (.setRg h)))
  | dataPacketSend => exact h.execDataPacketSend
  | idleFlit => exact h.execIdleFlit
  | retry => exact h.execRetry
  | linkCodewordBad => exact .guarded h h.codewordAct
  | timeFlit => exact h.execTimeFlit
  | timeFlitSend => exact .guarded h h.turnOf.setLk.emit
  | trainFlit => exact h.execTrainFlit
  | linkTrainTimeout => exact .guarded h h.endTrain
  | laneDegraded => exact .guarded h h.setLk.sendTrain.count1.raiseOpen
  | laneSwitch => exact h.execLaneSwitch
  | syncOp => exact h.execSyncOp
  | syncUpdate => exact h.execSyncUpdate
  | groupResult => exact h.execGroupResult
  | linkAnnounce => exact h.execLinkAnnounce
  | syncLaunch => exact h.execSyncLaunch
  | chorusRound => exact h.execChorusRound
  | slotAnswer => exact h.execSlotAnswer
  | memberSilent => exact .guarded h h.setMissing.raise
  | chorusAllDisagree => exact .guarded h h.updChorus.raiseOpen
  | roundWord => exact h.execRoundWord
  | annContinue => exact h.execAnnContinue
  | annEpoch => exact h.execAnnEpoch
  | annReplay => exact h.execAnnReplay
  | annAbandon => exact h.execAnnAbandon
  | managerLost => exact .guarded h h.setRgF.raiseOpen.updChorus
  | internalError => exact .guarded h h.raise
  | entropyHealthTestFail => exact .next h.setRgF
  | linkSignalLost => exact .guarded h h.linkDown
  | _ => cases hc

/-- A command leaves a next state, but for a host access outside its tier. -/
theorem Kept.exec {c : Instr} (h : Kept F.wide s) : Leaves F.wide (exec c s) ∨
    (exec c s = .fault .noSuchAddress ∧
      ((∃ d o w e f, c = .hostMemRead d o w e f ∧ hdmInside s d o.toNat = false) ∨
       (∃ d o w b e, c = .hostMemWrite d o w b e ∧ hdmInside s d o.toNat = false))) := by
  cases hc : reachesMemory c with
  | false => exact .inl (Kept.execQuiet (F := F.wide) hc h)
  | true =>
    unfold Machine.exec
    cases c with
    | hostMemRead d o w e f =>
      cases hin : hdmInside s d o.toNat with
      | true => exact .inl (h.execHostMemRead hin)
      | false => exact .inr ⟨by simp [Machine.execHostMemRead, hin], .inl ⟨d, o, w, e, f, rfl, hin⟩⟩
    | hostMemWrite d o w b e =>
      cases hin : hdmInside s d o.toNat with
      | true => exact .inl (h.execHostMemWrite hin)
      | false => exact .inr ⟨by simp [Machine.execHostMemWrite, hin], .inr ⟨d, o, w, b, e, rfl, hin⟩⟩
    | descCreate => exact .inl (h.execDescCreate)
    | imageLoadComplete => exact .inl (h.execImageLoadComplete)
    | ctxSave => exact .inl (h.execCtxSave)
    | ctxRestore => exact .inl (h.execCtxRestore)
    | allocCreate => exact .inl (h.execAllocCreate)
    | allocZeroComplete => exact .inl (h.execAllocZeroComplete)
    | allocRelease => exact .inl (h.execAllocRelease)
    | selftestEnd => exact .inl (h.execSelftestEnd)
    | powerDomainOff => exact .inl (h.execPowerDomainOff)
    | copyEntry => exact .inl (h.execCopyEntry)
    | fetchEntry => exact .inl (h.execFetchEntry)
    | copyEntryComplete => exact .inl (h.execCopyEntryComplete)
    | powerOnHoldEnd | perstAssert | perstDeassert | supplyExcursion => exact .inl (.guarded h h.coldState)
    | pllUnlock => exact .inl (h.execPllUnlock)
    | blockReady => exact .inl (h.execBlockReady)
    | thermtrip => exact .inl (.guarded h (.raiseOpen (.goOos (.setRgF
        (h.mem fun hm => memBlank_wf _ _ _ (unpoisoned_wf hm))))))
    | lineRead => exact .inl (h.execLineRead)
    | lineWrite => exact .inl (h.execLineWrite)
    | scrubLine => exact .inl (h.execScrubLine)
    | remapCopyDone => exact .inl (h.execRemapCopyDone)
    | scheduleFetch => exact .inl (h.execScheduleFetch)
    | moveIn => exact .inl (h.execMoveIn)
    | moveOut => exact .inl (h.execMoveOut)
    | linkSend => exact .inl (h.execLinkSend)
    | lineArrival => exact .inl (h.execLineArrival)
    | warmResetComplete => exact .inl (h.execWarmResetComplete)
    | dataPacketReceive => exact .inl (h.execDataPacketReceive)
    | ctxSaveComplete | ctxRestoreComplete => exact .inl (.guarded h h.updPart.count1.postDone)
    | sliceCleanComplete => exact .inl (.guarded h h.cleanSlice.setBlk.postDone)
    | _ => cases hc

end

/-! The statements about every step and every command. -/

/-- What a command leaves is kept. -/
theorem Kept.of_exec {c : Instr} {s t : State} (h : Machine.exec c s = .next t) : Kept ⟨s, true, true⟩ t := by
  obtain ⟨u, hu, hk⟩ | ⟨hf, -⟩ := Kept.exec (c := c) (F := ⟨s, true, true⟩) (Kept.refl s true true)
  · cases hu.symm.trans h
    exact hk
  · cases hf.symm.trans h

/-- So it is for a command that does not reach memory, with what memory shows. -/
theorem Kept.of_execQuiet {c : Instr} {s t : State} (hc : reachesMemory c = false) (h : Machine.exec c s = .next t) :
    Kept ⟨s, true, false⟩ t := by
  obtain ⟨u, hu, hk⟩ := Kept.execQuiet (F := ⟨s, true, false⟩) hc (Kept.refl s true false)
  cases hu.symm.trans h
  exact hk

/-- Two caches that show the same show the same lines of each set. -/
theorem shown_smGet {c d : List (Nat × List CLine)} (h : shownCache c = shownCache d) (k : Nat) :
    (smGet (fun _ => []) c k).map CLine.shown = (smGet (fun _ => []) d k).map CLine.shown := by
  induction c generalizing d with
  | nil =>
    cases d with
    | nil => rfl
    | cons e d => cases h
  | cons e c ih =>
    cases d with
    | nil => cases h
    | cons f d =>
      obtain ⟨i, x⟩ := e
      obtain ⟨j, y⟩ := f
      simp only [shownCache, List.map_cons, List.cons.injEq, Prod.mk.injEq] at h
      obtain ⟨⟨rfl, hxy⟩, hcd⟩ := h
      simp only [smGet]
      split
      · exact hxy
      · split
        · rfl
        · exact ih hcd

/-- The line of an address in a list that shows what another shows. -/
theorem find_shown {l m : List CLine} (h : l.map CLine.shown = m.map CLine.shown) (a : Nat) :
    (l.find? (fun x => x.addr == a)).map CLine.shown = (m.find? (fun x => x.addr == a)).map CLine.shown := by
  have hfind : ∀ l : List CLine, (l.find? (fun x => x.addr == a)).map CLine.shown =
      (l.map CLine.shown).find? (fun x => x.1 == a) := fun l => by rw [List.find?_map]; rfl
  rw [hfind, hfind, h]

/-- A byte is what memory and the shown lines of the cache make it. -/
theorem peekByte_congr {s t : State} (hm : t.mem = s.mem) (hc : shownCache t.cache = shownCache s.cache) (a : Nat) :
    peekByte t a = peekByte s a := by
  have hline : (cached t (lineAddr a)).map CLine.shown = (cached s (lineAddr a)).map CLine.shown :=
    find_shown (shown_smGet hc (setKey (lineAddr a))) (lineAddr a)
  unfold peekByte
  rw [hm]
  generalize cached t (lineAddr a) = x, cached s (lineAddr a) = y at hline
  match x, y, hline with
  | none, none, _ => rfl
  | some l, some m, hline =>
    simp only [Option.map_some, Option.some.injEq, CLine.shown, Prod.mk.injEq] at hline
    obtain ⟨-, hdata, -⟩ := hline
    simp only [hdata]

/-- Where memory may not change, every byte reads as at the start. -/
theorem Kept.peekByte {F : Scope} {s : State} (h : Kept F s) (hF : F.memory = false) (a : Nat) :
    Machine.peekByte s a = Machine.peekByte F.start a := by
  obtain ⟨-, -, -, hmem⟩ := h
  exact peekByte_congr (hmem hF).1 (hmem hF).2 a

/-- Settles O6: an idle step is a tick and any other is the front command's, and both keep the maps' form. -/
theorem canonicalFormKept : Obligations.CanonicalFormKept := by
  intro s t hs hstep
  unfold step at hstep
  split at hstep
  next =>
    cases hstep
    have htick : Kept (Scope.timed ⟨s, true, true⟩) (tick s) := Kept.tick (Kept.refl s true true)
    obtain ⟨-, hcanon, -⟩ := htick
    exact hcanon hs
  next c cs =>
    obtain ⟨-, hcanon, -⟩ := Kept.of_exec hstep
    exact hcanon hs

/-- Settles O4. -/
theorem commandsLeaveTheQueue : Obligations.CommandsLeaveTheQueue := by
  intro c s t h
  obtain ⟨hpending, -⟩ := Kept.of_exec h
  exact hpending

/-- Settles O5. -/
theorem everyCommandCompletes : Obligations.EveryCommandCompletes := by
  intro c s
  exact (Kept.exec (F := ⟨s, true, true⟩) (Kept.refl s true true)).imp (fun ⟨t, ht, _⟩ => ⟨t, ht⟩) id

/-- Settles O10. -/
theorem memoryFrame : Obligations.MemoryFrame := by
  intro c s t hc h
  exact (Kept.of_execQuiet hc h).peekByte rfl

/-- Settles O2: what a tick counts beside the counter leaves the queue, the counter and what memory shows. -/
theorem idleStepIsATick : Obligations.IdleStepIsATick := by
  intro s hp hhold hperst
  have hticked : Kept ⟨{ s with gcnt := s.gcnt + 1 }, false, false⟩ (fclkCycle (counterTick s)) :=
    .fclkCycle (.countMs (.holdLull (Kept.refl _ false false)))
  refine ⟨tick s, by simp [step, hp], ?_⟩
  have htick : tick s = fclkCycle (counterTick s) := by simp [tick, hhold, hperst]
  rw [htick]
  exact ⟨hticked.2.2.1 rfl, hticked.1.trans hp, hticked.peekByte rfl⟩

end Sys2Proof.Machine


/-! Registers, counters and a posted result: reading after writing (02 R47, R70, R71), and the state after reset. -/

namespace Sys2Proof.Machine

/-! Register fields. -/

/-- The bits of a field's mask. -/
theorem getLsbD_fieldMask {hi lo i : Nat} (hlo : lo ≤ hi) (hi32 : i < 32) :
    (BitVec.ofNat 32 ((2 ^ (hi + 1 - lo) - 1) * 2 ^ lo)).getLsbD i = decide (lo ≤ i ∧ i ≤ hi) := by
  rw [BitVec.getLsbD_ofNat, Nat.testBit_mul_two_pow, Nat.testBit_two_pow_sub_one]
  by_cases h : lo ≤ i
  · simp [hi32, h]; omega
  · simp [h]

/-- A field written: inside it the value's bits, outside it the register's. -/
theorem getLsbD_putFld (w : Word) {hi lo v i : Nat} (hlo : lo ≤ hi) (hi32 : i < 32) :
    (putFld w hi lo v).getLsbD i = if lo ≤ i ∧ i ≤ hi then v.testBit (i - lo) else w.getLsbD i := by
  unfold putFld
  dsimp only
  rw [BitVec.getLsbD_or, BitVec.getLsbD_and, BitVec.getLsbD_and, BitVec.getLsbD_not, getLsbD_fieldMask hlo hi32,
    BitVec.getLsbD_ofNat, Nat.testBit_mul_two_pow]
  by_cases h : lo ≤ i ∧ i ≤ hi
  · simp [h, hi32]
  · simp [h, hi32]

/-- A field written reads back. -/
theorem fld_putFld_same (w : Word) {hi lo v : Nat} (hlo : lo ≤ hi) (hhi : hi < 32) (hv : v < 2 ^ (hi + 1 - lo)) :
    fld (putFld w hi lo v) hi lo = v := by
  unfold fld bits
  refine Nat.eq_of_testBit_eq fun i => ?_
  rw [Nat.testBit_mod_two_pow, Nat.testBit_div_two_pow]
  by_cases h : i < hi + 1 - lo
  · have hbit := getLsbD_putFld w (v := v) hlo (show i + lo < 32 by omega)
    rw [if_pos (by omega), Nat.add_sub_cancel] at hbit
    simpa [h, BitVec.getLsbD] using hbit
  · rw [Nat.testBit_lt_two_pow (Nat.lt_of_lt_of_le hv (Nat.pow_le_pow_right (by decide) (by omega)))]
    simp [h]

/-- Another field of a register stands. -/
theorem fld_putFld_ne (w : Word) {hi lo v h l : Nat} (hlo : lo ≤ hi) (hh : h < 32) (hne : h < lo ∨ hi < l) :
    fld (putFld w hi lo v) h l = fld w h l := by
  unfold fld bits
  refine Nat.eq_of_testBit_eq fun i => ?_
  rw [Nat.testBit_mod_two_pow, Nat.testBit_div_two_pow, Nat.testBit_mod_two_pow, Nat.testBit_div_two_pow]
  by_cases hi' : i < h + 1 - l
  · have hbit := getLsbD_putFld w (v := v) hlo (show i + l < 32 by omega)
    rw [if_neg (by omega)] at hbit
    simpa [hi', BitVec.getLsbD] using hbit
  · simp [hi']

theorem rgF_setRgF_same {s : State} {p o hi lo v : Nat} (h : smRising none s.regs = true) (hlo : lo ≤ hi) (hhi : hi < 32)
    (hv : v < 2 ^ (hi + 1 - lo)) : rgF (setRgF s p o hi lo v) p o hi lo = v := by
  rw [rgF, setRgF, rg_setRg_same p o _ h, fld_putFld_same _ hlo hhi hv]

/-- Settles O15. -/
theorem registersHoldWrites : Obligations.RegistersHoldWrites := by
  refine ⟨fun s p o v hc => ⟨rg_setRg_same p o v (canon_regs hc), fun k hk => smGet_smSet_ne _ _ _ hk (canon_regs hc), rfl⟩,
    fun s p o hi lo v hc hlo hhi hv => ⟨rgF_setRgF_same (canon_regs hc) hlo hhi hv, fun i hi32 hout => ?_⟩⟩
  rw [setRgF, rg_setRg_same p o _ (canon_regs hc), getLsbD_putFld _ hlo hi32, if_neg (by omega)]

/-! Counters. -/

/-- What a count makes of a counter below its maximum, and of one that reaches it (02 R70, R71). -/
theorem add_below {c : Counter} {n : Nat} (hs : c.sat = false) (hn : c.value.toNat + n < 2 ^ 48 - 1) :
    c.add n = ({ c with value := BitVec.ofNat 48 (c.value.toNat + n) }, false) := by
  simp only [Counter.add, hs, Bool.false_eq_true, if_false]
  rw [if_neg (by omega)]

theorem add_saturated {c : Counter} {n : Nat} (hs : c.sat = true) : c.add n = (c, false) := by
  simp [Counter.add, hs]

theorem add_reaches {c : Counter} {n : Nat} (hs : c.sat = false) (h0 : 0 < n) (hn : 2 ^ 48 - 1 ≤ c.value.toNat + n) :
    c.add n = ({ value := BitVec.ofNat 48 (2 ^ 48 - 1), sat := true }, true) := by
  simp only [Counter.add, hs, Bool.false_eq_true, if_false]
  rw [if_pos (by omega), decide_eq_true (.inl (by omega))]

theorem countRaw_eq (s : State) (p i n : Nat) :
    countRaw s p i n = (setCnt s p i ((getCnt s p i).add n).1, ((getCnt s p i).add n).2) := rfl

theorem countBy_below {s : State} {p i n : Nat} (hs : (getCnt s p i).sat = false)
    (hn : (getCnt s p i).value.toNat + n < 2 ^ 48 - 1) :
    countBy s p i n = setCnt s p i { getCnt s p i with value := BitVec.ofNat 48 ((getCnt s p i).value.toNat + n) } := by
  rw [countBy_eq, countRaw_eq, add_below hs hn]
  rfl

theorem countBy_saturated {s : State} {p i n : Nat} (hs : (getCnt s p i).sat = true) :
    countBy s p i n = setCnt s p i (getCnt s p i) := by
  rw [countBy_eq, countRaw_eq, add_saturated hs]
  rfl

/-- Settles O16. -/
theorem countersCount : Obligations.CountersCount := by
  refine ⟨fun s p i n hc hs hn => ?_, fun s p i n hc hs => ?_, fun s p i n hs h0 hn => ?_⟩
  · have hget := getCnt_setCnt_same (s := s) p i
      { getCnt s p i with value := BitVec.ofNat 48 ((getCnt s p i).value.toNat + n) } (canon_cnt hc)
    rw [countBy_below hs hn, hget]
    refine ⟨?_, hs, rfl, fun k hk => smGet_smSet_ne _ _ _ hk (canon_cnt hc)⟩
    rw [BitVec.toNat_ofNat, Nat.mod_eq_of_lt (by omega)]
  · rw [countBy_saturated hs, getCnt_setCnt_same p i _ (canon_cnt hc)]
  · have hraw := countRaw_eq s p i n
    rw [add_reaches hs h0 hn] at hraw
    rw [countBy_eq, hraw]
    exact ⟨_, _, rfl, rfl⟩

/-! A posted result. -/

/-- The fields of `BLK_CMD_RESULT` (02 R47). -/
theorem fields_result {code echo : Nat} (hc : code < 256) (he : echo < 256) :
    fld (BitVec.ofNat 32 (code + 256 + 65536 * echo)) 7 0 = code ∧ fld (BitVec.ofNat 32 (code + 256 + 65536 * echo)) 8 8 = 1 ∧
    fld (BitVec.ofNat 32 (code + 256 + 65536 * echo)) 23 16 = echo := by
  have h : (BitVec.ofNat 32 (code + 256 + 65536 * echo)).toNat = code + 256 + 65536 * echo := by
    rw [BitVec.toNat_ofNat]; omega
  simp only [fld, bits, h]
  omega

theorem isDone_postResult {s : State} {p code echo : Nat} (h : smRising none s.pages = true) (hc : code < 256) (he : echo < 256) :
    isDone (postResult s p code echo) p = true := by
  rw [isDone, result_postResult h hc he, (fields_result hc he).2.1]
  rfl

/-- Settles O14. -/
theorem postedResult : Obligations.PostedResult := by
  intro s p code echo hc hcode hecho
  have hresult := result_postResult (s := s) (p := p) (canon_pages hc) hcode hecho
  obtain ⟨hfcode, -, hfecho⟩ := fields_result hcode hecho
  refine ⟨by rw [hresult, hfcode], isDone_postResult (canon_pages hc) hcode hecho, by rw [echoOf, hresult, hfecho], ?_,
    fun q hq => getPage_setPage_ne _ hq (canon_pages hc), rfl⟩
  rw [postResult, getPage_setPage_same _ _ (canon_pages hc)]

/-! The step at a command, and the state after reset. -/

/-- Settles O1. -/
theorem stepRunsFront : Obligations.StepRunsFront := by
  intro s c cs h
  simp only [step, h]

/-- Settles O7: nothing is listed in the state after reset. -/
theorem canonicalFormAtReset : Obligations.CanonicalFormAtReset := ⟨rfl, rfl, rfl⟩

theorem evCount_le (p : Nat) : evCount p ≤ 15 := by
  unfold evCount
  repeat' split
  all_goals decide

/-- The enable bits that a page with `n` events before event 15 has at reset (02 R60). -/
theorem getLsbD_enableReset : ∀ n, n ≤ 15 → ∀ e, e < 16 →
    (BitVec.ofNat 16 (2 ^ n - 1 + 0x8000)).getLsbD e = (decide (e < n) || e == 15) := by decide

theorem siteDefault_div (t : Nat) : siteDefault t / 34 = t / 32 := by unfold siteDefault; omega

theorem siteDefault_inj {t u : Nat} (h : siteDefault u = siteDefault t) : u = t := by
  unfold siteDefault at h; omega

theorem siteOf_reset (t : Nat) : siteOf State.reset t = siteDefault t := rfl

theorem sitesOk_reset : State.reset.sitesOk := fun t _ =>
  ⟨siteDefault_div t, fun _ _ h => siteDefault_inj h⟩

/-- A site holds a tile at reset just when it is one of the first 32 of its quadrant. -/
theorem isFree_reset {x : Nat} (hx : x < 136) : isFree State.reset x = decide (32 ≤ x % 34) := by
  have htile : (tileAt State.reset x).isNone = decide (32 ≤ x % 34) := by
    rw [tileAt, Bool.eq_iff_iff, Option.isNone_iff_eq_none, List.find?_eq_none, decide_eq_true_eq]
    simp only [List.mem_range, siteOf_reset, siteDefault, beq_iff_eq]
    refine ⟨fun h => ?_, fun h t ht he => by omega⟩
    have := h (32 * (x / 34) + x % 34)
    omega
  have hretired : isRetired State.reset x = false := rfl
  rw [isFree, htile, hretired, Bool.not_false, Bool.and_true]

/-- Settles O9. -/
theorem resetValues : Obligations.ResetValues := by
  refine ⟨fun p hlt hp => ⟨rfl, ?_, fun _ => rfl, fun e he => ?_⟩, rfl, rfl, sitesOk_reset, fun _ _ => rfl, ?_⟩
  · have hwindow : inWindow p = false := by simp [inWindow]; omega
    simp only [readReg, hwindow, hp, Bool.false_eq_true, if_false, Bool.not_true]
    rfl
  · exact getLsbD_enableReset (evCount p) (evCount_le p) e he
  · have hfree : ∀ q ∈ List.range 4, freeSites State.reset q =
        ((List.range 34).map (34 * q + ·)).filter (fun x => decide (32 ≤ x % 34)) := fun q hq =>
      List.filter_congr fun x hx => isFree_reset (by
        obtain ⟨i, hi, rfl⟩ := List.mem_map.mp hx
        have := List.mem_range.mp hi
        have := List.mem_range.mp hq
        omega)
    rw [List.flatMap_def, List.map_congr_left hfree]
    decide

end Sys2Proof.Machine


/-! Numbers as bytes, words and registers: what is written in pieces reads back whole. -/

namespace Sys2Proof.Machine

theorem length_leBytes (n v : Nat) : (leBytes n v).length = n := by
  induction n generalizing v with
  | zero => rfl
  | succ n ih => simp [leBytes, ih]

theorem leNat_append (l m : List Byte) : leNat (l ++ m) = leNat l + 2 ^ (8 * l.length) * leNat m := by
  induction l with
  | nil => simp [leNat]
  | cons b l ih =>
    rw [List.cons_append, leNat, ih, leNat, List.length_cons,
      show 8 * (l.length + 1) = 8 + 8 * l.length by omega, Nat.pow_add, Nat.mul_add, Nat.mul_assoc, Nat.add_assoc]

theorem leNat_leBytes (n v : Nat) : leNat (leBytes n v) = v % 2 ^ (8 * n) := by
  induction n generalizing v with
  | zero => simp [leBytes, leNat, Nat.mod_one]
  | succ n ih =>
    rw [leBytes, leNat, ih, BitVec.toNat_ofNat, show 8 * (n + 1) = 8 + 8 * n by omega, Nat.pow_add, Nat.mod_mul]

/-- A number cut into its words is the number again. -/
theorem leNat_words (m v : Nat) :
    leNat ((List.range m).flatMap (fun k => leBytes 4 (v / 2 ^ (32 * k) % 2 ^ 32))) = v % 2 ^ (32 * m) ∧
      ((List.range m).flatMap (fun k => leBytes 4 (v / 2 ^ (32 * k) % 2 ^ 32))).length = 4 * m := by
  induction m with
  | zero => simp [leNat, Nat.mod_one]
  | succ m ih =>
    obtain ⟨hval, hlen⟩ := ih
    rw [List.range_succ, List.flatMap_append, leNat_append, hval, hlen]
    refine ⟨?_, by simp only [List.flatMap_singleton, List.length_append, length_leBytes, hlen]; omega⟩
    rw [List.flatMap_singleton, leNat_leBytes, Nat.mod_mod, show 8 * (4 * m) = 32 * m by omega,
      show 32 * (m + 1) = 32 * m + 32 by omega, Nat.pow_add, Nat.mod_mul]

/-- Words written one after another from an offset of a page each read back, and the other registers stand. -/
theorem rg_foldl_setRg {s : State} (p o : Nat) (f : Nat → Word) (n : Nat) (h : smRising none s.regs = true) :
    let t := (List.range n).foldl (fun s k => setRg s p (o + 4 * k) (f k)) s
    smRising none t.regs = true ∧ (∀ k, k < n → rg t p (o + 4 * k) = f k) ∧ t = { s with regs := t.regs } ∧
      ∀ q j, (∀ k, k < n → q * 4096 + j ≠ p * 4096 + (o + 4 * k)) → rg t q j = rg s q j := by
  induction n with
  | zero => exact ⟨h, by simp, rfl, fun _ _ _ => rfl⟩
  | succ n ih =>
    obtain ⟨hr, hget, heq, hne⟩ := ih
    rw [List.range_succ, List.foldl_append]
    refine ⟨smRising_smSet _ _ hr, fun k hk => ?_, ?_, fun q j hq => ?_⟩
    · by_cases hkn : k = n
      · subst hkn; exact rg_setRg_same _ _ _ hr
      · exact (rg_setRg_ne _ (by omega) hr).trans (hget k (by omega))
    · rw [List.foldl_cons, List.foldl_nil, setRg, heq]
    · exact (rg_setRg_ne _ (hq n (by omega)) hr).trans (hne q j (fun k hk => hq k (by omega)))

end Sys2Proof.Machine

/-! The partition count (01 R25) and the reset of a partition (20 R684). -/

namespace Sys2Proof.Machine

theorem takesEnding_canon {s : State} {p : Nat} (h : takesEnding s p = true) : s.canon = true := by
  simp only [takesEnding, reachesPage, Bool.and_eq_true] at h
  obtain ⟨⟨⟨⟨⟨hc, _⟩, _⟩, _⟩, _⟩, _⟩ := h
  exact hc

theorem getPart_updPart_same {s : State} (p : Nat) (f : Part → Part) (h : smRising none s.parts = true) :
    getPart (updPart s p f) p = f (getPart s p) := getPart_setPart_same p _ h

theorem getPart_updPart_ne {s : State} {p q : Nat} (f : Part → Part) (hq : q ≠ p) (h : smRising none s.parts = true) :
    getPart (updPart s p f) q = getPart s q := getPart_setPart_ne _ hq h

theorem updPart_rising {s : State} (p : Nat) (f : Part → Part) (h : smRising none s.parts = true) :
    smRising none (updPart s p f).parts = true :=
  smRising_smSet (d := fun _ => ({} : Part)) p (f (getPart s p)) h

/-- A change made to each of the first partitions in turn shows in each. -/
theorem getPart_foldl_updPart {s : State} (f : Part → Part) (n : Nat) (h : smRising none s.parts = true) :
    let t := (List.range n).foldl (fun s p => updPart s p f) s
    smRising none t.parts = true ∧ t = { s with parts := t.parts } ∧ (∀ p, n ≤ p → getPart t p = getPart s p) ∧
      ∀ p, p < n → getPart t p = f (getPart s p) := by
  induction n with
  | zero => exact ⟨h, rfl, fun _ _ => rfl, by simp⟩
  | succ n ih =>
    obtain ⟨hr, heq, hkeep, hget⟩ := ih
    rw [List.range_succ, List.foldl_append]
    refine ⟨updPart_rising n f hr, ?_, fun p hp => ?_, fun p hp => ?_⟩
    · rw [List.foldl_cons, List.foldl_nil, updPart, setPart, heq]
    · exact (getPart_updPart_ne f (by omega) hr).trans (hkeep p (by omega))
    · by_cases hpn : p = n
      · subst hpn; exact (getPart_updPart_same p f hr).trans (congrArg f (hkeep p (Nat.le_refl p)))
      · exact (getPart_updPart_ne f hpn hr).trans (hget p (by omega))

/-- The state after a PART_SET that is taken and meets no condition of R25's table. -/
def partSetDone (s : State) (arg : Arg) : State :=
  (List.range 4).foldl (fun s p => updPart s p (fun x => { x with seed := 0, heldSeed := none }))
    (setRgF { taken s 0x001 0x91 arg with descs := [] } 0x001 0x060 1 0 arg.toNat)

theorem partSetDone_spec {s : State} (arg : Arg) (h : s.canon = true) :
    partSetDone s arg = { taken s 0x001 0x91 arg with
      descs := [], parts := (partSetDone s arg).parts, regs := (partSetDone s arg).regs } ∧
    (partSetDone s arg).regs = (setRgF (taken s 0x001 0x91 arg) 0x001 0x060 1 0 arg.toNat).regs ∧
    ∀ p, p < 4 → (getPart (partSetDone s arg) p).seed = 0 ∧ (getPart (partSetDone s arg) p).heldSeed = none := by
  have hr : smRising none (setRgF { taken s 0x001 0x91 arg with descs := [] } 0x001 0x060 1 0 arg.toNat).parts = true :=
    canon_parts (s := s) h
  obtain ⟨-, heq, -, hget⟩ := getPart_foldl_updPart (fun x => { x with seed := 0, heldSeed := none }) 4 hr
  refine ⟨?_, ?_, fun p hp => ?_⟩
  · exact heq.trans (by rw [partSetDone, heq]; rfl)
  · rw [partSetDone, heq]; rfl
  · have hp' : getPart (partSetDone s arg) p = _ := hget p hp
    simp [hp']

theorem exec_partSet {s : State} {arg : Arg} (h : takesCommand s 0x001 = true) :
    exec (.partSet arg) s = .next (
      if 3 ≤ arg.toNat then postResult (taken s 0x001 0x91 arg) 0x001 rUNSUP 0x91
      else if anyImage s || !s.allocs.isEmpty then postResult (taken s 0x001 0x91 arg) 0x001 rBUSY 0x91
      else if arg ≠ 0 ∧ role s ≠ 0 then postResult (taken s 0x001 0x91 arg) 0x001 rGEOM 0x91
      else postResult (partSetDone s arg) 0x001 rOK 0x91) := by
  calc exec (.partSet arg) s = execPartSet arg s := rfl
    _ = _ := by rw [execPartSet, command_takes h, anyImage_taken]; rfl

theorem nParts_of_regs {s u : State} (h : u.regs = s.regs) : nParts u = nParts s := by
  rw [nParts, nParts, partCode, partCode, rgF, rgF, rg, rg, h]

theorem nParts_setRgF {s : State} {v : Nat} (hs : smRising none s.regs = true) (hv : v < 3) :
    nParts (setRgF s 0x001 0x060 1 0 v) = 2 ^ v := by
  have hcode : partCode (setRgF s 0x001 0x060 1 0 v) = v :=
    rgF_setRgF_same hs (by omega) (by omega) (by omega)
  obtain rfl | rfl | rfl : v = 0 ∨ v = 1 ∨ v = 2 := by omega
  all_goals simp [nParts, hcode]

/-- Settles O22: each command acts on the state `taken`, where the conditions of R25's table are decided in its order. -/
theorem partitionCommands : Obligations.PartitionCommands := by
  refine ⟨fun s arg htakes harg himg halloc hrole => ?_, fun s u arg htakes hu => ?_, fun s arg htakes => ?_⟩
  · obtain ⟨heq, hregs, hparts⟩ := partSetDone_spec arg (takesCommand_canon htakes)
    have hs : smRising none (taken s 0x001 0x91 arg).regs = true := canon_regs (s := s) (takesCommand_canon htakes)
    refine ⟨postResult (partSetDone s arg) 0x001 rOK 0x91, ?_, ?_, hparts, fun k hk => ?_, ?_⟩
    · have hr : ¬(arg ≠ 0 ∧ role s ≠ 0) := fun ⟨harg, hrole'⟩ => hrole.elim harg hrole'
      rw [exec_partSet htakes, if_neg (by omega), if_neg (by simp [himg, halloc]), if_neg hr]
    · rw [nParts_postResult, nParts_of_regs hregs, nParts_setRgF hs harg]
    · rw [postResult_regs, hregs]
      exact smGet_smSet_ne _ _ _ hk hs
    · rw [postResult_parts, postResult_regs]
      exact congrArg (postResult · 0x001 rOK 0x91) heq
  · subst hu
    refine ⟨fun h => ?_, fun h hb => ?_, fun h himg hal ha hr => ?_⟩
    · rw [exec_partSet htakes, if_pos h]
    · have hb : (anyImage s || !s.allocs.isEmpty) = true := by simpa using hb
      rw [exec_partSet htakes, if_neg (by omega), if_pos hb]
    · rw [exec_partSet htakes, if_neg (by omega), if_neg (by simp [himg, hal]), if_pos ⟨ha, hr⟩]
  · have hexec : exec (.partReset arg) s = .next (
        if 4 ≤ arg.toNat then postResult (taken s 0x002 0x99 arg) 0x002 rUNSUP 0x99
        else if nParts s ≤ arg.toNat then postResult (taken s 0x002 0x99 arg) 0x002 rGEOM 0x99
        else postResult (count1 (partitionReset (taken s 0x002 0x99 arg) arg.toNat) 0x002 2) 0x002 rOK 0x99) := by
      calc exec (.partReset arg) s = execPartReset arg s := rfl
        _ = _ := by rw [execPartReset, command_takes_ending htakes rfl, nParts_taken]
    have hn := nParts_le s
    refine ⟨fun h => ?_, fun h h4 => ?_, fun h => ?_⟩
    · rw [hexec, if_neg (by omega), if_neg (by omega)]
    · rw [hexec, if_neg (by omega), if_pos h]
    · rw [hexec, if_pos h]

end Sys2Proof.Machine


/-! Descriptors (06 R196 to R203). -/

namespace Sys2Proof.Machine

/-- Bytes put into memory show in memory and the stack cache alone. -/
theorem pokeBytes_eq (s : State) (a : Nat) (l : List Byte) :
    pokeBytes s a l = { s with mem := (pokeBytes s a l).mem, cache := (pokeBytes s a l).cache } := by
  obtain ⟨m, c, h⟩ : ∃ m c, pokeBytes s a l = { s with mem := m, cache := c } := by
    unfold pokeBytes
    extract_lets
    refine List.foldlRecOn (motive := fun t => ∃ m c, t = { s with mem := m, cache := c }) _ _ ⟨memSetBytes s.mem a l, s.cache, rfl⟩ ?_
    rintro _ ⟨m, c, rfl⟩ x -
    split
    · exact ⟨_, _, rfl⟩
    · exact ⟨_, _, rfl⟩
  rw [h]

theorem setDesc_eq (s : State) (p n : Nat) (d : BitVec 1024) :
    setDesc s p n d = { s with
      descs := smSet (fun _ => (0 : BitVec 1024)) s.descs (p * 2 ^ 20 + n) d, mem := (setDesc s p n d).mem, cache := (setDesc s p n d).cache } :=
  pokeBytes_eq _ _ _

theorem getDesc_of_descs {s u : State} (h : u.descs = s.descs) (p n : Nat) : getDesc u p n = getDesc s p n := by
  rw [getDesc, getDesc, h]

theorem getDesc_setDesc_same {s : State} (p n : Nat) {d : BitVec 1024} (hd : d ≠ 0) (h : smRising none s.descs = true) :
    getDesc (setDesc s p n d) p n = some d := by
  rw [getDesc, setDesc_eq]
  simp only [smGet_smSet_same _ _ _ _ h]
  exact if_neg hd

/-- Below 2^20 the number of a descriptor and its partition are found in its key. -/
theorem descKey_ne {p q m n : Nat} (hm : m < 2 ^ 20) (hn : n < 2 ^ 20) (h : (q, m) ≠ (p, n)) : q * 2 ^ 20 + m ≠ p * 2 ^ 20 + n := by
  intro he
  exact h (by rw [Prod.mk.injEq]; omega)

theorem getDesc_setDesc_ne {s : State} {p q m n : Nat} (d : BitVec 1024) (hm : m < 2 ^ 20) (hn : n < 2 ^ 20)
    (h : (q, m) ≠ (p, n)) (hs : smRising none s.descs = true) : getDesc (setDesc s p n d) q m = getDesc s q m := by
  rw [getDesc, getDesc, setDesc_eq]
  simp only [smGet_smSet_ne _ _ _ (descKey_ne hm hn h) hs]

theorem getDesc_smDel_same {s : State} (p n : Nat) (h : smRising none s.descs = true) :
    getDesc { s with descs := smDel s.descs (p * 2 ^ 20 + n) } p n = none := by
  rw [getDesc]
  simp only [smGet_smDel_same _ _ _ h, if_true]

theorem getDesc_smDel_ne {s : State} {p q m n : Nat} (hm : m < 2 ^ 20) (hn : n < 2 ^ 20) (h : (q, m) ≠ (p, n))
    (hs : smRising none s.descs = true) :
    getDesc { s with descs := smDel s.descs (p * 2 ^ 20 + n) } q m = getDesc s q m := by
  rw [getDesc, getDesc]
  simp only [smGet_smDel_ne _ _ (descKey_ne hm hn h) hs]

/-- The record of all zeros breaks a check, so that a live descriptor is never one. -/
theorem ne_zero_of_validate {look : Nat → Option (BitVec 1024)} {al : Nat → Option Alloc} {d : BitVec 1024}
    (h : validate look al d = none) : d ≠ 0 := by
  rintro rfl
  have hrank : dRank 0 = 0 := by simp [dRank, dCtl, dF, bits]
  have h2 : dCheck2 0 = some 0 := by rw [dCheck2, if_pos (Or.inr (Or.inl hrank))]
  rw [validate, h2] at h
  split at h <;> cases h

/-- The staged record is the number whose words the staging registers hold. -/
theorem descStage_of_words {s : State} {p : Nat} {d : BitVec 1024}
    (h : ∀ k, k < 32 → rg s (dpage p) (0x40 + 4 * k) = BitVec.ofNat 32 (dF d (4 * k) 4)) : descStage s p = d := by
  have hw : (List.range 32).flatMap (fun k => leBytes 4 (rg s (dpage p) (0x40 + 4 * k)).toNat)
      = (List.range 32).flatMap (fun k => leBytes 4 (d.toNat / 2 ^ (32 * k) % 2 ^ 32)) := by
    rw [List.flatMap_def, List.flatMap_def]
    congr 1
    refine List.map_congr_left (fun k hk => ?_)
    rw [h k (List.mem_range.mp hk), BitVec.toNat_ofNat, dF, show 8 * (4 * k) = 32 * k by omega, Nat.mod_mod]
  rw [descStage, hw, (leNat_words 32 d.toNat).1]
  refine BitVec.eq_of_toNat_eq ?_
  rw [BitVec.toNat_ofNat, Nat.mod_mod, Nat.mod_eq_of_lt d.isLt]

section
variable {s : State} {p : PartIx} {arg : Arg}

/-- A descriptor command that is taken, with a number below 2^20 and an existing partition, acts on `taken`. -/
theorem descCmd_takes {code : Nat} {refuse : State → State} {act : Nat → State → State} (h : takesCommand s (dpage p.toNat) = true)
    (ha : arg.toNat < 2 ^ 20) (hp : p.toNat < nParts s) :
    descCmd p.toNat code arg refuse act s = .next (act arg.toNat (taken s (dpage p.toNat) code arg)) := by
  rw [descCmd, command_takes h, nParts_taken, if_neg (by omega), if_neg (by omega)]

theorem exec_descCreate_passes (h : takesCommand s (dpage p.toNat) = true) (ha : arg.toNat < 2 ^ 20) (hp : p.toNat < nParts s)
    (hb : (hasImage s p.toNat && (getDesc s p.toNat arg.toNat).isSome) = false)
    (hv : validate (getDesc s p.toNat) (getAlloc s p.toNat) (descStage s p.toNat) = none) :
    exec (.descCreate p arg) s = .next (postResult (setRg (setDesc (taken s (dpage p.toNat) 0x10 arg) p.toNat arg.toNat
      (descStage s p.toNat)) (dpage p.toNat) 0xC4 0) (dpage p.toNat) rOK 0x10) := by
  calc exec (.descCreate p arg) s = execDescCreate p arg s := rfl
    _ = _ := by
      have hb' : (hasImage (taken s (dpage p.toNat) 0x10 arg) p.toNat &&
        (getDesc (taken s (dpage p.toNat) 0x10 arg) p.toNat arg.toNat).isSome) = false := hb
      have hv' : validate (getDesc (taken s (dpage p.toNat) 0x10 arg) p.toNat) (getAlloc (taken s (dpage p.toNat) 0x10 arg) p.toNat)
        (descStage (taken s (dpage p.toNat) 0x10 arg) p.toNat) = none := hv
      rw [execDescCreate, descCmd_takes h ha hp]
      simp only [hb', hv', Bool.false_eq_true, if_false]
      rfl

theorem exec_descDestroy_free (h : takesCommand s (dpage p.toNat) = true) (ha : arg.toNat < 2 ^ 20) (hp : p.toNat < nParts s)
    (hi : hasImage s p.toNat = false) (hx : isIndexOf s p.toNat arg.toNat = false) (hc : copyNames s p.toNat arg.toNat = false) :
    exec (.descDestroy p arg) s = .next (postResult { taken s (dpage p.toNat) 0x11 arg with
      descs := smDel s.descs (p.toNat * 2 ^ 20 + arg.toNat) } (dpage p.toNat) rOK 0x11) := by
  calc exec (.descDestroy p arg) s = execDescDestroy p arg s := rfl
    _ = _ := by
      have hi' : hasImage (taken s (dpage p.toNat) 0x11 arg) p.toNat = false := hi
      have hx' : isIndexOf (taken s (dpage p.toNat) 0x11 arg) p.toNat arg.toNat = false := hx
      have hc' : copyNames (taken s (dpage p.toNat) 0x11 arg) p.toNat arg.toNat = false := hc
      rw [execDescDestroy, descCmd_takes h ha hp]
      simp only [hi', hx', hc', Bool.or_self, Bool.false_eq_true, if_false]
      rfl

theorem exec_descRead_live {d : BitVec 1024} (h : takesCommand s (dpage p.toNat) = true) (ha : arg.toNat < 2 ^ 20)
    (hp : p.toNat < nParts s) (hd : getDesc s p.toNat arg.toNat = some d) :
    exec (.descRead p arg) s = .next (postResult ((List.range 32).foldl (fun s k =>
      setRg s (dpage p.toNat) (0x40 + 4 * k) (BitVec.ofNat 32 (dF d (4 * k) 4))) (taken s (dpage p.toNat) 0x12 arg))
      (dpage p.toNat) rOK 0x12) := by
  calc exec (.descRead p arg) s = execDescRead p arg s := rfl
    _ = _ := by
      have hd' : getDesc (taken s (dpage p.toNat) 0x12 arg) p.toNat arg.toNat = some d := hd
      rw [execDescRead, descCmd_takes h ha hp]
      simp only [hd']
end

/-- Settles O23: a record made live changes the descriptor's own key of the map and memory's copy of it, one destroyed the
key, and one read the 32 staging registers. -/
theorem descriptorCommands : Obligations.DescriptorCommands := by
  intro s p arg htakes harg hp
  have hcanon := takesCommand_canon htakes
  refine ⟨fun hb hv => ⟨_, exec_descCreate_passes htakes harg hp hb hv, ?_, ?_, fun q n hn hq => ?_, ?_⟩,
    fun hi hx hc => ⟨_, exec_descDestroy_free htakes harg hp hi hx hc, ?_, fun q n hn hq => ?_, rfl⟩,
    fun d hd => ⟨_, exec_descRead_live htakes harg hp hd, ?_, ?_⟩⟩
  · rw [getDesc_postResult, getDesc_setRg]
    exact getDesc_setDesc_same _ _ (ne_zero_of_validate hv) (canon_descs (s := s) hcanon)
  · rw [rg_postResult]
    refine rg_setRg_same _ _ _ ?_
    rw [setDesc_eq]
    exact canon_regs (s := s) hcanon
  · rw [getDesc_postResult, getDesc_setRg]
    exact getDesc_setDesc_ne _ hn harg hq (canon_descs (s := s) hcanon)
  · rw [postResult_descs, postResult_regs, postResult_mem, postResult_cache]
    refine congrArg (postResult · (dpage p.toNat) rOK 0x10) ?_
    conv => lhs; rw [setRg, setDesc_eq]
    rw [setRg_descs, setDesc_eq]
    rfl
  · rw [getDesc_postResult]
    exact getDesc_smDel_same (s := s) _ _ (canon_descs (s := s) hcanon)
  · rw [getDesc_postResult]
    exact getDesc_smDel_ne (s := s) hn harg hq (canon_descs (s := s) hcanon)
  all_goals
    obtain ⟨-, hwords, heq, -⟩ := rg_foldl_setRg (dpage p.toNat) 0x40 (fun k => BitVec.ofNat 32 (dF d (4 * k) 4)) 32
      (s := taken s (dpage p.toNat) 0x12 arg) (canon_regs (s := s) hcanon)
  · exact descStage_of_words hwords
  · rw [postResult_regs]
    exact congrArg (postResult · (dpage p.toNat) rOK 0x12) heq

end Sys2Proof.Machine


/-! Images and contexts (12 R386 to R402). -/

namespace Sys2Proof.Machine

theorem hasImage_of_parts {s u : State} (h : u.parts = s.parts) (p : Nat) : hasImage u p = hasImage s p := by
  rw [hasImage, hasImage, getPart, getPart, h]

theorem foldl_updTile_parts (f : Tile → Tile) (l : List Nat) (s : State) :
    (l.foldl (fun s t => updTile s t f) s).parts = s.parts :=
  List.foldlRecOn (motive := fun (u : State) => u.parts = s.parts) _ _ rfl (fun _ h _ _ => h)

theorem setDigest_parts (s : State) (p : Nat) (d : List Byte) : (setDigest s p d).parts = s.parts :=
  List.foldlRecOn (motive := fun (u : State) => u.parts = s.parts) _ _ rfl (fun _ h _ _ => h)

/-- What is dropped ahead of a launch is not the image. -/
theorem img_dropAhead {s : State} (p : Nat) (h : smRising none s.parts = true) :
    (getPart (dropAhead s p) p).img = (getPart s p).img := by
  have hp := foldl_updTile_parts (fun x => { x with ahead := [] }) (partTiles s p) s
  have hsame := getPart_updPart_same p (fun y => { y with fetchMode := none }) (hp.symm ▸ h)
  rw [dropAhead, hsame, getPart, hp]
  rfl

theorem hasImage_dropAhead_updPart {s : State} (p : Nat) {f : Part → Part} (h : smRising none s.parts = true)
    (hf : ∀ x, (f x).img = none) : hasImage (dropAhead (updPart s p f) p) p = false := by
  rw [hasImage, img_dropAhead p (updPart_rising p f h), getPart_updPart_same p f h, hf]
  rfl

/-- An image state emptied holds no image. -/
theorem hasImage_dropImage {s : State} (p : Nat) (h : smRising none s.parts = true) : hasImage (dropImage s p) p = false := by
  unfold dropImage
  cases himg : (getPart s p).img with
  | none => simp [hasImage, himg]
  | some i =>
    rw [hasImage_of_parts (setDigest_parts _ _ _), hasImage_setRg]
    exact hasImage_dropAhead_updPart p h (fun _ => rfl)

section
variable {s : State} {p : PartIx}

/-- A command of an image page that is taken, of an existing partition, acts on `taken`. -/
theorem imgCmd_takes {code : Nat} {refuse act : State → State} (h : takesCommand s (imgPage p.toNat) = true)
    (hp : p.toNat < nParts s) :
    imgCmd p.toNat code 0#24 refuse act s = .next (act (taken s (imgPage p.toNat) code 0#24)) := by
  rw [imgCmd, command0_takes h, nParts_taken, if_neg (by omega)]

theorem isDone_postRunning {q : Nat} (s : State) (echo : Nat) (h : smRising none s.pages = true) :
    isDone (postRunning s q echo) q = false := by
  have hf : fld (BitVec.ofNat 32 (echo % 256 * 65536)) 8 8 = 0 := by
    simp only [fld, bits, BitVec.toNat_ofNat]
    omega
  rw [isDone, postRunning, getPage_setPage_same _ _ h, hf]
  rfl

/-- The image that a load begins with: its allocation is sealed and nothing of it is known yet. -/
def loadingImg (s : State) (p : Nat) : Img :=
  { handle := (rg s (imgPage p) 0x40).toNat, base := ((getAlloc s p (rg s (imgPage p) 0x40).toNat).map (fun a => a.base)).getD 0
    size := 0, tiles := 0, group := false, modes := 0, relaxed := false, recOff := 0, recSize := 0, sched := [], sigOff := 0
    signed := false, digest := [], descs := [], loading := true }

/-- The state that runs a load which can begin. -/
def loadBegun (s : State) (p : Nat) : State :=
  setImgState (updPart (sealAlloc s p (rg s (imgPage p) 0x40).toNat true) p
    (fun x => { x with img := some (loadingImg s p), restored := false })) p 1

theorem exec_imageLoad_begins (h : takesCommand s (imgPage p.toNat) = true) (hp : p.toNat < nParts s)
    (hi : hasImage s p.toNat = false) (hr : partReady s p.toNat = true) :
    exec (.imageLoad p 0#24) s =
      .next (postRunning (loadBegun (taken s (imgPage p.toNat) 0x20 0#24) p.toNat) (imgPage p.toNat) 0x20) := by
  calc exec (.imageLoad p 0#24) s = execImageLoad p 0#24 s := rfl
    _ = _ := by
      have hr' : partReady (taken s (imgPage p.toNat) 0x20 0#24) p.toNat = true := hr
      rw [execImageLoad, imgCmd_takes h hp, hasImage_taken, hi, hr']
      rfl

theorem exec_imageUnload_idle (h : takesCommand s (imgPage p.toNat) = true) (hp : p.toNat < nParts s)
    (hr : isRunning s p.toNat = false) (ha : (getPart s p.toNat).armed = none) :
    exec (.imageUnload p 0#24) s =
      .next (postResult (dropImage (taken s (imgPage p.toNat) 0x21 0#24) p.toNat) (imgPage p.toNat) rOK 0x21) := by
  calc exec (.imageUnload p 0#24) s = execImageUnload p 0#24 s := rfl
    _ = _ := by
      rw [execImageUnload, imgCmd_takes h hp, isRunning_taken, getPart_taken, hr, ha]
      rfl
end

/-- Settles O24. -/
theorem imageCommands : Obligations.ImageCommands := by
  refine ⟨fun s p htakes hp => ⟨fun hi hr => ⟨_, exec_imageLoad_begins htakes hp hi hr, ?_, ?_, ?_, rfl, rfl⟩,
    fun hr ha => ⟨_, exec_imageUnload_idle htakes hp hr ha, ?_, rfl⟩⟩, fun s p i0 a hi hl hc hal => ?_⟩
  · have hcanon := taken_canon (imgPage p.toNat) 0x20 0#24 (takesCommand_canon htakes)
    have hparts : smRising none (sealAlloc (taken s (imgPage p.toNat) 0x20 0#24) p.toNat
      (rg (taken s (imgPage p.toNat) 0x20 0#24) (imgPage p.toNat) 0x40).toNat true).parts = true := canon_parts hcanon
    have himg := getPart_updPart_same p.toNat
      (fun x => { x with img := some (loadingImg (taken s (imgPage p.toNat) 0x20 0#24) p.toNat), restored := false }) hparts
    rw [hasImage_postRunning, hasImage, show getPart (loadBegun _ _) _ = _ from himg]
    rfl
  · exact isDone_postRunning _ _ (canon_pages
      (s := taken s (imgPage p.toNat) 0x20 0#24) (taken_canon _ _ _ (takesCommand_canon htakes)))
  · rw [rgF_postRunning]
    exact rgF_setRgF_same (canon_regs (s := s) (takesCommand_canon htakes)) (by decide) (by decide) (by decide)
  · rw [hasImage_postResult]
    exact hasImage_dropImage _ (canon_parts (taken_canon _ _ _ (takesCommand_canon htakes)))
  · calc exec (.imageLoadComplete p) s = execImageLoadComplete p s := rfl
      _ = _ := by
        simp only [execImageLoadComplete, hi, hl, hc, hal, Bool.and_self, guarded, if_true]
        congr 1
        cases imgCheck s p.toNat (readHeader s a.base) a.size (imgMade s i0.handle (readHeader s a.base)) <;> rfl

/-- Settles O25. -/
theorem contextCommands : Obligations.ContextCommands := by
  refine fun s u p a h => ⟨fun htakes hp hu hb hi ha hsize => ?_, fun htakes hp hu hb hi => ?_, fun hu hs => ?_, fun hu hs => ?_⟩
  · subst hu
    calc exec (.ctxSave p 0#24) s = execCtxSave p 0#24 s := rfl
      _ = _ := by
        rw [execCtxSave, imgCmd_takes htakes hp, hb, hi]
        simp only [Bool.false_eq_true, if_false, Bool.not_true, ha, if_neg (Nat.not_lt.mpr hsize), ctxWrite]
  · have hexec : exec (.ctxRestore p 0#24) s = .next (match ctxCheck u p.toNat with
        | some (st, item, code) => postResult (imgFail u p.toNat st item) (imgPage p.toNat) code 0x23
        | none => postRunning (updPart (ctxApply u p.toNat (readCtx u
            (((getAlloc u p.toNat (ctxHandle u p.toNat)).map (fun a => a.base)).getD 0))) p.toNat
            (fun x => { x with restoring := some (ctxHandle u p.toNat) })) (imgPage p.toNat) 0x23) := by
      subst hu
      calc exec (.ctxRestore p 0#24) s = execCtxRestore p 0#24 s := rfl
        _ = _ := by
          rw [execCtxRestore, imgCmd_takes htakes hp, hb, hi]
          rfl
    refine ⟨fun stage item code hc => ?_, fun hc ha => ?_⟩
    · rw [hexec, hc]
    · rw [hexec, hc, ha]
      rfl
  · subst hu
    calc exec (.ctxSaveComplete p) s = execCtxSaveComplete p s := rfl
      _ = _ := by simp [execCtxSaveComplete, guarded, hs]
  · subst hu
    calc exec (.ctxRestoreComplete p) s = execCtxRestoreComplete p s := rfl
      _ = _ := by simp [execCtxRestoreComplete, guarded, hs]

end Sys2Proof.Machine


/-! Allocations (14 R431 to R435). -/

namespace Sys2Proof.Machine

theorem rg64_setRg64_same {s : State} (p o : Nat) {v : Nat} (hv : v < 2 ^ 64) (h : smRising none s.regs = true) :
    rg64 (setRg64 s p o v) p o = v := by
  rw [rg64, setRg64, rg_setRg_same _ _ _ (smRising_smSet _ _ h), rg_setRg_ne _ (by omega) (smRising_smSet _ _ h),
    rg_setRg_same _ _ _ h, BitVec.toNat_ofNat, BitVec.toNat_ofNat]
  omega

theorem rg_setRg64_ne {s : State} {p o q k : Nat} (v : Nat) (h1 : q * 4096 + k ≠ p * 4096 + o)
    (h2 : q * 4096 + k ≠ p * 4096 + (o + 4)) (h : smRising none s.regs = true) : rg (setRg64 s p o v) q k = rg s q k := by
  rw [setRg64, rg_setRg_ne _ h2 (smRising_smSet _ _ h), rg_setRg_ne _ h1 h]

/-- A register written changes the registers alone. -/
theorem setRg_regsOnly {s t : State} (p o : Nat) (v : Word) (h : t = { s with regs := t.regs }) :
    setRg t p o v = { s with regs := (setRg t p o v).regs } :=
  congrArg (fun u : State => { u with regs := (setRg t p o v).regs }) h

theorem setRg64_regsOnly {s t : State} (p o v : Nat) (h : t = { s with regs := t.regs }) :
    setRg64 t p o v = { s with regs := (setRg64 t p o v).regs } :=
  setRg_regsOnly _ _ _ (setRg_regsOnly _ _ _ h)

theorem setRgF_regsOnly {s t : State} (p o hi lo v : Nat) (h : t = { s with regs := t.regs }) :
    setRgF t p o hi lo v = { s with regs := (setRgF t p o hi lo v).regs } := setRg_regsOnly _ _ _ h

theorem setRg64_rising {s : State} (p o v : Nat) (h : smRising none s.regs = true) :
    smRising none (setRg64 s p o v).regs = true := smRising_smSet _ _ (smRising_smSet _ _ h)

theorem isDone_postResult_same {s : State} (p code echo : Nat) (h : smRising none s.pages = true) :
    isDone (postResult s p code echo) p = true := by
  have hf : fld (BitVec.ofNat 32 (code % 256 + 0x100 + echo % 256 * 65536)) 8 8 = 1 := by
    simp only [fld, bits, BitVec.toNat_ofNat]
    omega
  rw [isDone, postResult, getPage_setPage_same _ _ h, hf]
  rfl

theorem fld_bit_eq_one (w : Word) (i : Nat) : (fld w i i == 1) = w.getLsbD i := by
  rw [fld, bits, BitVec.getLsbD, Nat.testBit_eq_decide_div_mod_eq, show i + 1 - i = 1 by omega, Nat.pow_one]
  rfl

/-- A key of a map whose entries are changed by a function that keeps the default, and those at the default dropped. -/
theorem smGet_map_filter {V : Type} (d : V) (f : V → V) (p : V → Bool) {m : List (Nat × V)} (hf : f d = d)
    (hp : ∀ v, p v = false → v = d) (hm : smRising none m = true) (k : Nat) :
    smGet (fun _ => d) ((m.map (fun e => (e.1, f e.2))).filter (fun e => p e.2)) k = f (smGet (fun _ => d) m k) := by
  induction m with
  | nil => exact hf.symm
  | cons e m ih =>
    obtain ⟨j, w⟩ := e
    have hr : smRising (some j) m = true := (smRising_cons.mp hm).2
    have ih := ih (smRising_none hr)
    rw [List.map_cons, List.filter_cons]
    by_cases hw : p (f w) = true
    · rw [if_pos hw, smGet, smGet]
      split
      · rfl
      · split
        · exact hf.symm
        · exact ih
    · have hd : f w = d := hp _ (by simpa using hw)
      rw [if_neg hw, ih, smGet]
      split
      · next hk => subst hk; rw [smGet_low _ hr (Nat.le_refl _), hf, hd]
      · split
        · next hlt => rw [smGet_low _ hr (by omega)]
        · rfl

theorem getSet_dropRange {s : State} (base size k : Nat) (h : smRising none s.cache = true) :
    getSet (dropRange s base size) k = (getSet s k).filter (fun l => !rangesMeet l.addr 72 base size) :=
  smGet_map_filter [] (fun l : List CLine => l.filter (fun l => !rangesMeet l.addr 72 base size)) (fun l => !l.isEmpty) rfl
    (fun v hv => by simpa using hv) h k

theorem lineAddr_le (b : Nat) : lineAddr b ≤ b ∧ b < lineAddr b + 72 := by
  have ht : tierStart b ≤ b := by
    unfold tierStart isS
    split
    · next h => simpa using h
    · exact Nat.zero_le _
  have hd := Nat.div_add_mod (b - tierStart b) 72
  have hm := Nat.mod_lt (b - tierStart b) (show 0 < 72 by decide)
  unfold lineAddr lineIx
  omega

theorem isPoison_filter {m : Mem} {p : Nat × Bool → Bool} {a : Nat} (hm : m.wf = true) (hp : ∀ v, p (a, v) = true) :
    isPoison { m with poison := m.poison.filter p } a = isPoison m a := by
  simp only [Mem.wf, Bool.and_eq_true] at hm
  exact smGet_filter _ hp (smWf_rising hm.2)

theorem isPoison_filter_out {m : Mem} {p : Nat × Bool → Bool} {a : Nat} (hp : ∀ v, p (a, v) = false) :
    isPoison { m with poison := m.poison.filter p } a = false := by
  rw [isPoison]
  simp only
  induction m.poison with
  | nil => rfl
  | cons e l ih =>
    obtain ⟨j, w⟩ := e
    rw [List.filter_cons]
    by_cases hj : p (j, w) = true
    · have hk : a ≠ j := by rintro rfl; simp [hp] at hj
      rw [if_pos hj, smGet, if_neg hk]
      split
      · rfl
      · exact ih
    · rw [if_neg hj, ih]

theorem memByte_blank_inside {m : Mem} {base size a : Nat} (h : base ≤ a ∧ a < base + size) :
    memByte (memBlank m base size 0) a = 0 := by
  have hd : memDflt (memBlank m base size 0) a = 0 := by simp [memDflt, memBlank, h]
  have hget : ∀ l : List (Nat × Byte), smGet (memDflt (memBlank m base size 0))
      (l.filter (fun c => !decide (base ≤ c.1 ∧ c.1 < base + size))) a = 0 := by
    intro l
    induction l with
    | nil => exact hd
    | cons e l ih =>
      obtain ⟨j, w⟩ := e
      rw [List.filter_cons]
      split
      · next hj =>
        have hk : a ≠ j := by rintro rfl; simp at hj; omega
        rw [smGet, if_neg hk]
        split
        · exact hd
        · exact ih
      · exact ih
  exact hget m.cells

theorem memByte_blank_outside {m : Mem} {base size stamp a : Nat} (hm : m.wf = true) (h : ¬(base ≤ a ∧ a < base + size)) :
    memByte (memBlank m base size stamp) a = memByte m a := by
  simp only [Mem.wf, Bool.and_eq_true] at hm
  have hdflt : ∀ (d d' : Nat → Byte) (l : List (Nat × Byte)), d a = d' a → smGet d l a = smGet d' l a := by
    intro d d' l hd
    induction l with
    | nil => exact hd
    | cons e l ih => simp only [smGet, ih, hd]
  refine (hdflt _ _ _ (memDflt_blank h)).trans (smGet_filter _ (fun v => ?_) (smWf_rising hm.1))
  simp only [decide_eq_false h, Bool.not_false]

/-- What the fill counts does not touch memory. -/
theorem kept_countFill (s : State) (base L : Nat) : Kept ⟨s, false, false⟩ (countFill s base L) :=
  .foldl (fun _ _ hu => hu.countBy) (.refl s false false)

/-- Memory as a range's fill with 00h leaves it. -/
def zeroed (s : State) (base size : Nat) : State :=
  { dropRange s base size with
    mem := { memBlank s.mem base (72 * ceilDiv size 72) 0 with
      poison := s.mem.poison.filter (fun e => !rangesMeet e.1 72 base size) } }

theorem zeroRange_eq (s : State) (base size : Nat) :
    zeroRange s base size = countFill (zeroed s base size) base (ceilDiv size 72) := rfl

theorem peekByte_zeroRange (s : State) (base size b : Nat) :
    peekByte (zeroRange s base size) b = peekByte (zeroed s base size) b := by
  rw [zeroRange_eq]
  exact (kept_countFill (zeroed s base size) base (ceilDiv size 72)).peekByte rfl b

theorem cached_zeroed_inside {s : State} {base size a : Nat} (hc : s.canon = true) (h : rangesMeet a 72 base size = true) :
    cached (zeroed s base size) a = none := by
  have hset : getSet (zeroed s base size) (setKey a) = _ := getSet_dropRange base size (setKey a) (canon_cache hc)
  rw [cached, hset, List.find?_eq_none]
  intro l hl hla
  have ha : l.addr = a := by simpa using hla
  have hk := (List.mem_filter.mp hl).2
  simp [ha, h] at hk

theorem cached_zeroed_outside {s : State} {base size a : Nat} (hc : s.canon = true) (h : rangesMeet a 72 base size = false) :
    cached (zeroed s base size) a = cached s a := by
  have hset : getSet (zeroed s base size) (setKey a) = _ := getSet_dropRange base size (setKey a) (canon_cache hc)
  rw [cached, cached, hset, List.find?_filter]
  congr 1
  funext l
  by_cases hla : l.addr = a
  · simp [hla, h]
  · simp [hla]

theorem le_ceilDiv_mul (n : Nat) : n ≤ 72 * ceilDiv n 72 := by
  unfold ceilDiv
  omega

/-- Every byte of a range filled with 00h reads 00h. -/
theorem peekByte_zeroRange_inside {s : State} {base size b : Nat} (hc : s.canon = true) (h1 : base ≤ b) (h2 : b < base + size) :
    peekByte (zeroRange s base size) b = 0 := by
  have hl := lineAddr_le b
  have hmeet : rangesMeet (lineAddr b) 72 base size = true := by simp [rangesMeet]; omega
  have hsize := le_ceilDiv_mul size
  have hpoison : isPoison (zeroed s base size).mem (lineAddr b) = false :=
    isPoison_filter_out (m := memBlank s.mem base (72 * ceilDiv size 72) 0) (fun v => by simp [hmeet])
  have hmem : memByte (zeroed s base size).mem b = 0 := memByte_blank_inside (m := s.mem) ⟨h1, by omega⟩
  rw [peekByte_zeroRange, peekByte, cached_zeroed_inside hc hmeet]
  simp [hpoison, hmem]

/-- A byte of a line that the fill does not reach reads as before. -/
theorem peekByte_zeroRange_outside {s : State} {base size b : Nat} (hc : s.canon = true)
    (h : rangesMeet (lineAddr b) 72 base (72 * ceilDiv size 72) = false) :
    peekByte (zeroRange s base size) b = peekByte s b := by
  have hl := lineAddr_le b
  have hsize := le_ceilDiv_mul size
  have hout : ¬(base ≤ b ∧ b < base + 72 * ceilDiv size 72) := by simp [rangesMeet] at h; omega
  have hmeet : rangesMeet (lineAddr b) 72 base size = false := by simp [rangesMeet] at h ⊢; omega
  have hwf : s.mem.wf = true := ((canon_iff s).mp hc).1
  have hpoison : isPoison (zeroed s base size).mem (lineAddr b) = isPoison s.mem (lineAddr b) :=
    isPoison_filter (m := memBlank s.mem base (72 * ceilDiv size 72) 0) (memBlank_wf _ _ _ hwf) (fun v => by simp [hmeet])
  have hmem : memByte (zeroed s base size).mem b = memByte s.mem b := memByte_blank_outside (m := s.mem) hwf hout
  rw [peekByte_zeroRange, peekByte, peekByte, cached_zeroed_outside hc hmeet, hpoison, hmem]

/-- The state of an `ALLOC_CREATE` that passes, before its result: the allocation is listed and `ALLOC_FAIL` is 0. -/
def allocated (s : State) (p : Nat) : State :=
  setRg { s with allocs := s.allocs ++ [allocAsked s p] } (apage p) 0x5C 0

section
variable {s : State} {p : PartIx}

theorem exec_allocCreate_passes (h : takesCommand s (apage p.toNat) = true) (ht : tierReady s (allocTierS s p.toNat) = true)
    (hc : allocCheck s p.toNat = none) :
    exec (.allocCreate p 0#24) s = .next (
      if rgF (allocated (taken s (apage p.toNat) 0x30 0#24) p.toNat) (apage p.toNat) 0x44 1 1 = 1 then
        postRunning (updPart (allocated (taken s (apage p.toNat) 0x30 0#24) p.toNat) p.toNat
          (fun x => { x with zeroing := some (allocAsked s p.toNat).handle })) (apage p.toNat) 0x30
      else postResult (blankRange (allocated (taken s (apage p.toNat) 0x30 0#24) p.toNat) (allocAsked s p.toNat).base
        (allocAsked s p.toNat).size) (apage p.toNat) rOK 0x30) := by
  calc exec (.allocCreate p 0#24) s = execAllocCreate p 0#24 s := rfl
    _ = _ := by
      have ht' : tierReady (taken s (apage p.toNat) 0x30 0#24) (allocTierS (taken s (apage p.toNat) 0x30 0#24) p.toNat) = true := ht
      have hc' : allocCheck (taken s (apage p.toNat) 0x30 0#24) p.toNat = none := hc
      rw [execAllocCreate, command0_takes h]
      simp only [ht', hc', Bool.not_true, Bool.false_eq_true, if_false]
      rfl

theorem exec_allocRelease_free {a : Alloc} (h : takesCommand s (apage p.toNat) = true)
    (ha : getAlloc s p.toNat (allocHandle s p.toNat) = some a) (hs : a.sealed = false) (hn : allocNamed s p.toNat a.handle = false) :
    ∃ v : State, v.pages = (taken s (apage p.toNat) 0x31 0#24).pages ∧
      exec (.allocRelease p 0#24) s = .next (postResult { v with
        allocs := s.allocs.filter (fun b => !(b.part == p.toNat && b.handle == a.handle)) } (apage p.toNat) rOK 0x31) := by
  refine ⟨blankRange (dropRange (taken s (apage p.toNat) 0x31 0#24) a.base a.size) a.base a.size, rfl, ?_⟩
  calc exec (.allocRelease p 0#24) s = execAllocRelease p 0#24 s := rfl
    _ = _ := by
      have ha' : getAlloc (taken s (apage p.toNat) 0x31 0#24) p.toNat (allocHandle (taken s (apage p.toNat) 0x31 0#24) p.toNat) = some a := ha
      have hn' : allocNamed (taken s (apage p.toNat) 0x31 0#24) p.toNat a.handle = false := hn
      rw [execAllocRelease, command0_takes h]
      simp only [ha', hn', hs, Bool.or_self, Bool.false_eq_true, if_false]
      rfl

theorem exec_allocQuery_found {a : Alloc} (h : takesCommand s (apage p.toNat) = true)
    (ha : getAlloc s p.toNat (allocHandle s p.toNat) = some a) :
    exec (.allocQuery p 0#24) s = .next (postResult (setRg64 (setRg64 (setRgF (taken s (apage p.toNat) 0x32 0#24) (apage p.toNat)
      0x44 0 0 a.tierS.toNat) (apage p.toNat) 0x48 a.base) (apage p.toNat) 0x50 a.size) (apage p.toNat) rOK 0x32) := by
  calc exec (.allocQuery p 0#24) s = execAllocQuery p 0#24 s := rfl
    _ = _ := by
      have ha' : getAlloc (taken s (apage p.toNat) 0x32 0#24) p.toNat (allocHandle (taken s (apage p.toNat) 0x32 0#24) p.toNat) = some a := ha
      rw [execAllocQuery, command0_takes h]
      simp only [ha']

end

/-- The allocation of a handle that no list entry keeps is gone. -/
theorem getAlloc_filter_same (s : State) (p h : Nat) :
    getAlloc { s with allocs := s.allocs.filter (fun b => !(b.part == p && b.handle == h)) } p h = none := by
  rw [getAlloc, List.find?_eq_none]
  intro b hb
  have hout := (List.mem_filter.mp hb).2
  rw [Bool.not_eq_true'] at hout
  simp only [hout, Bool.false_eq_true, not_false_iff]

/-- The other handles name what they named. -/
theorem getAlloc_filter_ne (s : State) {p h q k : Nat} (hq : (q, k) ≠ (p, h)) :
    getAlloc { s with allocs := s.allocs.filter (fun b => !(b.part == p && b.handle == h)) } q k = getAlloc s q k := by
  rw [getAlloc, getAlloc, List.find?_filter]
  congr 1
  funext b
  by_cases hb : b.part = q ∧ b.handle = k
  · obtain ⟨rfl, rfl⟩ := hb
    have hne : (b.part == p && b.handle == h) = false := Bool.eq_false_iff.mpr fun he => by
      rw [Bool.and_eq_true, beq_iff_eq, beq_iff_eq] at he
      obtain ⟨hpart, hhandle⟩ := he
      exact hq (by rw [hpart, hhandle])
    simp [hne]
  · have hb' : (b.part == q && b.handle == k) = false := by simpa using hb
    simp [hb']

theorem result_postResult_same {s : State} (p code echo : Nat) (h : smRising none s.pages = true) :
    (getPage (postResult s p code echo) p).result = BitVec.ofNat 32 (code % 256 + 0x100 + echo % 256 * 65536) := by
  rw [postResult, getPage_setPage_same _ _ h]


/-- The state in which a fill's command has ended. -/
def fillEnded (z : State) (p : Nat) : State :=
  postDone (updPart z p (fun x => { x with zeroing := none })) (apage p) rOK 0x30

theorem fillEnded_spec {z : State} (p : Nat) (h : z.canon = true) :
    (getPart (fillEnded z p) p).zeroing = none ∧ (∀ b, peekByte (fillEnded z p) b = peekByte z b) ∧
      (getPage (fillEnded z p) (apage p)).result = 0x300100 := by
  refine ⟨?_, fun _ => rfl, ?_⟩
  · rw [fillEnded, getPart_postDone, getPart_updPart_same _ _ (canon_parts h)]
  · rw [fillEnded, postDone, getPage_setPage_same (s := updPart z p _) _ _ (canon_pages (s := z) h)]
    rfl

/-- The fill that completes leaves every byte of the range 00h and the lines outside it as they were. -/
theorem allocZeroComplete_fills {s : State} {p : PartIx} (h : Nat) (a : Alloc) (hcanon : s.canon = true)
    (hz : (getPart s p.toNat).zeroing = some h) (ha : getAlloc s p.toNat h = some a) :
    ∃ u, exec (.allocZeroComplete p) s = .next u ∧ (getPart u p.toNat).zeroing = none ∧
      (∀ b, a.base ≤ b → b < a.base + a.size → peekByte u b = 0) ∧
      (∀ b, rangesMeet (lineAddr b) 72 a.base (72 * ceilDiv a.size 72) = false → peekByte u b = peekByte s b) ∧
      (getPage u (apage p.toNat)).result = 0x300100 := by
  have hcz : (zeroRange s a.base a.size).canon = true := (Kept.zeroRange (F := ⟨s, true, true⟩) (.refl s true true)).2.1 hcanon
  have hexec : exec (.allocZeroComplete p) s = .next (fillEnded (zeroRange s a.base a.size) p.toNat) := by
    calc exec (.allocZeroComplete p) s = execAllocZeroComplete p s := rfl
      _ = _ := by simp only [execAllocZeroComplete, hz, ha, fillEnded]
  obtain ⟨hpart, hpeek, hres⟩ := fillEnded_spec p.toNat hcz
  exact ⟨_, hexec, hpart, fun b h1 h2 => (hpeek b).trans (peekByte_zeroRange_inside hcanon h1 h2),
    fun b hb => (hpeek b).trans (peekByte_zeroRange_outside hcanon hb), hres⟩

/-- Settles O26. -/
theorem allocationCommands : Obligations.AllocationCommands := by
  intro s p
  refine ⟨fun htakes => ⟨fun hr hc => ⟨_, exec_allocCreate_passes htakes hr hc, ?_⟩, fun a ha hs hn => ?_,
    fun a ha hb hz => ⟨_, exec_allocQuery_found htakes ha, ?_, ?_, ?_, ?_⟩⟩, fun h a => allocZeroComplete_fills h a⟩
  · have hregs : smRising none (taken s (apage p.toNat) 0x30 0#24).regs = true := canon_regs (s := s) (takesCommand_canon htakes)
    have hpages := canon_pages (taken_canon (apage p.toNat) 0x30 0#24 (takesCommand_canon htakes))
    have hfail : rg (allocated (taken s (apage p.toNat) 0x30 0#24) p.toNat) (apage p.toNat) 0x5C = 0 := rg_setRg_same _ _ _ hregs
    have hzero : (rgF (allocated (taken s (apage p.toNat) 0x30 0#24) p.toNat) (apage p.toNat) 0x44 1 1 == 1) =
        (rg s (apage p.toNat) 0x44).getLsbD 1 := by
      have h44 : rg (allocated (taken s (apage p.toNat) 0x30 0#24) p.toNat) (apage p.toNat) 0x44 = rg s (apage p.toNat) 0x44 :=
        rg_setRg_ne _ (by omega) hregs
      rw [rgF, h44, fld_bit_eq_one]
    by_cases hif : rgF (allocated (taken s (apage p.toNat) 0x30 0#24) p.toNat) (apage p.toNat) 0x44 1 1 = 1
    · have hbit : (rg s (apage p.toNat) 0x44).getLsbD 1 = true := by rw [← hzero, hif]; rfl
      rw [if_pos hif, hbit]
      exact ⟨rfl, hfail, isDone_postRunning _ _ hpages, rfl⟩
    · have hbit : (rg s (apage p.toNat) 0x44).getLsbD 1 = false := by rw [← hzero]; simpa using hif
      rw [if_neg hif, hbit]
      exact ⟨rfl, hfail, isDone_postResult_same _ _ _ hpages, rfl⟩
  · obtain ⟨v, hpages, hexec⟩ := exec_allocRelease_free htakes ha hs hn
    refine ⟨_, hexec, ?_, fun q k hq => ?_, ?_⟩
    · rw [getAlloc_postResult]
      exact getAlloc_filter_same { v with allocs := s.allocs } _ _
    · rw [getAlloc_postResult]
      exact getAlloc_filter_ne { v with allocs := s.allocs } hq
    · refine (result_postResult_same _ _ _ ?_).trans rfl
      rw [hpages]
      exact canon_pages (taken_canon _ _ _ (takesCommand_canon htakes))
  all_goals
    have hregs : smRising none (setRgF (taken s (apage p.toNat) 0x32 0#24) (apage p.toNat) 0x44 0 0 a.tierS.toNat).regs = true :=
      smRising_smSet _ _ (canon_regs (s := s) (takesCommand_canon htakes))
  · rw [rg64_postResult, rg64, rg_setRg64_ne _ (by omega) (by omega) (setRg64_rising _ _ _ hregs),
      rg_setRg64_ne _ (by omega) (by omega) (setRg64_rising _ _ _ hregs)]
    exact rg64_setRg64_same _ _ hb hregs
  · rw [rg64_postResult]
    exact rg64_setRg64_same _ _ hz (setRg64_rising _ _ _ hregs)
  · rw [rgF_postResult, rgF, rg_setRg64_ne _ (by omega) (by omega) (setRg64_rising _ _ _ hregs),
      rg_setRg64_ne _ (by omega) (by omega) hregs]
    exact rgF_setRgF_same (canon_regs (s := s) (takesCommand_canon htakes)) (by decide) (by decide) (by cases a.tierS <;> decide)
  · rw [postResult_regs]
    exact congrArg (postResult · (apage p.toNat) rOK 0x32)
      (setRg64_regsOnly _ _ _ (setRg64_regsOnly _ _ _ (setRgF_regsOnly _ _ _ _ _ rfl)))

end Sys2Proof.Machine


/-! Row repair by the host (14 R454 to R460) and the stacks' temperature (14 R450). -/

namespace Sys2Proof.Machine

/-- Settles O27. -/
theorem remapCommands : Obligations.RemapCommands := by
  refine fun s u k arg r channel row => ⟨fun htakes hu hr hc => ?_, fun htakes harg hr => ?_, fun hc errs hu => ?_⟩
  · subst hu
    have hrec : BitVec.ofNat 64 (rg64 (taken s (0x40 + k.toNat) 0x40 0#24) (0x40 + k.toNat) 0x60) = r := by
      rw [← hr, BitVec.ofNat_toNat, BitVec.setWidth_eq]
    calc exec (.remapAdd k 0#24) s = execRemapAdd k 0#24 s := rfl
      _ = _ := by
        rw [execRemapAdd, command0_takes htakes]
        simp only [hrec, hc]
  · have hexec : exec (.remapRead k arg) s = .next (postResult (setRg64 (taken s (0x40 + k.toNat) 0x41 arg) (0x40 + k.toNat) 0x60
        r.toNat) (0x40 + k.toNat) rOK 0x41) := by
      calc exec (.remapRead k arg) s = execRemapRead k arg s := rfl
        _ = _ := by
          have hr' : (remaps (getCtrl (taken s (0x40 + k.toNat) 0x41 arg) k.toNat))[arg.toNat]? = some r := hr
          rw [execRemapRead, command_takes htakes]
          simp only [if_neg (Nat.not_le.mpr harg), hr']
    refine ⟨_, hexec, ?_, ?_⟩
    · rw [rg64_postResult]
      exact rg64_setRg64_same _ _ r.isLt (canon_regs (s := s) (takesCommand_canon htakes))
    · rw [postResult_regs]
      exact congrArg (postResult · (0x40 + k.toNat) rOK 0x41) (setRg64_regsOnly _ _ _ rfl)
  · subst hu
    calc exec (.remapCopyDone k channel row errs) s = execRemapCopyDone k channel row errs s := rfl
      _ = _ := by
        simp only [execRemapCopyDone, hc, guarded, if_true]

/-- A report of stack 0 of tier F after reset sets the controller of page 040h and leaves that of page 048h, though 8 is 0
modulo 8 as well. -/
theorem temp_of_report :
    ∃ t, exec (.stackTemperatureReport false 0 1) State.reset = .next t ∧ (getCtrl t 8).temp = 0 := by
  refine ⟨_, rfl, ?_⟩
  decide

/-- Refutes O28: its statement compares the controller's number with the stack's modulo 8 (the sum is one of 3-bit vectors),
so that it claims of a report of stack 0 of tier F that it sets controller 8. -/
theorem not_controllerSteps : ¬ Obligations.ControllerSteps := by
  intro h
  obtain ⟨t, ht, htemp⟩ := temp_of_report
  have h8 := (h State.reset State.reset State.reset).2.2.2 false 0 8 1 0 false false rfl (by decide) (by decide) (by decide)
    (by decide)
  rw [ht] at h8
  have hnext := Host.Outcome.next.inj h8
  have htemp8 : (getCtrl t 8).temp = 1 := by
    rw [hnext]
    decide
  omega

end Sys2Proof.Machine


/-! The stack cache stays sound (14 R442): every access that names a line puts lines of the proper form into their own sets. -/

namespace Sys2Proof.Machine

/-- An address is that of a whole line of memory, whatever the clocks do. -/
def wholeLine (s : State) (a : Nat) : Prop := inMem s a = true ∧ isLineAddr a = true ∧ lineIx a < tierLines s (isS a)

/-- What `cacheOk` asks of a set's lines. -/
def setOk (s : State) (k : Nat) (l : List CLine) : Prop :=
  (∀ x ∈ l, setKey x.addr = k ∧ inMem s x.addr = true ∧ isLineAddr x.addr = true ∧
    lineIx x.addr < tierLines s (isS x.addr) ∧ x.data.length = 72) ∧ (l.map (·.addr)).Nodup

/-- From a state on: the maps are in canonical form, the cache is sound, and the device is the same. -/
structure LinesSound (s₀ s : State) : Prop where
  canon : s.canon = true
  cache : s.cacheOk
  flash : FlashIs s₀.flash s

theorem inMem_of_flash {s t : State} (hf : t.flash = s.flash) : inMem t = inMem s := by
  funext a
  unfold inMem sSize
  rw [hf]

theorem tierLines_of_flash {s t : State} (hf : t.flash = s.flash) : tierLines t = tierLines s := by
  funext b
  unfold tierLines sSize
  rw [hf]

theorem setOk_of_flash {s t : State} {k : Nat} {l : List CLine} (hf : t.flash = s.flash) (h : setOk s k l) : setOk t k l := by
  rw [setOk, inMem_of_flash hf, tierLines_of_flash hf]
  exact h

theorem wholeLine_of_flash {s t : State} {a : Nat} (hf : t.flash = s.flash) (h : wholeLine s a) : wholeLine t a := by
  rw [wholeLine, inMem_of_flash hf, tierLines_of_flash hf]
  exact h

/-- A set's soundness is one of what its lines show. -/
theorem setOk_of_shown {s : State} {k : Nat} {l m : List CLine} (h : l.map CLine.shown = m.map CLine.shown)
    (hm : setOk s k m) : setOk s k l := by
  obtain ⟨hall, hnodup⟩ := hm
  have haddr : ∀ x : List CLine, x.map (·.addr) = (x.map CLine.shown).map (·.1) := fun x => by rw [List.map_map]; rfl
  refine ⟨fun x hx => ?_, by rw [haddr, h, ← haddr]; exact hnodup⟩
  have hx' : x.shown ∈ m.map CLine.shown := h ▸ List.mem_map_of_mem hx
  obtain ⟨y, hy, hxy⟩ := List.mem_map.mp hx'
  simp only [CLine.shown, Prod.mk.injEq] at hxy
  obtain ⟨haddr, hdata, -⟩ := hxy
  rw [← haddr, ← hdata]
  exact hall y hy

theorem setOk_sublist {s : State} {k : Nat} {l m : List CLine} (h : l.Sublist m) (hm : setOk s k m) : setOk s k l := by
  obtain ⟨hall, hnodup⟩ := hm
  exact ⟨fun x hx => hall x (h.subset hx), hnodup.sublist (h.map _)⟩

/-- A line of its own address joins a set that holds no other of the address. -/
theorem setOk_cons {s : State} {x : CLine} {l : List CLine} (hw : wholeLine s x.addr) (hd : x.data.length = 72)
    (hx : ∀ y ∈ l, y.addr ≠ x.addr) (hl : setOk s (setKey x.addr) l) : setOk s (setKey x.addr) (x :: l) := by
  obtain ⟨hmem, hline, hix⟩ := hw
  obtain ⟨hall, hnodup⟩ := hl
  refine ⟨fun y hy => ?_, ?_⟩
  · rcases List.mem_cons.mp hy with rfl | hy
    · exact ⟨rfl, hmem, hline, hix, hd⟩
    · exact hall y hy
  · rw [List.map_cons, List.nodup_cons]
    refine ⟨fun hm => ?_, hnodup⟩
    obtain ⟨y, hy, he⟩ := List.mem_map.mp hm
    exact hx y hy he

theorem setOk_snoc {s : State} {x : CLine} {l : List CLine} (hw : wholeLine s x.addr) (hd : x.data.length = 72)
    (hx : ∀ y ∈ l, y.addr ≠ x.addr) (hl : setOk s (setKey x.addr) l) : setOk s (setKey x.addr) (l ++ [x]) := by
  have h := setOk_cons hw hd hx hl
  obtain ⟨hall, hnodup⟩ := h
  refine ⟨fun y hy => hall y ?_, ?_⟩
  · simpa [or_comm] using hy
  · rw [List.map_append, List.map_singleton]
    exact (List.perm_append_singleton x.addr _).symm.nodup hnodup

theorem filter_addr_ne {l : List CLine} {a : Nat} : ∀ y ∈ l.filter (fun y => decide (y.addr ≠ a)), y.addr ≠ a := fun y hy => by
  simpa using (List.mem_filter.mp hy).2

/-! Every read of a line gives 72 bytes. -/

theorem length_memBytes (m : Mem) (a n : Nat) : (memBytes m a n).length = n := by
  induction n generalizing a with
  | zero => rfl
  | succ n ih => simp [memBytes, ih]

theorem length_errWord (err : List (BitVec 7 × Byte)) : (errWord err).length = 80 := by
  refine List.foldlRecOn (motive := fun (l : List Byte) => l.length = 80) _ _ rfl (fun l hl e _ => ?_)
  rw [List.length_set, hl]

theorem length_checkSymbols (d : List Byte) : (checkSymbols d).length = 8 := by
  rw [checkSymbols, List.length_map]
  refine List.foldlRecOn (motive := fun (l : List Nat) => l.length = 8) _ _ rfl (fun l _ e _ => ?_)
  simp [divStep]

theorem length_slice (l : List Byte) (i n : Nat) : (slice l i n).length = n := by
  simp only [slice, List.length_append, List.length_take, List.length_drop, List.length_replicate]
  omega

theorem length_codeword (d : List Byte) : (codeword d).length = 80 := by
  rw [codeword, List.length_append, length_slice, length_checkSymbols]

/-- A miscorrected word keeps its length. -/
theorem length_nearCodeword {w c : List Byte} {k : Nat} (h : nearCodeword w = some (k, c)) : c.length = w.length := by
  have hset : ∀ (w : List Byte) s v, (changeSymbol w s v).length = w.length := fun w s v => by simp [changeSymbol]
  unfold nearCodeword at h
  extract_lets s0 s1 at h
  split at h
  · next c' hc =>
    obtain ⟨i, -, rfl⟩ := List.mem_map.mp (List.mem_of_find?_eq_some hc)
    simp only [Option.some.injEq, Prod.mk.injEq] at h
    rw [← h.2, hset]
  · obtain ⟨p, -, hp⟩ := List.exists_of_findSome?_eq_some h
    dsimp only at hp
    split at hp
    · simp only [Option.some.injEq, Prod.mk.injEq] at hp
      rw [← hp.2, hset, hset]
    · cases hp

/-- A decoder gives lines of 72 bytes of one of 72 bytes. -/
theorem length_lineDecode {d : List Byte} {err : List (BitVec 7 × Byte)} (hd : d.length = 72) :
    (∀ l, lineDecode d err = .valid l → l.length = 72) ∧ ∀ l n, lineDecode d err = .corrected l n → l.length = 72 := by
  have hw : (addWords (codeword d) (errWord err)).length = 80 := by
    rw [addWords, List.length_zipWith, length_codeword, length_errWord]
    rfl
  unfold lineDecode
  extract_lets n w
  split
  · exact ⟨fun l hl => by (cases hl; exact hd), nofun⟩
  · split
    · exact ⟨nofun, fun l n hl => by (cases hl; exact hd)⟩
    · split
      · exact ⟨nofun, nofun⟩
      · split
        · exact ⟨fun l hl => by (cases hl; rw [List.length_take, hw]; rfl), nofun⟩
        · split
          · next k c hc =>
            refine ⟨nofun, fun l n hl => ?_⟩
            cases hl
            rw [List.length_take, length_nearCodeword hc, hw]
            rfl
          · exact ⟨nofun, nofun⟩

theorem length_memRead (s : State) (a src : Nat) (err : List (BitVec 7 × Byte)) : (memRead s a src err).1.length = 72 := by
  unfold memRead
  extract_lets
  dsimp -zeta only
  extract_lets s' d
  split
  · rfl
  · split
    · next l hl => exact (length_lineDecode (length_memBytes _ _ _)).1 l hl
    · next l n hl => exact (length_lineDecode (length_memBytes _ _ _)).2 l n hl
    · rfl

namespace LinesSound

variable {s₀ s u : State} {a : Nat}

theorem setOk (h : LinesSound s₀ s) (k : Nat) : setOk s k (getSet s k) := h.cache k

/-- What changes neither memory nor what readers see of the cache keeps it sound. -/
theorem of_kept {clock : Bool} (h : LinesSound s₀ s) (hk : Kept ⟨s, clock, false⟩ u) (hf : FlashIs s₀.flash u) :
    LinesSound s₀ u := by
  obtain ⟨-, hcanon, -, hmem⟩ := hk
  refine ⟨hcanon h.canon, fun k => ?_, hf⟩
  exact setOk_of_flash (hf.trans h.flash.symm) (setOk_of_shown (shown_smGet (hmem rfl).2 k) (h.setOk k))

theorem ite {c : Prop} [Decidable c] (hs : LinesSound s₀ s) (hu : LinesSound s₀ u) : LinesSound s₀ (if c then s else u) := by
  split
  · exact hs
  · exact hu

theorem ite_snd {α : Type} {c : Prop} [Decidable c] {x y : α × State} (hx : LinesSound s₀ x.2) (hy : LinesSound s₀ y.2) :
    LinesSound s₀ (if c then x else y).2 := by
  split
  · exact hx
  · exact hy

theorem pair_snd {α : Type} {x : α} (h : LinesSound s₀ s) : LinesSound s₀ (x, s).2 := h

theorem count1 (h : LinesSound s₀ s) (p i : Nat) : LinesSound s₀ (count1 s p i) :=
  h.of_kept (.count1 (.refl s false false)) (.count1 h.flash)
theorem raiseOpen (h : LinesSound s₀ s) (p e : Nat) : LinesSound s₀ (raiseOpen s p e) :=
  h.of_kept (.raiseOpen (.refl s false false)) (.raiseOpen h.flash)

/-- Memory alone may change as it likes. -/
theorem mem {m : Mem} (h : LinesSound s₀ s) (hm : s.mem.wf = true → m.wf = true) : LinesSound s₀ { s with mem := m } := by
  refine ⟨?_, h.cache, h.flash⟩
  have hc := h.canon
  rw [canon_iff] at hc ⊢
  exact ⟨hm hc.1, hc.2⟩

theorem putSet {k : Nat} {l : List CLine} (h : LinesSound s₀ s) (hl : Machine.setOk s k l) : LinesSound s₀ (putSet s k l) := by
  have hrise : smRising none s.cache = true := canon_cache h.canon
  refine ⟨(Kept.putSet (F := ⟨s, true, true⟩) (.refl s true true)).2.1 h.canon, fun j => ?_, h.flash⟩
  by_cases hj : j = k
  · subst hj
    rw [show getSet (Machine.putSet s j l) j = l from smGet_smSet_same _ _ _ _ hrise]
    exact hl
  · rw [show getSet (Machine.putSet s k l) j = getSet s j from smGet_smSet_ne _ _ _ hj hrise]
    exact h.setOk j

theorem dropCached (h : LinesSound s₀ s) (a : Nat) : LinesSound s₀ (dropCached s a) :=
  h.putSet (setOk_sublist List.filter_sublist (h.setOk _))

theorem fiTake (h : LinesSound s₀ s) (kind page : Nat) : LinesSound s₀ (fiTake s kind page).2 :=
  h.of_kept (.fiTake (.refl s false false)) (.fiTake h.flash)

theorem memWrite (h : LinesSound s₀ s) (a : Nat) (d : List Byte) : LinesSound s₀ (memWrite s a d) :=
  .count1 (h.mem (fun hm => setPoison_wf _ _ (memSetBytes_wf _ _ hm))) _ _

theorem writeBack (h : LinesSound s₀ s) (l : CLine) : LinesSound s₀ (writeBack s l) := (h.memWrite _ _).count1 _ _

theorem poisonLine (h : LinesSound s₀ s) (a src : Nat) : LinesSound s₀ (poisonLine s a src) := by
  have hm : LinesSound s₀ { s with mem := setPoison s.mem a true } := h.mem (setPoison_wf _ _)
  exact hm.of_kept (.raiseOwned (.count1 (.ueRecord (.refl _ false false)))) (.raiseOwned (.count1 (.ueRecord hm.flash)))

theorem poisonRead (h : LinesSound s₀ s) (a src : Nat) : LinesSound s₀ (poisonRead s a src) :=
  h.of_kept (.poisonRead (.refl s false false)) (.poisonRead h.flash)

theorem correctLine (h : LinesSound s₀ s) (a n : Nat) : LinesSound s₀ (correctLine s a n) :=
  h.of_kept (.correctLine (.refl s false false)) (.correctLine h.flash)

theorem memRead (h : LinesSound s₀ s) (a src : Nat) (err : List (BitVec 7 × Byte)) : LinesSound s₀ (memRead s a src err).2 := by
  unfold Machine.memRead
  extract_lets
  dsimp -zeta only
  extract_lets s'
  have hinj : LinesSound s₀ (Machine.injectErr (Machine.fiTake s 3 (ctrlPage a)).2 err).2 :=
    (h.fiTake _ _).of_kept (.injectErr (.refl _ false false)) (.injectErr (h.fiTake _ _).flash)
  have h' : LinesSound s₀ s' := ite (ite_snd hinj (h.fiTake _ _)) (.count1 (ite_snd hinj (h.fiTake _ _)) _ _)
  refine ite_snd (ite h' (h'.poisonRead _ _)) ?_
  split
  · exact h'
  · exact .correctLine (ite h' (h'.mem (memSetBytes_wf a _))) _ _
  · exact h'.poisonLine _ _

/-- A line put most recently used into its set leaves every set sound. -/
theorem cachePut {x : CLine} (h : LinesSound s₀ s) (hw : wholeLine s₀ x.addr) (hd : x.data.length = 72) :
    LinesSound s₀ (cachePut s x) := by
  unfold Machine.cachePut
  extract_lets k l full l₁ out l₂ s₁ s₂
  have hl : Machine.setOk s k l := setOk_sublist List.filter_sublist (h.setOk k)
  have hl₁ : Machine.setOk s k l₁ ∧ l₁.map (·.addr) = l.map (·.addr) := by
    unfold l₁
    split
    · split
      · next v _ =>
        have hshown : (l.map (fun y => if y.addr = v.addr then { y with prot := none } else y)).map CLine.shown = l.map CLine.shown := by
          rw [List.map_map]
          refine List.map_congr_left (fun y _ => ?_)
          simp only [Function.comp_apply]
          split <;> rfl
        refine ⟨setOk_of_shown hshown hl, ?_⟩
        rw [List.map_map]
        refine List.map_congr_left (fun y _ => ?_)
        simp only [Function.comp_apply]
        split <;> rfl
      · exact ⟨hl, rfl⟩
    · exact ⟨hl, rfl⟩
  have hne : ∀ y ∈ l₁, y.addr ≠ x.addr := fun y hy => by
    have hy' : y.addr ∈ l.map (·.addr) := hl₁.2 ▸ List.mem_map_of_mem hy
    obtain ⟨z, hz, hzy⟩ := List.mem_map.mp hy'
    exact hzy ▸ filter_addr_ne z hz
  have hsub : l₂.Sublist l₁ := by
    unfold l₂
    clear_value out
    split
    · exact List.filter_sublist
    · exact List.Sublist.refl _
  have h₁ : LinesSound s₀ s₁ := ite (h.count1 _ _) h
  have h₂ : LinesSound s₀ s₂ := by
    unfold s₂
    clear_value out
    split
    · exact ite (h₁.writeBack _) h₁
    · exact h₁
  refine h₂.putSet (setOk_cons (wholeLine_of_flash h₂.flash hw) hd (fun y hy => hne y (hsub.subset hy)) ?_)
  exact setOk_of_flash (h₂.flash.trans h.flash.symm) (setOk_sublist hsub hl₁.1)

theorem readLine {hint part : Nat} {err : List (BitVec 7 × Byte)} (h : LinesSound s₀ s) (hw : wholeLine s₀ a) :
    LinesSound s₀ (readLine s a hint part err).2 := by
  unfold Machine.readLine
  extract_lets sp kind miss serve
  have hmiss : ∀ u e, LinesSound s₀ u → LinesSound s₀ (miss u e).2 := by
    intro u e hu
    have hread := (hu.count1 sp 1).memRead a 0 e
    have hlen : (Machine.memRead (Machine.count1 u sp 1) a 0 e).1.length = 72 := length_memRead _ _ _ _
    have hput : ∀ prot, LinesSound s₀ (Machine.cachePut (Machine.memRead (Machine.count1 u sp 1) a 0 e).2
        { addr := a, data := (Machine.memRead (Machine.count1 u sp 1) a 0 e).1, dirty := false, prot := prot }) :=
      fun prot => hread.cachePut hw hlen
    exact ite_snd hread (ite_snd (pair_snd (hput none)) (ite_snd (pair_snd (hput (some part))) hread))
  have hserve : ∀ u l d, LinesSound s₀ u → l.addr = a → l.data.length = 72 → LinesSound s₀ (serve u l d).2 := by
    intro u l d hu hl hd
    have hwl : wholeLine s₀ l.addr := hl.symm ▸ hw
    unfold serve
    clear_value kind
    split
    · exact hu.cachePut hwl hd
    · refine hu.putSet ?_
      rw [← hl]
      exact setOk_snoc (wholeLine_of_flash hu.flash hwl) hd filter_addr_ne
        (setOk_sublist List.filter_sublist (hu.setOk _))
    · exact hu.cachePut (x := { l with prot := some part }) hwl hd
    · exact ite ((hu.dropCached a).count1 _ _) (hu.dropCached a)
  split
  · exact hmiss _ _ h
  · next l hc =>
    have hmem : l ∈ getSet s (setKey a) := List.mem_of_find?_eq_some hc
    have haddr : l.addr = a := by simpa using List.find?_some hc
    have hlen : l.data.length = 72 := ((h.setOk _).1 l hmem).2.2.2.2
    split
    · exact hserve _ _ _ (h.count1 _ _) haddr hlen
    · next d _ hdec => exact hserve _ _ _ ((h.count1 _ _).count1 _ _) haddr ((length_lineDecode hlen).2 _ _ hdec)
    · exact ite_snd (pair_snd ((h.dropCached a).poisonLine _ _)) (hmiss _ _ (h.dropCached a))

theorem writeLine {d : List Byte} {hint part : Nat} (h : LinesSound s₀ s) (hw : wholeLine s₀ a) :
    LinesSound s₀ (writeLine s a d hint part) := by
  unfold Machine.writeLine
  extract_lets s' d' prot
  have h' : LinesSound s₀ s' := h.mem (setPoison_wf a false)
  have hd' : d'.length = 72 := length_slice _ _ _
  refine ite ?_ (h'.cachePut hw hd')
  split
  · next l hc =>
    have haddr : l.addr = a := by simpa using List.find?_some hc
    refine memWrite (h'.putSet ?_) _ _
    have hwl : wholeLine s' ({ l with data := d', dirty := false } : CLine).addr := wholeLine_of_flash h'.flash (haddr.symm ▸ hw)
    rw [← haddr]
    exact setOk_snoc (x := { l with data := d', dirty := false }) hwl hd' filter_addr_ne
      (setOk_sublist List.filter_sublist (h'.setOk _))
  · exact h'.memWrite _ _

theorem snoop (h : LinesSound s₀ s) (a : Nat) : LinesSound s₀ (snoop s a) :=
  h.of_kept (.snoop (.refl s false false)) (.snoop h.flash)

theorem parityLine (h : LinesSound s₀ s) (a q : Nat) : LinesSound s₀ (parityLine s a q) := by
  have hd : LinesSound s₀ { Machine.dropCached (Machine.snoop s a) a with
      mem := setPoison (Machine.dropCached (Machine.snoop s a) a).mem a true } :=
    ((h.snoop a).dropCached a).mem (setPoison_wf a true)
  exact hd.of_kept (.raise (.charge (.count1 (.count1 (.refl _ false false))))) (.raise (.charge (.count1 (.count1 hd.flash))))

theorem holdLines (h : LinesSound s₀ s) (on : Bool) (l : List Nat) : LinesSound s₀ (holdLines s on l) :=
  h.of_kept (.holdLines (.refl s false false)) (.holdLines h.flash)

end LinesSound

end Sys2Proof.Machine


/-! Line accesses of the device and the host (14 R443, R465; 16 R550 to R555). -/

namespace Sys2Proof.Machine

theorem wholeLine_of_isLine {s : State} {a : Nat} (h : isLine s a = true) : wholeLine s a := by
  simp only [isLine, Bool.and_eq_true, decide_eq_true_eq] at h
  obtain ⟨⟨⟨-, hmem⟩, hline⟩, hix⟩ := h
  exact ⟨hmem, hline, hix⟩

theorem isLine_of_mem_touched {s : State} {a l : Nat} (h : l ∈ touched s a) : isLine s l = true := (List.mem_filter.mp h).2

namespace LinesSound

variable {s₀ s : State} {a : Nat}

theorem refl (hc : s.canon = true) (hs : s.cacheOk) : LinesSound s s := ⟨hc, hs, rfl⟩

/-- The response is no part of memory. -/
theorem resp {r : Resp} (h : LinesSound s₀ s) : LinesSound s₀ { s with resp := r } := ⟨h.canon, h.cache, h.flash⟩

theorem foldl {f : State → Nat → State} {l : List Nat} (hf : ∀ u x, x ∈ l → LinesSound s₀ u → LinesSound s₀ (f u x))
    (h : LinesSound s₀ s) : LinesSound s₀ (l.foldl f s) :=
  List.foldlRecOn (motive := LinesSound s₀) l f h (fun u hu x hx => hf u x hx hu)

theorem hostReads {l : List (Nat × List (BitVec 7 × Byte))} (hl : ∀ x ∈ l, wholeLine s₀ x.1) (h : LinesSound s₀ s) :
    LinesSound s₀ (hostReads l s).2.2 := by
  induction l generalizing s with
  | nil => exact h
  | cons x l ih =>
    have hx : LinesSound s₀ (hostLineRead s x.1 x.2).2.2 := (h.count1 _ _).readLine (hl x (List.mem_cons_self ..))
    exact ih (fun y hy => hl y (List.mem_cons_of_mem _ hy)) hx

theorem dropWrite (h : LinesSound s₀ s) : LinesSound s₀ (dropWrite s) := (h.count1 _ _).raiseOpen _ _

theorem hostLineWrite {bs : List (Option Byte)} (hw : wholeLine s₀ a) (h : LinesSound s₀ s) :
    LinesSound s₀ (hostLineWrite s a bs) := by
  unfold Machine.hostLineWrite
  extract_lets written r
  have hr : LinesSound s₀ r.2 := by
    unfold r
    split
    · exact h
    · exact h.readLine hw
  clear_value r
  split
  · exact ((h.count1 _ _).raiseOpen _ _).dropWrite
  · exact ite h.dropWrite (ite (hr.count1 _ _).dropWrite (((hr.count1 _ _).count1 _ _).writeLine hw))

end LinesSound

/-- Settles O20. -/
theorem cacheLinesStayInTheirSets : Obligations.CacheLinesStayInTheirSets := by
  refine ⟨fun k => ⟨by simp [getSet, State.reset, smGet], by simp [getSet, State.reset, smGet]⟩, fun s t hc hs => ?_⟩
  have h : LinesSound s s := .refl hc hs
  have hguard : ∀ {b : Bool} {u : State}, (b = true → LinesSound s u) → guarded b s u = .next t → t.cacheOk := by
    intro b u hu ht
    cases b
    · cases ht; exact hs
    · cases ht; exact (hu rfl).cache
  refine ⟨fun line hint part err => hguard (fun hl => ?_), fun line hint part data par => hguard (fun hl => ?_),
    fun d o hold e f ht => ?_, fun d o w b hold ht => ?_⟩
  · exact ((h.snoop _).readLine (wholeLine_of_isLine hl)).resp
  · cases par with
    | none => exact (h.snoop _).writeLine (wholeLine_of_isLine hl)
    | some q => exact h.parityLine _ _
  · change execHostMemRead d o hold e f s = .next t at ht
    unfold execHostMemRead at ht
    extract_lets a ts r u at ht
    split at ht
    · cases ht
    · refine hguard (fun _ => ?_) ht
      have hread : LinesSound s r.2.2 := LinesSound.hostReads
        (fun x hx => wholeLine_of_isLine (isLine_of_mem_touched (List.of_mem_zip hx).1)) h
      exact (LinesSound.ite (hread.resp.raiseOpen _ _) hread.resp).holdLines _ _
  · change execHostMemWrite d o w b hold s = .next t at ht
    unfold execHostMemWrite at ht
    extract_lets a bytes byteAt ts at ht
    split at ht
    · cases ht
    · refine hguard (fun _ => ?_) ht
      exact (LinesSound.foldl (fun u x hx hu => hu.hostLineWrite (wholeLine_of_isLine (isLine_of_mem_touched hx))) h).holdLines _ _

end Sys2Proof.Machine


/-! What counting and events leave alone: an injection armed, the links, the memory controllers, power, boot, security, the
response, the site map, the count of FCLK cycles and the firmware held. -/

namespace Sys2Proof.Machine

/-- The parts of the state that no counter, event or class action changes. -/
def aside (s : State) :=
  (s.fi, s.links, s.ctrls, s.power, s.boot, s.sec, s.resp, s.map, s.fcyc, s.hif.fw)

/-- From one state to another those parts stand. -/
def Aside (s u : State) : Prop := aside u = aside s

namespace Aside

variable {s u v : State}

theorem refl (s : State) : Aside s s := rfl

theorem ite {c : Prop} [Decidable c] (hu : Aside s u) (hv : Aside s v) : Aside s (if c then u else v) := by
  split
  · exact hu
  · exact hv

theorem foldl {α : Type} {f : State → α → State} {l : List α} (hf : ∀ u x, Aside s u → Aside s (f u x)) (h : Aside s u) :
    Aside s (l.foldl f u) :=
  List.foldlRecOn (motive := Aside s) l f h (fun u hu x _ => hf u x hu)

theorem of_eq (h : Aside s u) (hv : aside v = aside u) : Aside s v := hv.trans h

theorem setRg {p o : Nat} {x : Word} (h : Aside s u) : Aside s (setRg u p o x) := h
theorem setRgF {p o hi lo x : Nat} (h : Aside s u) : Aside s (setRgF u p o hi lo x) := h
theorem updPart {p : Nat} {f : Part → Part} (h : Aside s u) : Aside s (updPart u p f) := h
theorem sendMsix {x : Nat} (h : Aside s u) : Aside s (sendMsix u x) := h
theorem endQueue {p : Nat} (h : Aside s u) : Aside s (endQueue u p) := h
theorem syncLaunchState {p : Nat} (h : Aside s u) : Aside s (syncLaunchState u p) := h

theorem setDigest {p : Nat} {d : List Byte} (h : Aside s u) : Aside s (setDigest u p d) := foldl (fun _ _ hu => hu) h

theorem dropAhead {p : Nat} (h : Aside s u) : Aside s (dropAhead u p) := updPart (foldl (fun _ _ hu => hu) h)

theorem dropImage {p : Nat} (h : Aside s u) : Aside s (dropImage u p) := by
  unfold Machine.dropImage
  split
  · exact h
  · refine setDigest (setRg (dropAhead (updPart ?_)))
    exact h.of_eq rfl

theorem tilesReset {l : List Nat} (h : Aside s u) : Aside s (tilesReset u l) := by
  induction l generalizing u with
  | nil => exact h
  | cons t l ih => exact ih h

theorem abortRunning {pg : Nat} (h : Aside s u) : Aside s (abortRunning u pg) := by
  unfold Machine.abortRunning
  split
  · exact h
  · exact h

theorem stopQueue {p : Nat} (h : Aside s u) : Aside s (stopQueue u p) := ite (sendMsix h.endQueue) h.endQueue

theorem partitionReset {p : Nat} (h : Aside s u) : Aside s (partitionReset u p) := by
  unfold Machine.partitionReset
  extract_lets _ _ _ s₁ _ s₂
  have h₁ : Aside s s₁ := h.abortRunning.tilesReset.dropImage
  have h₂ : Aside s s₂ := h₁.of_eq rfl
  exact .syncLaunchState (.stopQueue (.setRg (.updPart (.ite h₂.setRgF h₂))))

theorem warmPart {p : Nat} (h : Aside s u) : Aside s (warmPart u p) := h.updPart.partitionReset.updPart

theorem warmClear (h : Aside s u) : Aside s (warmClear u) := by
  unfold Machine.warmClear
  extract_lets s'
  have h' : Aside s s' := h.warmPart.warmPart.warmPart.warmPart
  exact .endQueue (.endQueue (.endQueue (.endQueue (h'.of_eq rfl))))

theorem warmBegin {cause : Nat} (h : Aside s u) : Aside s (warmBegin u cause) := by
  unfold Machine.warmBegin
  extract_lets s'
  have h' : Aside s s' := h.warmClear
  exact .setRgF (.setRgF (.setRgF (h'.of_eq rfl)))

theorem faultEnter {p e cls : Nat} (h : Aside s u) : Aside s (faultEnter u p e cls) := by
  unfold Machine.faultEnter
  extract_lets _ _ s'
  have h' : Aside s s' := h
  exact .ite h' h'.setRg.setRg

section
variable {count : State → Nat → Nat → State}

theorem containParts (hc : ∀ u p i, Aside s u → Aside s (count u p i)) {l : List Nat} (h : Aside s u) :
    Aside s (containParts count l u) := by
  induction l generalizing u with
  | nil => exact h
  | cons q l ih => exact ih (hc _ _ _ h.partitionReset)

theorem poisonPart (hc : ∀ u p i, Aside s u → Aside s (count u p i)) {q : Nat} (h : Aside s u) :
    Aside s (poisonPart count u q) := by
  unfold Machine.poisonPart
  dsimp only
  split
  · exact ite (hc _ _ _ h.updPart).updPart h.updPart
  · exact h

theorem poisonParts (hc : ∀ u p i, Aside s u → Aside s (count u p i)) {l : List Nat} (h : Aside s u) :
    Aside s (poisonParts count l u) := by
  induction l generalizing u with
  | nil => exact h
  | cons q l ih => exact ih (ite (poisonPart hc h) (containParts hc h))

theorem collect (hc : ∀ u p i, Aside s u → Aside s (count u p i)) {p e cls : Nat} {hang : Bool} {owners : List Nat}
    (h : Aside s u) : Aside s (collect count u p e cls hang owners) := by
  have hcount : ∀ i, Aside s (count (setPendingBit u p) 0x003 i) := fun i => hc _ _ _ h
  have hfault : ∀ i, Aside s (Machine.faultEnter (count (setPendingBit u p) 0x003 i) p e cls) := fun i => (hcount i).faultEnter
  have hvec : ∀ v, Aside s v → Aside s
      (if owners.isEmpty then Machine.sendMsix v 9 else owners.foldl (fun s q => Machine.sendMsix s (4 + q)) v) :=
    fun v hv => ite hv.sendMsix (foldl (fun _ _ hw => hw.sendMsix) hv)
  refine ite (hcount 0).sendMsix (ite ?contained (ite ?poison ?reset))
  case contained => exact ite (hvec _ (hfault _)) (containParts hc (hvec _ (hfault _)))
  case poison => exact ite (hfault _).sendMsix (poisonParts hc (hfault _).sendMsix)
  case reset =>
    have hsent := (hfault (if cls = 3 then (if hang then 3 else 4) else cls)).sendMsix (x := if hang then 1 else 0)
    exact ite (ite hsent.setRgF hsent) (ite hsent (warmBegin (hc _ _ _ hsent)))

theorem raiseWith (hc : ∀ u p i, Aside s u → Aside s (count u p i)) {p e info : Nat} {owners : List Nat} (h : Aside s u) :
    Aside s (raiseWith count u p e info owners) :=
  ite h (collect hc (u := latch u p e info) h)

end

theorem countN {n p i : Nat} (h : Aside s u) : Aside s (countN n u p i) := by
  induction n generalizing u p i with
  | zero => exact h
  | succ n ih =>
    rw [countN_succ]
    exact ite (raiseWith (fun _ _ _ hu => ih hu) (u := (choose (countRaw u p i 1).1 (2 ^ 32)).2) h) h

theorem countBy {p i n : Nat} (h : Aside s u) : Aside s (countBy u p i n) := by
  rw [countBy_eq]
  exact ite (raiseWith (fun _ _ _ hu => hu.countN) (u := (choose (countRaw u p i n).1 (2 ^ 32)).2) h) h

theorem count1 {p i : Nat} (h : Aside s u) : Aside s (count1 u p i) := h.countBy

theorem raiseOwned {p e info : Nat} {owners : List Nat} (h : Aside s u) : Aside s (raiseOwned u p e info owners) :=
  raiseWith (fun _ _ _ hu => hu.countN) h

theorem raise {p e info : Nat} (h : Aside s u) : Aside s (raise u p e info) := h.raiseOwned
theorem raiseOpen {p e : Nat} (h : Aside s u) : Aside s (raiseOpen u p e) := raise (u := (choose u (2 ^ 32)).2) h

theorem raiseLevel {p e : Nat} {on : Bool} (h : Aside s u) : Aside s (raiseLevel u p e on) :=
  ite (raiseOpen (u := setPage u p _) h) h

theorem fi (h : Aside s u) : u.fi = s.fi := congrArg (·.1) h

end Aside

end Sys2Proof.Machine


/-! A clean line of the stack cache may hold bytes that memory does not, as far as `cacheOk` says; evicted, it takes them with
it. -/

namespace Sys2Proof.Machine

/-- Clean line j of set 0, whose bytes are 01h. -/
def ownLine (j : Nat) : CLine := { addr := 72 * (16 * 14563 * j), data := List.replicate 72 1, dirty := false, prot := none }

/-- The device after reset with set 0 of the stack cache full of such lines. -/
def fullSet : State := { State.reset with cache := [(0, (List.range 16).map ownLine)] }

theorem fullSet_canon : fullSet.canon = true := by decide

theorem fullSet_cacheOk : fullSet.cacheOk := by
  intro k
  by_cases hk : k = 0
  · subst hk
    have hall : ∀ j, j < 16 → setKey (ownLine j).addr = 0 ∧ inMem fullSet (ownLine j).addr = true ∧
        isLineAddr (ownLine j).addr = true ∧ lineIx (ownLine j).addr < tierLines fullSet (isS (ownLine j).addr) := by decide
    refine ⟨fun x hx => ?_, by decide⟩
    obtain ⟨j, hj, rfl⟩ := List.mem_map.mp hx
    obtain ⟨h1, h2, h3, h4⟩ := hall j (List.mem_range.mp hj)
    exact ⟨h1, h2, h3, h4, rfl⟩
  · have hempty : getSet fullSet k = [] := by simp [getSet, fullSet, smGet, hk]
    rw [hempty]
    exact ⟨by simp, by simp⟩

/-- A seventeenth line of the set, written. -/
def newcomer : Nat := 72 * (16 * 14563 * 16)

theorem isLine_newcomer : isLine fullSet newcomer = true := by decide

theorem byte_before : peekByte fullSet (ownLine 15).addr = 1 := by decide

theorem byte_after : peekByte (writeLine fullSet newcomer (List.replicate 72 0) 0 0) (ownLine 15).addr = 0 := by decide

/-- Refutes O19: the line written evicts the least recently used of the full set, and the clean line's bytes are gone, since
`cacheOk` does not say that a clean line holds what memory holds. -/
theorem not_memoryHoldsWrites : ¬ Obligations.MemoryHoldsWrites := by
  intro h
  have hstays := (h fullSet newcomer 0 0 (List.replicate 72 0) fullSet_canon fullSet_cacheOk isLine_newcomer rfl).2.2
    (ownLine 15).addr (by decide)
  rw [byte_before, byte_after] at hstays
  exact absurd hstays (by decide)

end Sys2Proof.Machine


/-! What a device's read of a line answers (14 R439, R443). -/

namespace Sys2Proof.Machine

theorem errWord_nil : errWord [] = List.replicate 80 0 := rfl

/-- A codeword without errors decodes to its line. -/
theorem lineDecode_nil (d : List Byte) : lineDecode d [] = .valid d := by
  have h : badSymbols [] = 0 := by decide
  rw [lineDecode, h]
  rfl

theorem getD_memBytes (m : Mem) (a n i : Nat) (hi : i < n) : (memBytes m a n).getD i 0 = memByte m (a + i) := by
  induction n generalizing a i with
  | zero => omega
  | succ n ih =>
    cases i with
    | zero => rfl
    | succ i =>
      rw [memBytes, List.getD_cons_succ, ih (a + 1) i (by omega), show a + 1 + i = a + (i + 1) by omega]

/-- An address within a whole line of memory is one of that line. -/
theorem lineAddr_of_wholeLine {s : State} {a i : Nat} (h : wholeLine s a) (hi : i < 72) : lineAddr (a + i) = a := by
  obtain ⟨-, hline, hix⟩ := h
  have hmod : (a - tierStart a) % 72 = 0 := by simpa [isLineAddr] using hline
  have hdiv := Nat.div_add_mod (a - tierStart a) 72
  by_cases hs : sBase ≤ a
  · have hsa : isS a = true := by simpa [isS] using hs
    have hsi : isS (a + i) = true := by simp [isS]; omega
    simp only [tierStart, hsa, if_true] at hdiv hmod
    simp only [lineAddr, lineIx, tierStart, hsi, if_true]
    omega
  · have hsa : isS a = false := by simpa [isS] using hs
    simp only [lineIx, tierStart, hsa, tierLines, Bool.false_eq_true, if_false] at hix hdiv hmod
    have hsi : isS (a + i) = false := by
      simp only [isS, decide_eq_false_iff_not]
      have hb : sBase = 0x4000000000 := rfl
      omega
    simp only [lineAddr, lineIx, tierStart, hsi, Bool.false_eq_true, if_false]
    omega

/-- With no injection armed, a line that is not poisoned is read as it stands. -/
theorem memRead_clean {s : State} {a src : Nat} (hfi : s.fi.left = 0) (hp : isPoison s.mem a = false) :
    (memRead s a src []).1 = memBytes s.mem a 72 := by
  have htake : fiTake s 3 (ctrlPage a) = (false, s) := by simp [fiTake, hfi]
  have hmem : (if src = 1 then s else count1 s (ctrlPage a) 0).mem = s.mem := by
    split
    · rfl
    · exact ((Kept.count1 (.refl s false false)).2.2.2 rfl).1
  unfold memRead
  simp only [htake, Bool.false_eq_true, if_false, hmem, hp, lineDecode_nil]

/-- A line read through the cache without an error gives the bytes that readers see. -/
theorem readLine_clean {s : State} {a hint part : Nat} (hfi : s.fi.left = 0) (hp : isPoison s.mem a = false) :
    (readLine s a hint part []).1 = match cached s a with
      | some l => l.data
      | none => memBytes s.mem a 72 := by
  unfold readLine
  extract_lets sp kind miss serve
  clear_value kind
  cases hc : cached s a with
  | none =>
    have hk := Kept.count1 (p := sp) (i := 1) (.refl s false false)
    have hmem : (count1 s sp 1).mem = s.mem := (hk.2.2.2 rfl).1
    have hread : (memRead (count1 s sp 1) a 0 []).1 = memBytes s.mem a 72 := by
      rw [memRead_clean _ (hmem ▸ hp), hmem]
      rw [(Aside.count1 (.refl s)).fi, hfi]
    show (miss s []).1 = _
    unfold miss
    dsimp only
    split
    · exact hread
    · split
      · exact hread
      · split
        · exact hread
        · exact hread
  | some l =>
    dsimp only
    rw [lineDecode_nil]
    unfold serve
    dsimp only
    split <;> rfl

/-- Settles O41. -/
theorem memoryAccesses : Obligations.MemoryAccesses := by
  refine ⟨fun s d o e f w be l => ⟨fun hin hfw hs hk a r ha hr hp => ?_, fun hin hfw hs hk a ha => ?_, fun hin h => ?_, fun hsn => ?_⟩,
    fun s l hint p hl => ⟨fun err r hr => ?_, fun data => ?_, fun data q => ?_, fun hc hs hfi hp u hu i hi => ?_⟩⟩
  · subst ha
    calc exec (.hostMemRead d o false e f) s = execHostMemRead d o false e f s := rfl
      _ = _ := by
        subst hr
        simp only [execHostMemRead, hin, hfw, hs, hk, hp, guarded, holdLines, Bool.not_true, Bool.and_self, Bool.false_eq_true,
          if_false, if_true]
        rfl
  · subst ha
    calc exec (.hostMemWrite d o w be false) s = execHostMemWrite d o w be false s := rfl
      _ = _ := by
        simp only [execHostMemWrite, hin, hfw, hs, hk, guarded, holdLines, Bool.not_true, Bool.and_self, Bool.false_eq_true,
          if_false, if_true]
  · constructor
    · calc exec (.hostMemRead d o h e f) s = execHostMemRead d o h e f s := rfl
        _ = _ := by simp [execHostMemRead, hin]
    · calc exec (.hostMemWrite d o w be h) s = execHostMemWrite d o w be h s := rfl
        _ = _ := by simp [execHostMemWrite, hin]
  · constructor
    · calc exec (.bisnpResponse l) s = execBisnpResponse l s := rfl
        _ = _ := by simp only [execBisnpResponse, guarded, hsn, if_true]
    · calc exec (.bisnpTimeout l) s = execBisnpTimeout l s := rfl
        _ = _ := by simp only [execBisnpTimeout, guarded, hsn, if_true]
  · subst hr
    calc exec (.lineRead l hint p err) s = execLineRead l hint p err s := rfl
      _ = _ := by simp [execLineRead, guarded, hl]
  · calc exec (.lineWrite l hint p data none) s = execLineWrite l hint p data none s := rfl
      _ = _ := by simp [execLineWrite, guarded, hl]
  · calc exec (.lineWrite l hint p data (some q)) s = execLineWrite l hint p data (some q) s := rfl
      _ = _ := by simp [execLineWrite, guarded, hl]
  · have hexec : exec (.lineRead l hint p []) s = execLineRead l hint p [] s := rfl
    rw [hexec] at hu
    simp only [execLineRead, guarded, hl, if_true] at hu
    cases hu
    have hk := Kept.snoop (a := l.toNat) (.refl s false false)
    have hmem := (hk.2.2.2 rfl).1
    have hsnoop : Aside s (snoop s l.toNat) := by
      unfold snoop
      split
      · exact Aside.count1 (u := { s with hif := _ }) (Aside.refl s)
      · exact .refl s
    show (devRead s l.toNat hint.toNat p.toNat []).1.getD i 0 = _
    have hw := wholeLine_of_isLine hl
    have hread : (devRead s l.toNat hint.toNat p.toNat []).1 = _ :=
      readLine_clean (by rw [hsnoop.fi, hfi]) (by rw [hmem, hp])
    rw [hread, ← hk.peekByte rfl, peekByte, lineAddr_of_wholeLine hw hi]
    cases cached (snoop s l.toNat) l.toNat with
    | none => simp only [hmem, hp, Bool.false_eq_true, if_false, getD_memBytes _ _ _ _ hi]
    | some x => simp

end Sys2Proof.Machine


/-! The Brekeger links: flits received and sent, DATA packets and training (15 R472 to R505). -/

namespace Sys2Proof.Machine

/-! Flits that arrive. -/

theorem recvCtl_good {s : State} {n : Nat} {f : BitVec 256} {act : State → State}
    (h : flitGood (lk (count1 s (lkPage n) 1) n) f = true) :
    recvCtl s n f act = act (goodCtl (count1 s (lkPage n) 1) n f) := by
  simp only [recvCtl, h, if_true]

theorem recvCtl_bad {s : State} {n : Nat} {f : BitVec 256} {act : State → State}
    (h : flitGood (lk (count1 s (lkPage n) 1) n) f = false) :
    recvCtl s n f act = badCtl (count1 s (lkPage n) 1) n f := by
  simp only [recvCtl, h, Bool.false_eq_true, if_false]

theorem accept_inOrder {s : State} {n : Nat} {f : BitVec 256} {act : State → State}
    (h : fSeq f = (lk (setLk s n { lk s n with ackDue := true }) n).rxNext) :
    accept s n f act = act (accepted (setLk s n { lk s n with ackDue := true }) n) := by
  simp only [accept, h, ne_eq, not_true_eq_false, if_false]

theorem accept_outOfOrder {s : State} {n : Nat} {f : BitVec 256} {act : State → State}
    (h : fSeq f ≠ (lk (setLk s n { lk s n with ackDue := true }) n).rxNext) :
    accept s n f act = setLk s n { lk s n with ackDue := true } := by
  simp only [accept, h, ne_eq, not_false_eq_true, if_true]

/-- A flit that is not verified, on a link that is up, makes the receiver send RETRY. -/
theorem recvCtl_retry {s v : State} {n : Nat} {f : BitVec 256} {act : State → State}
    (h : flitGood (lk (count1 s (lkPage n) 1) n) f = false)
    (hv : v = count1 (if crcGood (lk (count1 s (lkPage n) 1) n) f then raiseOpen (count1 s (lkPage n) 1) (lkPage n) 7
      else count1 s (lkPage n) 1) (lkPage n) 6) (hup : lkUp v n = true) :
    recvCtl s n f act = sendRetry v n := by
  rw [recvCtl_bad h, badCtl, ← hv]
  simp only [hup, if_true]

theorem lkTimes_of_lkUp {s : State} {n : Nat} (h : lkUp s n = true) : lkTimes s n = true := by
  simp only [lkUp, Bool.and_eq_true] at h
  simp only [lkTimes, h.1, h.2, Bool.or_true, Bool.and_true]

theorem lk_count1 (s : State) (p i n : Nat) : lk (count1 s p i) n = lk s n := by
  have h := (Aside.refl s).count1 (p := p) (i := i)
  simp only [Aside, aside, Prod.mk.injEq] at h
  simp only [lk, h.2.1]

/-- A SYNC flit that is not verified. -/
theorem syncRecv_retry {s v : State} {n : LinkIx} {flit : BitVec 256} {msg : Nat} {act : BitVec 160 → State → State}
    (hup : lkUp s n.toNat = true) (h0 : flitGood (lk s n.toNat) flit = false)
    (h : flitGood (lk (count1 s (lkPage n.toNat) 1) n.toNat) flit = false)
    (hv : v = count1 (if crcGood (lk (count1 s (lkPage n.toNat) 1) n.toNat) flit
      then raiseOpen (count1 s (lkPage n.toNat) 1) (lkPage n.toNat) 7 else count1 s (lkPage n.toNat) 1) (lkPage n.toNat) 6)
    (hvup : lkUp v n.toNat = true) : syncRecv n flit msg act s = .next (flushAll (sendRetry v n.toNat)) := by
  simp only [syncRecv, guarded, hup, h0, Bool.not_false, Bool.or_true, Bool.and_self, if_true]
  rw [recvCtl_retry h hv hvup]

theorem codewordAct_clean {s : State} {n : Nat} {lanes : List (BitVec 680)} {l : List (BitVec 257)}
    (h : flitsOfLanes lanes = some (0, l)) : codewordAct s n lanes = s := by
  unfold codewordAct
  rw [h]
  rfl
theorem codewordAct_corrected {s : State} {n k : Nat} {lanes : List (BitVec 680)} {l : List (BitVec 257)}
    (h : flitsOfLanes lanes = some (k + 1, l)) : codewordAct s n lanes = count1 s (lkPage n) 4 := by
  unfold codewordAct
  rw [h]
  rfl
theorem codewordAct_lost {s : State} {n : Nat} {lanes : List (BitVec 680)}
    (h : flitsOfLanes lanes = none) (hup : lkUp (count1 s (lkPage n) 5) n = true) :
    codewordAct s n lanes = sendRetry (count1 s (lkPage n) 5) n := by
  unfold codewordAct
  rw [h]
  simp only [hup, if_true]

/-- What a SYNC message of each of the five kinds does at the device it names. -/
def syncAct (m : Nat) (b : BitVec 160) (s : State) : State :=
  match m with
  | 0 =>
    if isHome s (syncObj s (bB b 14 2)) && opAllowed (oType (syncObj s (bB b 14 2))) (bB b 9 1) then
      (applyOp s (bB b 14 2) (bB b 9 1) (BitVec.ofNat 64 (bB b 16 8))).2
    else s
  | 1 =>
    let k := bB b 14 2
    let o := syncObj s k
    if oType o = 0 then s
    else
      let s := notify (setSync s k { o with value := BitVec.ofNat 64 (bB b 16 8) }) k
      if oScope o = 2 && role s == 2 && !isHome s o then toRoster s 1 0 k (bB b 16 8) 0 else s
  | 2 =>
    match (groups s).find? (fun g => groupMgr s g == bB b 12 2) with
    | some g => if isSysMgr s then noteGroup s g (bB b 9 1) (bB b 24 2) else s
    | none => s
  | 3 => if role s = 2 then setAnn s (bB b 9 1) (bB b 24 2) (bB b 16 8) else s
  | _ => launchObject s (bB b 14 2) (bB b 16 8) (bB b 24 4 % 4) false

/-- The five commands that bring a SYNC message, each with its message. -/
theorem exec_syncFlit {s : State} {n : LinkIx} {flit : BitVec 256} {c : Instr} {m : Nat}
    (h : (c, m) ∈ [(Instr.syncOp n flit, 0), (.syncUpdate n flit, 1), (.groupResult n flit, 2), (.linkAnnounce n flit, 3),
      (.syncLaunch n flit, 4)]) : exec c s = syncRecv n flit m (syncAct m) s := by
  simp only [List.mem_cons, List.not_mem_nil, or_false, Prod.mk.injEq] at h
  rcases h with ⟨rfl, rfl⟩ | ⟨rfl, rfl⟩ | ⟨rfl, rfl⟩ | ⟨rfl, rfl⟩ | ⟨rfl, rfl⟩
  · calc exec (.syncOp n flit) s = execSyncOp n flit s := rfl
      _ = syncRecv n flit 0 (syncAct 0) s := rfl
  · calc exec (.syncUpdate n flit) s = execSyncUpdate n flit s := rfl
      _ = syncRecv n flit 1 (syncAct 1) s := rfl
  · calc exec (.groupResult n flit) s = execGroupResult n flit s := rfl
      _ = syncRecv n flit 2 (syncAct 2) s := rfl
  · calc exec (.linkAnnounce n flit) s = execLinkAnnounce n flit s := rfl
      _ = syncRecv n flit 3 (syncAct 3) s := rfl
  · calc exec (.syncLaunch n flit) s = execSyncLaunch n flit s := rfl
      _ = syncRecv n flit 4 (syncAct 4) s := rfl

/-! What a link sends. -/

theorem crc32Step_lt {c : Nat} (h : c < 2 ^ 32) : crc32Step c < 2 ^ 32 := by
  have hhalf : c / 2 < 2 ^ 32 := Nat.lt_of_le_of_lt (Nat.div_le_self c 2) h
  unfold crc32Step
  split
  · exact Nat.xor_lt_two_pow hhalf (by decide)
  · exact hhalf

theorem crc32Byte_lt {c : Nat} (b : Byte) (h : c < 2 ^ 32) : crc32Byte c b < 2 ^ 32 :=
  List.foldlRecOn (motive := (· < 2 ^ 32)) (List.range 8) _ (Nat.xor_lt_two_pow h (Nat.lt_trans b.isLt (by decide)))
    (fun _ hc _ _ => crc32Step_lt hc)

theorem crc32_lt (l : List Byte) : crc32 l < 2 ^ 32 :=
  Nat.xor_lt_two_pow (List.foldlRecOn (motive := (· < 2 ^ 32)) l crc32Byte (by decide) (fun _ hc b _ => crc32Byte_lt b hc))
    (by decide)


theorem leBytes_leNat_add (l : List Byte) (k : Nat) : leBytes l.length (leNat l + 2 ^ (8 * l.length) * k) = l := by
  induction l generalizing k with
  | nil => rfl
  | cons b l ih =>
    have hpow : 2 ^ (8 * (b :: l).length) * k = 256 * (2 ^ (8 * l.length) * k) := by
      rw [List.length_cons, show 8 * (l.length + 1) = 8 * l.length + 8 by omega, Nat.pow_add, Nat.mul_right_comm]
      exact Nat.mul_comm _ 256
    have hsum : leNat (b :: l) + 2 ^ (8 * (b :: l).length) * k = b.toNat + 256 * (leNat l + 2 ^ (8 * l.length) * k) := by
      rw [hpow, leNat, Nat.mul_add, Nat.add_assoc]
    have hb := b.isLt
    have hfirst : BitVec.ofNat 8 (b.toNat + 256 * (leNat l + 2 ^ (8 * l.length) * k)) = b := by
      apply BitVec.eq_of_toNat_eq
      rw [BitVec.toNat_ofNat]
      omega
    have hrest : (b.toNat + 256 * (leNat l + 2 ^ (8 * l.length) * k)) / 256 = leNat l + 2 ^ (8 * l.length) * k := by omega
    rw [List.length_cons, leBytes, ← List.length_cons, hsum, hfirst, hrest, ih]

/-- Bytes 0 to 27 of the control flit that a link sends. -/
def controlHead (l : LinkSt) (kind seq : Nat) (body : BitVec 160) : List Byte :=
  leBytes 1 kind ++ leBytes 1 0 ++ leBytes 2 seq ++ leBytes 2 (if l.rxAny then 2 ^ 15 + (l.rxNext + 4095) % 4096 else 0)
    ++ leBytes 2 l.freed ++ leBytes 20 body.toNat

section ControlFlit

variable (l : LinkSt) {kind seq : Nat} (body : BitVec 160)

theorem controlBody_eq : controlBody l kind seq body = BitVec.ofNat 256 (leNat (controlHead l kind seq body ++
    leBytes 4 (flitCrc l.txData (controlHead l kind seq body)))) := rfl

theorem length_controlHead : (controlHead l kind seq body).length = 28 := by
  simp [controlHead, length_leBytes]

/-- The acknowledgement field. -/
def ackField : Nat := if l.rxAny then 2 ^ 15 + (l.rxNext + 4095) % 4096 else 0

theorem ackField_lt : ackField l < 2 ^ 16 := by
  unfold ackField
  split <;> omega

variable (hk : kind < 16) (hs : seq < 2 ^ 16) (hf : l.freed < 2 ^ 16)
include hk hs hf

theorem leNat_controlHead : leNat (controlHead l kind seq body) =
    kind + 2 ^ 16 * seq + 2 ^ 32 * ackField l + 2 ^ 48 * l.freed + 2 ^ 64 * body.toNat := by
  have ha := ackField_lt l
  have hb := body.isLt
  have hhead : controlHead l kind seq body = leBytes 1 kind ++ leBytes 1 0 ++ leBytes 2 seq ++ leBytes 2 (ackField l)
    ++ leBytes 2 l.freed ++ leBytes 20 body.toNat := rfl
  rw [hhead]
  simp only [leNat_append, leNat_leBytes, List.length_append, length_leBytes, Nat.reduceAdd, Nat.reduceMul, Nat.reducePow] at *
  omega

theorem toNat_controlBody : (controlBody l kind seq body).toNat =
    kind + 2 ^ 16 * seq + 2 ^ 32 * ackField l + 2 ^ 48 * l.freed + 2 ^ 64 * body.toNat
      + 2 ^ 224 * flitCrc l.txData (controlHead l kind seq body) := by
  have ha := ackField_lt l
  have hb := body.isLt
  have hc : flitCrc l.txData (controlHead l kind seq body) < 2 ^ 32 := crc32_lt _
  have hh := leNat_controlHead l body hk hs hf
  rw [controlBody_eq, BitVec.toNat_ofNat, leNat_append, length_controlHead, leNat_leBytes, hh]
  generalize flitCrc l.txData (controlHead l kind seq body) = crc at hc ⊢
  simp only [Nat.reduceMul, Nat.reducePow] at *
  omega

/-- The flit's first 28 bytes are those its CRC is taken over. -/
theorem leBytes_controlBody : leBytes 28 (controlBody l kind seq body).toNat = controlHead l kind seq body := by
  have h := leBytes_leNat_add (controlHead l kind seq body) (flitCrc l.txData (controlHead l kind seq body))
  rw [length_controlHead, leNat_controlHead l body hk hs hf] at h
  rw [toNat_controlBody l body hk hs hf]
  exact h

theorem fB_controlBody_crc : fB (controlBody l kind seq body) 28 4 = flitCrc l.txData (controlHead l kind seq body) := by
  have ha := ackField_lt l
  have hb := body.isLt
  have hc : flitCrc l.txData (controlHead l kind seq body) < 2 ^ 32 := crc32_lt _
  rw [fB, toNat_controlBody l body hk hs hf]
  generalize flitCrc l.txData (controlHead l kind seq body) = crc at hc ⊢
  simp only [Nat.reduceMul, Nat.reducePow] at *
  omega

/-- The fields of a control flit before its CRC. -/
theorem fB_controlBody : fB (controlBody l kind seq body) 0 1 = kind ∧ fB (controlBody l kind seq body) 2 2 = seq ∧
    fB (controlBody l kind seq body) 4 2 = ackField l ∧ fB (controlBody l kind seq body) 6 2 = l.freed ∧
    fB (controlBody l kind seq body) 8 20 = body.toNat := by
  have ha := ackField_lt l
  have hb := body.isLt
  simp only [fB, toNat_controlBody l body hk hs hf]
  generalize flitCrc l.txData (controlHead l kind seq body) = crc
  simp only [Nat.reduceMul, Nat.reducePow] at *
  omega

theorem fAck_controlBody : fAck (controlBody l kind seq body) = if l.rxAny then some ((l.rxNext + 4095) % 4096) else none := by
  obtain ⟨-, -, hack, -, -⟩ := fB_controlBody l body hk hs hf
  rw [fAck, hack, ackField]
  cases l.rxAny with
  | false => simp [bit]
  | true =>
    have hr : (l.rxNext + 4095) % 4096 < 4096 := Nat.mod_lt _ (by decide)
    generalize (l.rxNext + 4095) % 4096 = r at hr
    have hbit : (2 ^ 15 + r) / 2 ^ 15 % 2 = 1 := by omega
    have hlow : (2 ^ 15 + r) % 4096 = r := by omega
    simp only [if_true, bit, hbit, hlow, beq_self_eq_true]

theorem crcGood_controlBody {m : LinkSt} (h : m.rxData = l.txData) : crcGood m (controlBody l kind seq body) = true := by
  rw [crcGood, leBytes_controlBody l body hk hs hf, fB_controlBody_crc l body hk hs hf, h, beq_self_eq_true]

end ControlFlit

/-! What arrives, by its command. -/

section Arrivals

variable {s : State} {n : LinkIx} {flit : BitVec 256}

/-- The flits on an up link that are not verified, whichever command brings them. -/
theorem exec_badFlit {v : State} {body : BitVec 224} {crc : BitVec 32} {frac : BitVec 4} {data : List (BitVec 256)}
    {next : BitVec 256} {c : Instr} (hflit : flit = crc ++ body) (hup : lkUp s n.toNat = true)
    (h0 : flitGood (lk s n.toNat) flit = false)
    (hv : v = count1 (if crcGood (lk (count1 s (lkPage n.toNat) 1) n.toNat) flit
      then raiseOpen (count1 s (lkPage n.toNat) 1) (lkPage n.toNat) 7 else count1 s (lkPage n.toNat) 1) (lkPage n.toNat) 6)
    (hvup : lkUp v n.toNat = true)
    (hc : c ∈ [Instr.idleFlit n body crc, .retry n flit, .timeFlit n flit frac, .dataPacketReceive n flit data next,
        .syncOp n flit, .syncUpdate n flit, .groupResult n flit, .linkAnnounce n flit, .syncLaunch n flit]) :
    exec c s = .next (flushAll (sendRetry v n.toNat)) := by
  have h : flitGood (lk (count1 s (lkPage n.toNat) 1) n.toNat) flit = false := by rw [lk_count1]; exact h0
  have htimes := lkTimes_of_lkUp hup
  simp only [List.mem_cons, List.not_mem_nil, or_false] at hc
  rcases hc with rfl | rfl | rfl | rfl | hc
  · subst hflit
    calc exec (.idleFlit n body crc) s = execIdleFlit n body crc s := rfl
      _ = _ := by
        simp only [execIdleFlit, guarded, hup, h0, Bool.not_false, Bool.or_true, Bool.and_self, if_true]
        rw [recvCtl_retry h hv hvup]
  · calc exec (.retry n flit) s = execRetry n flit s := rfl
      _ = _ := by
        simp only [execRetry, guarded, hup, h0, Bool.not_false, Bool.or_true, Bool.and_self, if_true]
        rw [recvCtl_retry h hv hvup]
  · calc exec (.timeFlit n flit frac) s = execTimeFlit n flit frac s := rfl
      _ = _ := by
        simp only [execTimeFlit, guarded, htimes, h0, Bool.not_false, Bool.or_true, Bool.and_self, if_true]
        rw [recvCtl_retry h hv hvup]
  · calc exec (.dataPacketReceive n flit data next) s = execDataPacketReceive n flit data next s := rfl
      _ = _ := by
        simp only [execDataPacketReceive, guarded, hup, h0, Bool.not_false, Bool.true_or, Bool.and_self, if_true]
        rw [recvCtl_retry h hv hvup]
  · have hsync : ∃ m, exec c s = syncRecv n flit m (syncAct m) s := by
      rcases hc with rfl | rfl | rfl | rfl | rfl
      · exact ⟨0, exec_syncFlit (by simp)⟩
      · exact ⟨1, exec_syncFlit (by simp)⟩
      · exact ⟨2, exec_syncFlit (by simp)⟩
      · exact ⟨3, exec_syncFlit (by simp)⟩
      · exact ⟨4, exec_syncFlit (by simp)⟩
    obtain ⟨m, hm⟩ := hsync
    rw [hm]
    exact syncRecv_retry hup h0 h hv hvup

theorem exec_retry (hup : lkUp s n.toNat = true) (hk : fKind flit = 2)
    (h : flitGood (lk (count1 s (lkPage n.toNat) 1) n.toNat) flit = true) :
    exec (.retry n flit) s = .next (flushAll
      (if 8 ≤ retryRuns (goodCtl (count1 s (lkPage n.toNat) 1) n.toNat flit) n.toNat flit
       then linkDown (goodCtl (count1 s (lkPage n.toNat) 1) n.toNat flit) n.toNat
       else resend (goodCtl (count1 s (lkPage n.toNat) 1) n.toNat flit) n.toNat flit)) := by
  calc exec (.retry n flit) s = execRetry n flit s := rfl
    _ = _ := by
      simp only [execRetry, guarded, hup, hk, beq_self_eq_true, Bool.true_or, Bool.and_self, if_true]
      rw [recvCtl_good h]

theorem exec_linkCodewordBad (lanes : List (BitVec 680)) (hup : lkUp s n.toNat = true) :
    exec (.linkCodewordBad n lanes) s = .next (codewordAct s n.toNat lanes) := by
  calc exec (.linkCodewordBad n lanes) s = execLinkCodewordBad n lanes s := rfl
    _ = _ := by simp only [execLinkCodewordBad, guarded, hup, Bool.true_or, if_true]

/-- A TIME flit sent says how long ago the far end's last came, where the field holds it. -/
theorem exec_timeFlitSend (frac : BitVec 4) (hup : lkUp s n.toNat = true) :
    ∃ turn free, turn < 2 ^ 16 ∧ (((timeOf s frac : Int) - (lk s n.toNat).farAt).toNat < 2 ^ 16 →
        turn = ((timeOf s frac : Int) - (lk s n.toNat).farAt).toNat ∧ free = s.free) ∧
      exec (.timeFlitSend n frac) s = .next (emit (setLk { s with free := free } n.toNat
        { lk s n.toNat with ownTx := some (timeOf s frac) }) n.toNat 4 0 (timeBody s n.toNat (timeOf s frac) turn)) := by
  have hexec : exec (.timeFlitSend n frac) s = .next (emit (setLk (turnOf s n.toNat (timeOf s frac)).2 n.toNat
      { lk (turnOf s n.toNat (timeOf s frac)).2 n.toNat with ownTx := some (timeOf s frac) }) n.toNat 4 0
      (timeBody (turnOf s n.toNat (timeOf s frac)).2 n.toNat (timeOf s frac) (turnOf s n.toNat (timeOf s frac)).1)) := by
    calc exec (.timeFlitSend n frac) s = execTimeFlitSend n frac s := rfl
      _ = _ := by simp only [execTimeFlitSend, guarded, lkTimes_of_lkUp hup, if_true]
  by_cases hd : ((timeOf s frac : Int) - (lk s n.toNat).farAt).toNat < 2 ^ 16
  · have hturn : turnOf s n.toNat (timeOf s frac) = (((timeOf s frac : Int) - (lk s n.toNat).farAt).toNat, s) := if_pos hd
    rw [hturn] at hexec
    exact ⟨_, s.free, hd, fun _ => ⟨rfl, rfl⟩, hexec⟩
  · have hturn : turnOf s n.toNat (timeOf s frac) = choose s (2 ^ 16) := if_neg hd
    rw [hturn] at hexec
    exact ⟨(choose s (2 ^ 16)).1, s.free + 1, Nat.mod_lt _ (by decide), fun h => absurd h hd, hexec⟩

end Arrivals

/-- Settles O29. -/
theorem flitsReceived : Obligations.FlitsReceived := by
  refine ⟨fun s u g n body crc flit hflit hup hu hg => ⟨fun hgood => ⟨fun hk => ?_, fun hk hr => ?_, fun hk hr => ?_,
    fun hk frac => ?_⟩, fun h0 _ c v frac data next hc hv hvup => ?_, fun lanes => ⟨fun l hl => ?_, fun k l hl => ?_,
    fun hl hv => ?_⟩, fun frac => exec_timeFlitSend frac hup⟩, fun l m kind seq body f hf hk hs hfr => ?_⟩
  · subst hflit hu hg
    calc exec (.idleFlit n body crc) s = execIdleFlit n body crc s := rfl
      _ = _ := by
        simp only [execIdleFlit, guarded, hup, hk, beq_self_eq_true, Bool.true_or, Bool.and_self, if_true]
        rw [recvCtl_good hgood, id]
  · subst hu hg
    rw [exec_retry hup hk hgood, if_neg (Nat.not_le.mpr hr)]
  · subst hu hg
    rw [exec_retry hup hk hgood, if_pos hr]
  · subst hu hg
    calc exec (.timeFlit n flit frac) s = execTimeFlit n flit frac s := rfl
      _ = _ := by
        simp only [execTimeFlit, guarded, lkTimes_of_lkUp hup, hk, beq_self_eq_true, Bool.true_or, Bool.and_self, if_true]
        rw [recvCtl_good hgood]
  · subst hu
    exact exec_badFlit hflit hup h0 hv hvup hc
  · rw [exec_linkCodewordBad lanes hup, codewordAct_clean hl]
  · rw [exec_linkCodewordBad lanes hup, codewordAct_corrected hl]
  · rw [exec_linkCodewordBad lanes hup, codewordAct_lost hl hv]
  · subst hf
    obtain ⟨hkind, hseq, -, hcredit, hbody⟩ := fB_controlBody l body hk hs hfr
    refine ⟨?_, hseq, hcredit, ?_, fAck_controlBody l body hk hs hfr, ?_, crcGood_controlBody l body hk hs hfr⟩
    · rw [fKind, hkind, Nat.mod_eq_of_lt hk]
    · rw [fBody, hbody, BitVec.ofNat_toNat, BitVec.setWidth_eq]
    · rw [fB_controlBody_crc l body hk hs hfr, leBytes_controlBody l body hk hs hfr, flitCrc]

end Sys2Proof.Machine


/-! DATA packets, training and SYNC messages (15 R478 to R497, R522 to R531). -/

namespace Sys2Proof.Machine

/-! DATA packets. -/

section Packets

variable {s : State} {n : LinkIx} {flit next : BitVec 256} {data : List (BitVec 256)}

/-- A DATA header that is verified brings its data flits. -/
theorem exec_dataPacketReceive {v : State} (hup : lkUp s n.toNat = true)
    (hgood : flitGood (lk (count1 s (lkPage n.toNat) 1) n.toNat) flit = true) (hk : fKind flit = 1)
    (hlen : data.length = fB flit 12 1)
    (hv : v = recvData (goodCtl (count1 s (lkPage n.toNat) 1) n.toNat flit) n.toNat data) :
    exec (.dataPacketReceive n flit data next) s = .next (flushAll
      (if flitGood (lk v n.toNat) next then accept v n.toNat flit (fun s => takePacket s n.toNat (fBody flit) data)
       else badCtl (count1 v (lkPage n.toNat) 1) n.toNat next)) := by
  subst hv
  calc exec (.dataPacketReceive n flit data next) s = execDataPacketReceive n flit data next s := rfl
    _ = _ := by
      simp only [execDataPacketReceive, guarded, hup, hk, hlen, beq_self_eq_true, Bool.and_self, Bool.or_true, if_true]
      rw [recvCtl_good hgood]

end Packets

/-- Settles O30. -/
theorem dataPackets : Obligations.DataPackets := by
  refine fun s v w n flit next data p ps hup => ⟨fun hq hsync hcredit hun => ?_,
    fun hgood hk hlen hv hw => ⟨fun hnext hseq => ⟨fun hdev => ?_, fun hdev => ?_⟩, fun hnext hseq => ?_, fun hnext => ?_⟩⟩
  · calc exec (.dataPacketSend n) s = execDataPacketSend n s := rfl
      _ = _ := by
        simp only [execDataPacketSend, hq, guarded, hup, hsync, List.isEmpty_nil, hcredit, hun, and_self, decide_true,
          Bool.and_self, if_true]
  · subst hw
    rw [exec_dataPacketReceive hup hgood hk hlen hv]
    simp only [hnext, if_true, accept_inOrder hseq, takePacket, if_pos hdev]
  · subst hw
    rw [exec_dataPacketReceive hup hgood hk hlen hv]
    simp only [hnext, if_true, accept_inOrder hseq, takePacket, if_neg hdev]
  · subst hw
    rw [exec_dataPacketReceive hup hgood hk hlen hv]
    simp only [hnext, if_true, accept_outOfOrder hseq]
  · rw [exec_dataPacketReceive hup hgood hk hlen hv]
    simp only [hnext, Bool.false_eq_true, if_false]

/-! SYNC messages. -/

section Messages

variable {s g : State} {n : LinkIx} {flit : BitVec 256} {msg : Nat} {act : BitVec 160 → State → State}

/-- A verified SYNC message that is next in order is taken. -/
theorem syncRecv_inOrder {w : State} (hup : lkUp s n.toNat = true) (hk : fKind flit = 3)
    (hgood : flitGood (lk (count1 s (lkPage n.toNat) 1) n.toNat) flit = true) (hm : bB (fBody flit) 8 1 % 16 = msg)
    (hg : g = goodCtl (count1 s (lkPage n.toNat) 1) n.toNat flit)
    (hseq : fSeq flit = (lk (setLk g n.toNat { lk g n.toNat with ackDue := true }) n.toNat).rxNext)
    (hw : w = accepted (setLk g n.toNat { lk g n.toNat with ackDue := true }) n.toNat) :
    syncRecv n flit msg act s = .next (flushAll (if bB (fBody flit) 10 2 = devNum w then act (fBody flit) w
      else forward w n.toNat (bB (fBody flit) 10 2) (bB (fBody flit) 8 1 / 16)
        { data := false, body := BitVec.ofNat 160 ((fBody flit).toNat - 16), src := none })) := by
  subst hw hg
  simp only [syncRecv, guarded, hup, hk, hm, beq_self_eq_true, Bool.true_or, Bool.and_self, if_true]
  rw [recvCtl_good hgood, accept_inOrder hseq]

/-- One out of order is not. -/
theorem syncRecv_outOfOrder (hup : lkUp s n.toNat = true) (hk : fKind flit = 3)
    (hgood : flitGood (lk (count1 s (lkPage n.toNat) 1) n.toNat) flit = true) (hm : bB (fBody flit) 8 1 % 16 = msg)
    (hg : g = goodCtl (count1 s (lkPage n.toNat) 1) n.toNat flit)
    (hseq : fSeq flit ≠ (lk (setLk g n.toNat { lk g n.toNat with ackDue := true }) n.toNat).rxNext) :
    syncRecv n flit msg act s = .next (flushAll (setLk g n.toNat { lk g n.toNat with ackDue := true })) := by
  subst hg
  simp only [syncRecv, guarded, hup, hk, hm, beq_self_eq_true, Bool.true_or, Bool.and_self, if_true]
  rw [recvCtl_good hgood, accept_outOfOrder hseq]

end Messages

/-- Settles O38. -/
theorem syncMessages : Obligations.SyncMessages := by
  intro s g w n flit b hup hk hgood hb hg
  subst hb
  refine ⟨fun hseq hw => ⟨fun hdev => ⟨fun hm hhome hop => ?_, fun hm hty hsc => ?_, fun k hm hmgr hfind => ?_,
    fun hm hrole => ?_, fun hm => ?_⟩, fun hdev c m hc hm => ?_⟩, fun hseq c m hc hm => ?_⟩
  · rw [exec_syncFlit (c := .syncOp n flit) (m := 0) (n := n) (flit := flit) (by simp),
      syncRecv_inOrder hup hk hgood hm hg hseq hw, if_pos hdev]
    simp only [syncAct, hhome, hop, Bool.and_self, if_true]
  · rw [exec_syncFlit (c := .syncUpdate n flit) (m := 1) (n := n) (flit := flit) (by simp),
      syncRecv_inOrder hup hk hgood hm hg hseq hw, if_pos hdev]
    simp only [syncAct, hty, hsc, decide_false, Bool.false_and, Bool.false_eq_true, if_false]
  · rw [exec_syncFlit (c := .groupResult n flit) (m := 2) (n := n) (flit := flit) (by simp),
      syncRecv_inOrder hup hk hgood hm hg hseq hw, if_pos hdev]
    simp only [syncAct, hfind, hmgr, if_true]
  · rw [exec_syncFlit (c := .linkAnnounce n flit) (m := 3) (n := n) (flit := flit) (by simp),
      syncRecv_inOrder hup hk hgood hm hg hseq hw, if_pos hdev]
    simp only [syncAct, hrole, if_true]
  · rw [exec_syncFlit (c := .syncLaunch n flit) (m := 4) (n := n) (flit := flit) (by simp),
      syncRecv_inOrder hup hk hgood hm hg hseq hw, if_pos hdev]
    simp only [syncAct]
  · rw [exec_syncFlit hc, syncRecv_inOrder hup hk hgood hm hg hseq hw, if_neg hdev]
  · rw [exec_syncFlit hc, syncRecv_outOfOrder hup hk hgood hm hg hseq]

/-! Training. -/

theorem setRgF_rising {s : State} (p o hi lo v : Nat) (h : smRising none s.regs = true) :
    smRising none (setRgF s p o hi lo v).regs = true := smRising_smSet _ _ h

/-- A field written leaves another field of the register. -/
theorem rgF_setRgF_apart {s : State} {p o hi lo hi' lo' v : Nat} (hd : hi' < lo ∨ hi < lo') (h : smRising none s.regs = true)
    (hlo : lo ≤ hi) (hhi : hi' < 32) : rgF (setRgF s p o hi lo v) p o hi' lo' = rgF s p o hi' lo' := by
  rw [rgF, setRgF, rg_setRg_same p o _ h]
  exact fld_putFld_ne _ hlo hhi hd

section Training

variable {s x : State} {n : LinkIx} {flit : BitVec 256}

/-- A good TRAIN flit on a link that is not down. -/
theorem exec_trainFlit {u g : State} (hu : u = count1 (setLk s n.toNat { lk s n.toNat with locked := true }) (lkPage n.toNat) 1)
    (hg : g = goodCtl u n.toNat flit) (hst : lkState s n.toNat ≠ 0) (ha : aclkOn s = true) (hk : fKind flit = 5)
    (hgood : flitGood (lk u n.toNat) flit = true) :
    exec (.trainFlit n flit) s = .next (flushAll
      (if lkState g n.toNat = 2 then spareAsked g n.toNat flit else trainAct g n.toNat flit)) := by
  subst hg hu
  calc exec (.trainFlit n flit) s = execTrainFlit n flit s := rfl
    _ = _ := by
      simp only [execTrainFlit, guarded, bne_iff_ne.mpr hst, ha, hk, beq_self_eq_true, Bool.true_or, Bool.and_self, if_true]
      rw [recvCtl_good hgood]

theorem trainAct_undeclared {g : State} {n : Nat} (hx : x = trainSeen g n flit) (h : rgF x (lkPage n) 0x48 31 31 = 0) :
    trainAct g n flit = sendTrain x n := by
  subst hx
  simp only [trainAct, h, true_or, if_true]

/-- A link in training whose neighbour is declared compares the far end with the declaration. -/
theorem trainAct_declared {g : State} {n : Nat} (hst : lkState g n = 1) (hx : x = trainSeen g n flit)
    (h : rgF x (lkPage n) 0x48 31 31 = 1) :
    trainAct g n flit =
      if trainMatches x n flit then
        if (lk (sendTrain (setLk x n { lk x n with ownMatch := true }) n) n).farMatch then
          raiseOpen (endTrain (setReady (setLkState (sendTrain (setLk x n { lk x n with ownMatch := true }) n) n 2)
            (lkPage n) true) n rOK) (lkPage n) 0
        else sendTrain (setLk x n { lk x n with ownMatch := true }) n
      else sendTrain (raiseOpen (endTrain (setLkState (setLk x n { lk x n with ownMatch := false }) n 3) n rNEIGH)
        (lkPage n) 2) n := by
  subst hx
  simp only [trainAct, hst, h]
  cases trainMatches (trainSeen g n flit) n flit <;> simp

/-- What a lane's move onto the spare does to the registers. -/
theorem laneSwitch_moves {lane : BitVec 3} {cw : Word}
    (hrx : (lk s n.toNat).rxMove = some (lane.toNat, cw.toNat)) (htx : (lk s n.toNat).txMove = none) :
    exec (.laneSwitch n cw) s = .next (setLk (setRgF (setRgF s (lkPage n.toNat) 0x44 2 2 1) (lkPage n.toNat) 0x44 7 4 lane.toNat)
      n.toNat { lk s n.toNat with rxMove := none, txMove := none }) := by
  calc exec (.laneSwitch n cw) s = execLaneSwitch n cw s := rfl
    _ = _ := by
      simp only [execLaneSwitch, hrx, htx, beq_self_eq_true, if_true, Bool.false_eq_true, if_false, Option.getD_some]

end Training

/-- Settles O31. -/
theorem linkTraining : Obligations.LinkTraining := by
  refine fun s u g x n flit lane cw => ⟨fun hup hdeg hmove => ?_, fun hc hrx htx => ⟨_, laneSwitch_moves hrx htx, ?_, ?_, ?_, ?_⟩,
    fun htakes hup hu => ?_, fun hreach hst hu => ?_, fun hst hruns => ?_, fun hst => ?_,
    fun hu hg hst ha hk hgood => ⟨fun h2 => ?_, fun h1 hx => ⟨fun hd => ?_, fun hd hmatch y hy => ⟨fun hfar => ?_, fun hfar => ?_⟩,
      fun hd hmatch => ?_⟩⟩⟩
  · calc exec (.laneDegraded n lane cw) s = execLaneDegraded n lane cw s := rfl
      _ = _ := by
        simp only [execLaneDegraded, guarded, hup, hdeg, hmove, Option.isNone_none, beq_self_eq_true, Bool.and_self, if_true]
  · rw [rgF_setLk, rgF_setRgF_apart (.inl (by decide)) (setRgF_rising _ _ _ _ _ (canon_regs hc)) (by decide) (by decide)]
    exact rgF_setRgF_same (canon_regs hc) (by decide) (by decide) (by decide)
  · rw [rgF_setLk]
    exact rgF_setRgF_same (setRgF_rising _ _ _ _ _ (canon_regs hc)) (by decide) (by decide) (Nat.lt_trans lane.isLt (by decide))
  · exact congrArg LinkSt.rxMove (lk_setLk_same n.toNat _ (canon_links hc))
  · rfl
  · subst hu
    have hup' : lkUp (taken s (lkPage n.toNat) 0x60 0#24) n.toNat = false := hup
    calc exec (.linkTrain n 0#24) s = execLinkTrain n 0#24 s := rfl
      _ = _ := by
        rw [execLinkTrain, command_takes_unready htakes]
        simp only [if_neg (show ¬ (0#24 : Arg) ≠ 0 by decide), hup', Bool.false_eq_true, if_false]
  · subst hu
    have hst' : lkState (taken s (lkPage n.toNat) 0x61 0#24) n.toNat ≠ 0 := hst
    calc exec (.linkDisable n 0#24) s = execLinkDisable n 0#24 s := rfl
      _ = _ := by
        rw [execLinkDisable, command_reaches hreach rfl]
        simp only [if_neg (show ¬ (0#24 : Arg) ≠ 0 by decide), if_neg hst']
  · calc exec (.linkTrainTimeout n) s = execLinkTrainTimeout n s := rfl
      _ = _ := by simp only [execLinkTrainTimeout, guarded, hst, hruns, endTrain, beq_self_eq_true, Bool.and_self, if_true]
  · calc exec (.linkSignalLost n) s = execLinkSignalLost n s := rfl
      _ = _ := by simp only [execLinkSignalLost, guarded, hst, beq_self_eq_true, if_true]
  · rw [exec_trainFlit hu hg hst ha hk hgood, if_pos h2]
  · rw [exec_trainFlit hu hg hst ha hk hgood, if_neg (by omega), trainAct_undeclared hx hd]
  · subst hy
    rw [exec_trainFlit hu hg hst ha hk hgood, if_neg (by omega), trainAct_declared h1 hx hd, if_pos hmatch, if_pos hfar]
  · subst hy
    rw [exec_trainFlit hu hg hst ha hk hgood, if_neg (by omega), trainAct_declared h1 hx hd, if_pos hmatch,
      if_neg (by rw [hfar]; decide)]
  · rw [exec_trainFlit hu hg hst ha hk hgood, if_neg (by omega), trainAct_declared h1 hx hd, if_neg (by rw [hmatch]; decide)]

end Sys2Proof.Machine


/-! Device time, the Chorus bus and its rounds (15 R501 to R522). -/

namespace Sys2Proof.Machine

/-! The commands of the time page and the Chorus page. -/

section Commands

variable {s : State} {act : State → State}

theorem command0_takes_ending {p code : Nat} {refuse : State → State} (h : takesEnding s p = true)
    (he : endsWork code = true) : command0 s p code 0#24 refuse act = act (taken s p code 0#24) := by
  rw [command0, command_takes_ending h he, if_neg (show ¬ (0#24 : Arg) ≠ 0 by decide)]

/-- A manager's command on the Chorus page acts. -/
theorem chorusCmd_takes {code : Nat} (h : takesCommand s 0x071 = true) (hr : role s = 2) :
    chorusCmd code 0#24 act s = .next (act (taken s 0x071 code 0#24)) := by
  rw [chorusCmd, command0_takes h, if_neg (by rw [role_taken]; exact not_not_intro hr)]

theorem chorusCmd_takes_ending {code : Nat} (h : takesEnding s 0x071 = true) (he : endsWork code = true) (hr : role s = 2) :
    chorusCmd code 0#24 act s = .next (act (taken s 0x071 code 0#24)) := by
  rw [chorusCmd, command0_takes_ending h he, if_neg (by rw [role_taken]; exact not_not_intro hr)]

end Commands

/-- Settles O32. -/
theorem timeAndChorusCommands : Obligations.TimeAndChorusCommands := by
  refine ⟨fun s u d htakes hu hi hroot hd hup hbit hdepth => ?_, fun s u j hrole => ⟨fun htakes hi hu => ?_,
    fun htakes hi hu => ?_, fun htakes ho hu => ?_⟩⟩
  · subst hu
    calc exec (.timeAlign 0#24) s = execTimeAlign 0#24 s := rfl
      _ = _ := by
        rw [execTimeAlign, command0_takes htakes]
        simp only [hi, hroot, hd, hup, hbit, if_neg (Nat.not_le.mpr hdepth), Bool.not_true, Bool.or_self, Bool.false_eq_true,
          if_false]
  · subst hu
    calc exec (.chorusStart 0#24) s = execChorusStart 0#24 s := rfl
      _ = _ := by
        rw [execChorusStart, chorusCmd_takes htakes hrole]
        simp only [anyImage_taken, hi, Bool.false_eq_true, if_false]
  · subst hu
    calc exec (.chorusStop 0#24) s = execChorusStop 0#24 s := rfl
      _ = _ := by
        rw [execChorusStop, chorusCmd_takes_ending htakes rfl hrole]
        simp only [anyImage_taken, hi, Bool.false_eq_true, if_false]
  · subst hu
    calc exec (.chorusAbort 0#24) s = execChorusAbort 0#24 s := rfl
      _ = _ := by
        rw [execChorusAbort, chorusCmd_takes_ending htakes rfl hrole]
        simp only [taken_chorus, ho]

/-- Settles O33. -/
theorem chorusRounds : Obligations.ChorusRounds := by
  refine fun s u type j r hdrives hu hwarm hoos => ⟨fun hann => ?_, fun hann hcopies hfrom hopen => ?_⟩
  · subst hu
    calc exec .chorusRound s = execChorusRound s := rfl
      _ = _ := by
        simp only [execChorusRound, guarded, hdrives, hwarm, hoos, hann, Bool.or_self, Bool.false_eq_true, if_true, if_false]
  · subst hu
    calc exec .chorusRound s = execChorusRound s := rfl
      _ = _ := by
        simp only [execChorusRound, guarded, hdrives, hwarm, hoos, hann, hopen, if_neg (Nat.ne_of_gt hcopies), if_neg (Nat.not_lt.mpr hfrom),
          Option.isSome_none, Bool.false_and, Bool.or_self, Bool.false_eq_true, if_true, if_false]

/-! Announcements at a member that waits. -/

section Announcements

variable {s : State} {r : Run}

theorem waitsAt_run {check : Nat} (h : waitsAt s check = some r) : (getPart s 0).run = some r ∧ r.waiting.isSome = true := by
  unfold waitsAt at h
  split at h
  case h_2 => exact absurd h (by simp)
  case h_1 r' hr' =>
    split at h
    case isFalse => exact absurd h (by simp)
    case isTrue hc =>
      obtain rfl := Option.some.inj h
      simp only [Bool.and_eq_true] at hc
      exact ⟨hr', hc.1.1.1⟩

/-- A copy that comes before R, for a check not long overdue, is not late. -/
theorem announceLate_inTime {u : State} {res lead : Nat} (hres : now u < res) (hlead : 2048 ≤ lead)
    (he : r.epochs ≠ 0 ∨ res ≤ expectedAt u 0 r + 2048) : announceLate u r res lead = u := by
  have hfirst : ¬ (r.epochs = 0 ∧ expectedAt u 0 r + lead < res) := by omega
  simp only [announceLate, if_neg hfirst, if_neg (Nat.not_le.mpr hres)]

theorem takeCopy_inTime {check low : Nat} {lead : Run → Nat} {act : State → Nat → State} (hw : waitsAt s check = some r)
    (hlead : 2048 ≤ lead r) (hres : now (count1 s 0x071 2) < resumeCount s low)
    (he : r.epochs ≠ 0 ∨ resumeCount s low ≤ expectedAt (count1 s 0x071 2) 0 r + 2048) :
    takeCopy s check low lead act = act (count1 s 0x071 2) (resumeCount s low) := by
  simp only [takeCopy, hw]
  rw [announceLate_inTime hres (by omega) he]

end Announcements

/-- Settles O34. -/
theorem workerWords : Obligations.WorkerWords := by
  refine ⟨fun s u w hrole => ⟨fun hgood hu => ?_, fun hbad hu => ?_, ?_⟩,
    fun s u j low r res hbus hwaits hres => ⟨fun hu hnow he => ?_, fun hu hnow he => ?_⟩⟩
  · subst hu
    have hrun : (2 ≤ s.chorus.good + 1) = (1 ≤ s.chorus.good) := by simp
    calc exec (.roundWord w) s = execRoundWord w s := rfl
      _ = _ := by simp only [execRoundWord, guarded, hrole, hgood, beq_self_eq_true, if_true, hrun]
  · subst hu
    have hrun : (2 ≤ s.chorus.bad + 1) = (1 ≤ s.chorus.bad) := by simp
    calc exec (.roundWord w) s = execRoundWord w s := rfl
      _ = _ := by
        simp only [execRoundWord, guarded, hrole, hbad, beq_self_eq_true, Bool.false_eq_true, if_true, if_false, hrun,
          Bool.and_eq_true, beq_iff_eq, decide_eq_true_eq]
  · calc exec .managerLost s = execManagerLost s := rfl
      _ = _ := by simp only [execManagerLost, guarded, hrole, beq_self_eq_true, if_true]
  · subst hu hres
    refine ⟨?_, ?_, ?_⟩
    · calc exec (.annContinue j low) s = execAnnContinue j low s := rfl
        _ = _ := by
          simp only [execAnnContinue, guarded, hbus, if_true]
          rw [takeCopy_inTime hwaits (Nat.le_refl _) hnow he]
    · calc exec (.annEpoch j low) s = execAnnEpoch j low s := rfl
        _ = _ := by
          simp only [execAnnEpoch, guarded, hbus, if_true]
          rw [takeCopy_inTime hwaits (Nat.le_add_right _ _) hnow he]
    · calc exec (.annReplay j low) s = execAnnReplay j low s := rfl
        _ = _ := by
          simp only [execAnnReplay, guarded, hbus, if_true]
          rw [takeCopy_inTime hwaits (Nat.le_refl _) hnow he]
  · subst hu hres
    obtain ⟨hrun, hwaiting⟩ := waitsAt_run hwaits
    have hrun' : (getPart (setRgF s 0x071 0x04C 11 8 4) 0).run = some r := hrun
    have hnone : r.waiting.isNone = false := by
      cases hw : r.waiting <;> simp_all
    have hwaits' : waitsAt (setRgF s 0x071 0x04C 11 8 4) j.toNat = some r := hwaits
    calc exec (.annAbandon j low) s = execAnnAbandon j low s := rfl
      _ = _ := by
        simp only [execAnnAbandon, guarded, hbus, if_true, hrun', hnone, Bool.false_and, Bool.false_eq_true, if_false]
        exact congrArg Host.Outcome.next (takeCopy_inTime hwaits' (Nat.le_refl _) hnow he)

end Sys2Proof.Machine


/-! Slots of the Chorus bus, and sync objects (15 R511 to R516, R523 to R532). -/

namespace Sys2Proof.Machine

/-! Slots. -/

/-- Membership of the roster goes by two registers. -/
theorem inRoster_setRgF {s : State} {o hi lo v k : Nat} (h : smRising none s.regs = true) (ho : 0x48 < o) :
    inRoster (setRgF s 0x071 o hi lo v) k = inRoster s k := by
  unfold inRoster
  rw [setRgF, rg_setRg_ne _ (by split <;> omega) h]

section Slots

variable {s : State} {slot : BitVec 6} {code : BitVec 4}

/-- The answer of a slot, sampled. -/
def sampled (s : State) (slot : BitVec 6) (code : BitVec 4) : State :=
  setRgF s 0x071 (0xE0 + 4 * (slot.toNat / 8)) (4 * (slot.toNat % 8) + 3) (4 * (slot.toNat % 8)) code.toNat

theorem inRoster_sampled (hc : s.canon = true) (k : Nat) : inRoster (sampled s slot code) k = inRoster s k :=
  inRoster_setRgF (canon_regs hc) (by omega)

/-- An answer that counts, of a member, is noted. -/
def noted (s : State) (k : Nat) : State :=
  updChorus (setMissing s k 0) (fun c => { c with counted := if c.counted.contains k then c.counted else k :: c.counted })

theorem mem_counted_noted (s : State) (k : Nat) : k ∈ (noted s k).chorus.counted := by
  show k ∈ if s.chorus.counted.contains k then s.chorus.counted else k :: s.chorus.counted
  split
  case isTrue h => exact List.contains_iff_mem.mp h
  case isFalse => exact List.mem_cons_self

theorem not_mem_counted_noted {k i : Nat} (hi : i ≠ k) (h : i ∉ s.chorus.counted) : i ∉ (noted s k).chorus.counted := by
  show i ∉ if s.chorus.counted.contains k then s.chorus.counted else k :: s.chorus.counted
  split
  · exact h
  · exact fun hm => (List.mem_cons.mp hm).elim hi h

/-- A check is not answered in full while a member of the roster is not noted. -/
theorem not_full {l : List Nat} {k : Nat} (hk : k < 64) (hin : inRoster s k = true) (h : k ∉ l) :
    ((roster s).all fun i => l.contains i) = false := by
  rw [List.all_eq_false]
  exact ⟨k, List.mem_filter.mpr ⟨List.mem_range.mpr hk, hin⟩, by simpa using h⟩

theorem exec_slotAnswer_idle {all : Bool} (hc : s.canon = true) (hd : drivesBus s = true) (ho : s.chorus.openChk = none)
    (hv : code.toNat ≠ 0) (hin : inRoster s slot.toNat = true) :
    exec (.slotAnswer slot code all) s = .next (sampled s slot code) := by
  have hin' : inRoster (sampled s slot code) slot.toNat = true := (inRoster_sampled hc _).trans hin
  have ho' : (sampled s slot code).chorus.openChk = none := ho
  unfold sampled at hin' ho' ⊢
  calc exec (.slotAnswer slot code all) s = execSlotAnswer slot code all s := rfl
    _ = _ := by
      simp only [execSlotAnswer, guarded, hd, if_true, if_neg hv, hin', Bool.not_true, Bool.false_and, Bool.false_eq_true, if_false,
        ho']

theorem exec_slotAnswer_noted {all : Bool} {j k : Nat} (hc : s.canon = true) (hd : drivesBus s = true)
    (ho : s.chorus.openChk = some j) (h2 : 2 ≤ code.toNat) (h5 : code.toNat ≤ 5) (hin : inRoster s slot.toNat = true)
    (hk : inRoster s k = true) (hne : k ≠ slot.toNat) (hk64 : k < 64) (hout : k ∉ s.chorus.counted) :
    exec (.slotAnswer slot code all) s = .next (updChorus (noted (sampled s slot code) slot.toNat) (fun c => { c with lowRounds := 0 })) := by
  have hin' : inRoster (sampled s slot code) slot.toNat = true := (inRoster_sampled hc _).trans hin
  have hk' : inRoster (sampled s slot code) k = true := (inRoster_sampled hc _).trans hk
  have ho' : (sampled s slot code).chorus.openChk = some j := ho
  have hfull := not_full (s := noted (sampled s slot code) slot.toNat) hk64 hk'
    (not_mem_counted_noted (s := sampled s slot code) hne hout)
  have h0 : code.toNat ≠ 0 := by omega
  have h15 : code.toNat ≠ 0xF := by omega
  have h67 : (code.toNat == 6 || code.toNat == 7) = false := by
    simp only [Bool.or_eq_false_iff, beq_eq_false_iff_ne]
    omega
  calc exec (.slotAnswer slot code all) s = execSlotAnswer slot code all s := rfl
    _ = _ := by
      simp only [execSlotAnswer, guarded, hd, if_true, if_neg h0]
      rw [← sampled]
      simp only [hin', ho', if_neg h15, h67, h2, h5, decide_true, Bool.and_self, Bool.and_false, Bool.false_eq_true, if_true,
        if_false, Bool.not_true, Bool.false_and]
      rw [← noted]
      simp only [hfull, Bool.and_false, Bool.false_and, Bool.false_eq_true, if_false]

end Slots

/-- Settles O35. -/
theorem chorusSlots : Obligations.ChorusSlots := by
  refine fun s slot code all hc hd => ⟨fun ho hv hin => exec_slotAnswer_idle hc hd ho hv hin,
    fun j k ho h2 h5 hin hk hne hk64 hout => ⟨_, exec_slotAnswer_noted hc hd ho h2 h5 hin hk hne hk64 hout,
      mem_counted_noted _ _, ho, rfl⟩, fun j ho hin h16 hlt => ?_, fun j ho h65 => ?_⟩
  · calc exec (.memberSilent slot) s = execMemberSilent slot s := rfl
      _ = _ := by
        simp only [execMemberSilent, guarded, hd, ho, hin, h16, hlt, Option.isSome_some, decide_true, Bool.and_self, if_true]
  · calc exec .chorusAllDisagree s = execChorusAllDisagree s := rfl
      _ = _ := by
        simp only [execChorusAllDisagree, guarded, hd, ho, h65, Option.isSome_some, decide_true, Bool.and_self, if_true]

end Sys2Proof.Machine


/-! Operations on sync objects by the host and by tiles (15 R523 to R530). -/

namespace Sys2Proof.Machine

/-! An operation at home on a LOCAL object that nothing watches. -/

section Local

variable {s : State} {n op : Nat} {arg : DWord}

theorem notify_unwatched {obj : Nat} (h : s.hif.binds = []) : notify s obj = s := by
  simp [notify, h]

theorem sendUpdates_local (h : oScope (syncObj s n) = 0) : sendUpdates s n = s := by
  simp only [sendUpdates, h]

/-- The state after an operation that gives the object a value. -/
def operated (s : State) (n : Nat) (v : DWord) : State :=
  if v = (syncObj s n).value then count1 s 0x072 0 else setSync (count1 s 0x072 0) n { syncObj s n with value := v }

variable (hsat : (getCnt s 0x072 0).sat = false) (hcnt : (getCnt s 0x072 0).value.toNat < 2 ^ 48 - 2)
include hsat hcnt

/-- The count that an operation adds changes the counter alone. -/
theorem count1_syncOp : count1 s 0x072 0 =
    setCnt s 0x072 0 { getCnt s 0x072 0 with value := BitVec.ofNat 48 ((getCnt s 0x072 0).value.toNat + 1) } :=
  countBy_below hsat (by omega)

theorem applyOp_local (hc : s.canon = true) (hscope : oScope (syncObj s n) = 0) (hbinds : s.hif.binds = []) :
    applyOp s n op arg = ((opEffect (syncObj s n) op arg).2, operated s n (opEffect (syncObj s n) op arg).1) := by
  have hwatch : (setSync (count1 s 0x072 0) n { syncObj s n with value := (opEffect (syncObj s n) op arg).1 }).hif.binds = [] := by
    rw [count1_syncOp hsat hcnt]
    exact hbinds
  have hscope' : oScope (syncObj (setSync (count1 s 0x072 0) n
      { syncObj s n with value := (opEffect (syncObj s n) op arg).1 }) n) = 0 := by
    rw [count1_syncOp hsat hcnt]
    exact (congrArg oScope (syncObj_setSync_same n _ (canon_sync hc))).trans hscope
  simp only [applyOp, notify_unwatched hwatch, sendUpdates_local hscope', operated]

theorem value_operated (hc : s.canon = true) (v : DWord) : (syncObj (operated s n v) n).value = v := by
  rw [operated, count1_syncOp hsat hcnt]
  split
  case isTrue h => exact h.symm
  case isFalse => exact congrArg SyncObj.value (syncObj_setSync_same n _ (canon_sync hc))

theorem syncObj_operated_ne (hc : s.canon = true) (v : DWord) {m : Nat} (hm : m ≠ n) :
    syncObj (operated s n v) m = syncObj s m := by
  rw [operated, count1_syncOp hsat hcnt]
  split
  · rfl
  · exact smGet_smSet_ne _ _ _ hm (canon_sync (s := s) hc)

theorem operated_frame (v : DWord) :
    operated s n v = { s with cnt := (operated s n v).cnt, sync := (operated s n v).sync } := by
  rw [operated, count1_syncOp hsat hcnt]
  split <;> rfl

end Local

/-! The host's operations. -/

/-- The state after a host operation with a result, which `SYNC_RES` takes from the operations that have one. -/
def hostOperated (u : State) (n op : Nat) (e : DWord × DWord) : State :=
  postResult (if op ≥ 4 ∧ op ≠ 0xA then setRg64 (operated u n e.1) 0x072 0x04C e.2.toNat else operated u n e.1) 0x072 rOK 0x72

section Host

variable {s : State} {n op : Nat} {o : SyncObj} {arg : DWord}

theorem hostSync_local (htakes : takesCommand s 0x072 = true) (hn : n = rgF s 0x072 0x040 15 0) (ho : o = syncObj s n)
    (hscope : oScope o = 0) (hbinds : s.hif.binds = []) (hsat : (getCnt s 0x072 0).sat = false)
    (hcnt : (getCnt s 0x072 0).value.toNat < 2 ^ 48 - 2) (harg : arg.toNat = rg64 s 0x072 0x044)
    (hty : oType o ≠ 0) (hop : opAllowed (oType o) op = true) (hw : ¬ (op = 0xA ∧ oType o = 4))
    (hlt : BitVec.ofNat 24 (op + 16 * (0#20).toNat) = BitVec.ofNat 24 op) :
    hostSync op 0#20 s = .next (hostOperated (taken s 0x072 0x72 (BitVec.ofNat 24 op)) n op (opEffect o op arg)) := by
  subst hn ho
  have hc := taken_canon 0x072 0x72 (BitVec.ofNat 24 op) (takesCommand_canon htakes)
  have harg' : BitVec.ofNat 64 (rg64 (taken s 0x072 0x72 (BitVec.ofNat 24 op)) 0x072 0x044) = arg := by
    rw [rg64_taken, ← harg, BitVec.ofNat_toNat, BitVec.setWidth_eq]
  have hhome : isHome (taken s 0x072 0x72 (BitVec.ofNat 24 op)) (syncObj s (rgF s 0x072 0x040 15 0)) = true := by
    simp only [isHome, hscope]
  have happly := applyOp_local (s := taken s 0x072 0x72 (BitVec.ofNat 24 op)) (n := rgF s 0x072 0x040 15 0) (op := op) (arg := arg)
    hsat hcnt hc hscope hbinds
  rw [hostSync, hlt, command_takes htakes]
  simp only [rgF_taken, syncObj_taken, hhome, hop, if_neg hty, if_neg hw, harg', happly, Bool.not_true, Bool.false_eq_true,
    if_false, if_neg (show ¬ (0#20 : BitVec 20) ≠ 0 by decide)]
  rfl

variable {u : State} {e : DWord × DWord} (hc : u.canon = true) (hsat : (getCnt u 0x072 0).sat = false)
  (hcnt : (getCnt u 0x072 0).value.toNat < 2 ^ 48 - 2)
include hc hsat hcnt

/-- The result register takes the result of an operation that gives one. -/
theorem syncRes_hostOperated (h : op ≥ 4 ∧ op ≠ 0xA) : rg64 (hostOperated u n op e) 0x072 0x04C = e.2.toNat := by
  rw [hostOperated, if_pos h, rg64_postResult]
  refine rg64_setRg64_same _ _ e.2.isLt ?_
  rw [operated_frame hsat hcnt]
  exact canon_regs (s := u) hc

omit hc hsat hcnt in
theorem syncObj_hostOperated (m : Nat) : syncObj (hostOperated u n op e) m = syncObj (operated u n e.1) m := by
  rw [hostOperated]
  split <;> rfl

theorem result_hostOperated : (getPage (hostOperated u n op e) 0x072).result = 0x720100 := by
  have hp : smRising none (operated u n e.1).pages = true := by
    rw [operated_frame hsat hcnt]
    exact canon_pages (s := u) hc
  rw [hostOperated]
  split
  · exact result_postResult_same _ _ _ hp
  · exact result_postResult_same _ _ _ hp

omit hc in
theorem hostOperated_frame : hostOperated u n op e = { u with
    pages := (hostOperated u n op e).pages, regs := (hostOperated u n op e).regs, cnt := (hostOperated u n op e).cnt,
    sync := (hostOperated u n op e).sync } := by
  rw [hostOperated, operated_frame hsat hcnt]
  split <;> rfl

end Host

/-- What a host operation at home leaves, its effect on the value and its result being given. -/
theorem hostSync_outcome {s : State} {n op : Nat} {o : SyncObj} {arg v : DWord} {r : Option DWord}
    (htakes : takesCommand s 0x072 = true) (hn : n = rgF s 0x072 0x040 15 0) (ho : o = syncObj s n)
    (hscope : oScope o = 0) (hbinds : s.hif.binds = []) (hsat : (getCnt s 0x072 0).sat = false)
    (hcnt : (getCnt s 0x072 0).value.toNat < 2 ^ 48 - 2) (harg : arg.toNat = rg64 s 0x072 0x044)
    (hop : opAllowed (oType o) op = true) (hty : oType o ≠ 0) (hw : ¬ (op = 0xA ∧ oType o = 4))
    (hlt : BitVec.ofNat 24 (op + 16 * (0#20).toNat) = BitVec.ofNat 24 op)
    (hv : (opEffect o op arg).1 = v) (hr : ∀ x, r = some x → (op ≥ 4 ∧ op ≠ 0xA) ∧ (opEffect o op arg).2 = x) :
    ∃ u, hostSync op 0#20 s = .next u ∧ (syncObj u n).value = v ∧ (∀ x, r = some x → rg64 u 0x072 0x04C = x.toNat) ∧
      (∀ m, m ≠ n → syncObj u m = syncObj s m) ∧ (getPage u 0x072).result = 0x720100 ∧
      u = { s with pages := u.pages, regs := u.regs, cnt := u.cnt, sync := u.sync } := by
  have hc := taken_canon 0x072 0x72 (BitVec.ofNat 24 op) (takesCommand_canon htakes)
  have hsat' : (getCnt (taken s 0x072 0x72 (BitVec.ofNat 24 op)) 0x072 0).sat = false := hsat
  have hcnt' : (getCnt (taken s 0x072 0x72 (BitVec.ofNat 24 op)) 0x072 0).value.toNat < 2 ^ 48 - 2 := hcnt
  refine ⟨_, hostSync_local htakes hn ho hscope hbinds hsat hcnt harg hty hop hw hlt, ?_, fun x hx => ?_, fun m hm => ?_,
    result_hostOperated hc hsat' hcnt', ?_⟩
  · rw [syncObj_hostOperated, value_operated hsat' hcnt' hc, hv]
  · obtain ⟨h4, he⟩ := hr x hx
    rw [syncRes_hostOperated hc hsat' hcnt' h4, he]
  · rw [syncObj_hostOperated, syncObj_operated_ne hsat' hcnt' hc _ hm, syncObj_taken]
  · rw [hostOperated_frame hsat' hcnt']
    rfl

/-- Settles O36. -/
theorem hostSyncOperations : Obligations.HostSyncOperations := by
  intro s n o arg htakes hn ho hscope hbinds hsat hcnt harg c v r hcase
  have outcome := fun (op : Nat) => hostSync_outcome (op := op) (v := v) (r := r) htakes hn ho hscope hbinds hsat hcnt harg
  rcases hcase with ⟨rfl, hty, rfl, rfl⟩ | ⟨rfl, hty, rfl, rfl⟩ | ⟨rfl, hty, rfl, rfl⟩ | ⟨rfl, hty, rfl, rfl⟩ |
    ⟨rfl, hty, rfl, rfl⟩ | ⟨rfl, hty, rfl, rfl⟩ | ⟨rfl, hty, rfl, rfl⟩ | ⟨rfl, hty, rfl, rfl⟩ | ⟨rfl, hty, hpos, rfl, rfl⟩ |
    ⟨rfl, hty, hzero, rfl, rfl⟩ | ⟨rfl, h1, h3, rfl, rfl⟩ | ⟨rfl, h1, h4, rfl, rfl⟩
  · exact outcome 1 (by simp [opAllowed, hty]) (by omega) (by omega) rfl (by simp [opEffect, hty]) (by simp)
  · exact outcome 1 (by simp [opAllowed, hty]) (by omega) (by omega) rfl (by simp [opEffect, hty]) (by simp)
  · exact outcome 2 (by simp [opAllowed, hty]) (by omega) (by omega) rfl (by simp [opEffect]) (by simp)
  · exact outcome 3 (by simp [opAllowed, hty]) (by omega) (by omega) rfl (by simp [opEffect]) (by simp)
  · exact outcome 4 (by simp [opAllowed, hty]) (by omega) (by omega) rfl (by simp [opEffect]) (by simp [opEffect, satisfied])
  · exact outcome 5 (by simp [opAllowed, hty]) (by omega) (by omega) rfl (by simp [opEffect]) (by simp [opEffect, satisfied])
  · exact outcome 6 (by simp [opAllowed, hty]) (by omega) (by omega) rfl (by simp [opEffect]) (by simp [opEffect, satisfied])
  · exact outcome 8 (by simp [opAllowed, hty]) (by omega) (by omega) rfl (by simp [opEffect]) (by simp [opEffect])
  · have hne : o.value ≠ 0#64 := by
      rintro h
      simp [h] at hpos
    exact outcome 9 (by simp [opAllowed, hty]) (by omega) (by omega) rfl (by simp [opEffect, hne]) (by simp [opEffect, hne])
  · exact outcome 9 (by simp [opAllowed, hty]) (by omega) (by omega) rfl (by simp [opEffect, hzero]) (by simp [opEffect, hzero])
  · exact outcome 0xA (by simp [opAllowed]; omega) (by omega) (by omega) rfl (by simp [opEffect]) (by simp)
  · exact outcome 0xB (by simp [opAllowed]; omega) (by omega) (by omega) rfl (by simp [opEffect]) (by simp [opEffect])

/-! A tile's operations. -/

/-- Settles O37. -/
theorem tileSyncOperations : Obligations.TileSyncOperations := by
  intro s u t acy op e hop hu
  subst hu
  refine ⟨fun hissue c hc => ?_, fun hissue c hc => ?_⟩
  · have hexec : exec c s = tileSync op t acy s := by
      simp only [List.mem_cons, List.not_mem_nil, or_false, Prod.mk.injEq] at hc
      rcases hc with ⟨rfl, rfl⟩ | ⟨rfl, rfl⟩ | ⟨rfl, rfl⟩
      · exact (rfl : exec (.tileSyncAdd t acy) s = execTileSyncAdd t acy s)
      · exact (rfl : exec (.tileSyncSet t acy) s = execTileSyncSet t acy s)
      · exact (rfl : exec (.tileSyncClear t acy) s = execTileSyncClear t acy s)
    rw [hexec, tileSync, issueFree_issues hissue (fun ho => by simp [ho, hop])]
  · have hexec : exec c s = tileWait op t acy s := by
      simp only [List.mem_cons, List.not_mem_nil, or_false, Prod.mk.injEq] at hc
      rcases hc with ⟨rfl, rfl⟩ | ⟨rfl, rfl⟩ | ⟨rfl, rfl⟩
      · exact (rfl : exec (.tileSyncWaitGe t acy) s = execTileSyncWaitGe t acy s)
      · exact (rfl : exec (.tileSyncWaitSet t acy) s = execTileSyncWaitSet t acy s)
      · exact (rfl : exec (.tileSyncWaitClear t acy) s = execTileSyncWaitClear t acy s)
    have hparts := hissue
    simp only [mayIssueFrom, Bool.and_eq_true, beq_iff_eq, Bool.not_eq_true'] at hparts
    obtain ⟨⟨⟨hfront, hmark⟩, hcode⟩, hcan⟩ := hparts
    refine ⟨fun hok => ?_, fun hok hscope => ?_⟩
    · rw [hexec, tileWait, hfront]
      simp only [hok, Bool.not_true, Bool.and_false, Bool.false_and, Bool.false_eq_true, if_false]
      exact issueStep_issues hissue (fun ho => by simp [ho, hop]) hok
    · rw [hexec, tileWait, hfront]
      simp only [hmark, hcode, hop, hcan, hok, hscope, ne_eq, not_false_eq_true, decide_true, beq_self_eq_true, Bool.not_false,
        Bool.and_self, if_true]

end Sys2Proof.Machine


/-! Copy queues, notification bindings and the sync-object window (15 R525; 16 R556 to R565). -/

namespace Sys2Proof.Machine

/-! Copy queues. -/

section Queues

variable {s : State} {p : PartIx} {entry : BitVec 512} {e : List Byte} {done : Nat}

theorem toNat_partArg (p : PartIx) : (p.setWidth 24 : Arg).toNat = p.toNat := by
  rw [BitVec.toNat_setWidth, Nat.mod_eq_of_lt (Nat.lt_trans p.isLt (by decide))]

/-- A queue that runs takes the copy at its head: one that fails its validation stops it, -/
theorem exec_copyEntry_fails {check code : Nat} (hruns : queueRuns s p.toNat = true) (he : e = leBytes 64 entry.toNat)
    (hf : isFetch e = false) (hcheck : copyCheck (count1 s 0x020 5) p.toNat e = some (check, code)) :
    exec (.copyEntry p entry done) s = .next (queueFail (count1 s 0x020 5) p.toNat check code) := by
  subst he
  calc exec (.copyEntry p entry done) s = execCopyEntry p entry done s := rfl
    _ = _ := by simp only [execCopyEntry, guarded, hruns, hf, hcheck, Bool.not_false, Bool.and_self, if_true]

/-- and one that passes runs. -/
theorem exec_copyEntry_runs {r : State × List LineWrite} (hruns : queueRuns s p.toNat = true) (he : e = leBytes 64 entry.toNat)
    (hf : isFetch e = false) (hcheck : copyCheck (count1 s 0x020 5) p.toNat e = none)
    (hr : r = copyWrites (count1 s 0x020 5) p.toNat e ((getDesc (count1 s 0x020 5) p.toNat (eSrc e)).getD 0)
      ((getDesc (count1 s 0x020 5) p.toNat (eDst e)).getD 0)) :
    exec (.copyEntry p entry done) s = .next (queueExec r.1 p.toNat e done r.2) := by
  subst he hr
  calc exec (.copyEntry p entry done) s = execCopyEntry p entry done s := rfl
    _ = _ := by simp only [execCopyEntry, guarded, hruns, hf, hcheck, Bool.not_false, Bool.and_self, if_true]

/-- So do the fetches. -/
theorem exec_fetchEntry_fails {check code : Nat} {lines : List (BitVec 576)} (hruns : queueRuns s p.toNat = true)
    (he : e = leBytes 64 entry.toNat) (hf : isFetch e = true)
    (hcheck : copyCheck (count1 s 0x020 5) p.toNat e = some (check, code)) :
    exec (.fetchEntry p entry lines done) s = .next (queueFail (count1 s 0x020 5) p.toNat check code) := by
  subst he
  calc exec (.fetchEntry p entry lines done) s = execFetchEntry p entry lines done s := rfl
    _ = _ := by simp only [execFetchEntry, guarded, hruns, hf, hcheck, Bool.and_self, if_true]

theorem exec_fetchEntry_runs {w : State} {lines : List (BitVec 576)} (hruns : queueRuns s p.toNat = true)
    (he : e = leBytes 64 entry.toNat) (hf : isFetch e = true) (hcheck : copyCheck (count1 s 0x020 5) p.toNat e = none)
    (hw : w = countBy (count1 s 0x020 5) 0x020 5 (ceilDiv (72 * eLineCount e) 64)) :
    exec (.fetchEntry p entry lines done) s =
      .next (queueExec w p.toNat e done (fetchWrites w e ((getDesc w p.toNat (eDst e)).getD 0) lines)) := by
  subst he hw
  calc exec (.fetchEntry p entry lines done) s = execFetchEntry p entry lines done s := rfl
    _ = _ := by simp only [execFetchEntry, guarded, hruns, hf, hcheck, Bool.and_self, if_true]

/-- A new tail whose upper word nothing holds. -/
theorem exec_dbCopyTail {v : Word} (hserved : hostServed s = true) (hheld : (getPage s 0x07C).held = none) :
    exec (.dbCopyTail p v) s =
      .next (if cqSize s p.toNat ≤ v.toNat then raiseOpen s 0x020 5 else setRg s 0x021 (cq p.toNat 0x0C) v) := by
  calc exec (.dbCopyTail p v) s = execDbCopyTail p v s := rfl
    _ = _ := by simp only [execDbCopyTail, guarded, hserved, hheld, if_true]

end Queues

/-- Settles O39. -/
theorem copyQueues : Obligations.CopyQueues := by
  refine fun s u p entry e done => ⟨fun htakes hidle hu => ?_, fun v hserved hheld => ⟨fun hlt => ?_, fun hge => ?_⟩,
    fun hruns he hu => ⟨fun check code hcheck hf => ?_, fun hcheck hf r hr => ?_, fun check code lines hcheck hf => ?_,
      fun hcheck hf w lines hw => ?_⟩, fun hbusy hu w hw => ?_⟩
  · subst hu
    have hnot : ¬ 4 ≤ p.toNat := Nat.not_le.mpr p.isLt
    calc exec (.cqReset (p.setWidth 24)) s = execCqReset (p.setWidth 24) s := rfl
      _ = _ := by
        rw [execCqReset, command_takes htakes]
        simp only [toNat_partArg, if_neg hnot, getPart_taken, hidle, Option.isSome_none, Bool.false_eq_true, if_false]
  · rw [exec_dbCopyTail hserved hheld, if_neg (Nat.not_le.mpr hlt)]
  · rw [exec_dbCopyTail hserved hheld, if_pos hge]
  · subst hu
    exact exec_copyEntry_fails hruns he hf hcheck
  · subst hu
    exact exec_copyEntry_runs hruns he hf hcheck hr
  · subst hu
    exact exec_fetchEntry_fails hruns he hf hcheck
  · subst hu
    exact exec_fetchEntry_runs hruns he hf hcheck hw
  · subst hw hu
    calc exec (.copyEntryComplete p) s = execCopyEntryComplete p s := rfl
      _ = _ := by simp only [execCopyEntryComplete, hbusy]

/-! Notification bindings. -/

section Bindings

variable {s : State} {arg : Arg}

theorem exec_nbArm {b : Binding} (htakes : takesCommand s 0x022 = true) (hn : arg.toNat < 1984)
    (hobj : b.obj = rgF s 0x022 0x40 15 0) (hop : b.op = rgF s 0x022 0x40 19 16) (harg : b.arg.toNat = rg64 s 0x022 0x44)
    (hty : oType (syncObj s b.obj) ≠ 0) (h4 : 4 ≤ b.op) (h6 : b.op ≤ 6) :
    exec (.nbArm arg) s = .next (postResult (if satisfied b.op (syncObj s b.obj).value b.arg
      then fireBinding (setArmed { taken s 0x022 0x84 arg with
        hif := { s.hif with binds := smPut s.hif.binds arg.toNat b } } arg.toNat true) arg.toNat
      else setArmed { taken s 0x022 0x84 arg with
        hif := { s.hif with binds := smPut s.hif.binds arg.toNat b } } arg.toNat true) 0x022 rOK 0x84) := by
  have hb : BitVec.ofNat 64 b.arg.toNat = b.arg := by rw [BitVec.ofNat_toNat, BitVec.setWidth_eq]
  have hnot : ¬ (1984 ≤ arg.toNat ∨ oType (syncObj s b.obj) = 0 ∨ b.op < 4 ∨ 6 < b.op) := by omega
  have hw (n : Nat) : syncObj (setArmed { taken s 0x022 0x84 arg with hif := { s.hif with binds := smPut s.hif.binds n b } } n true)
      b.obj = syncObj s b.obj := rfl
  calc exec (.nbArm arg) s = execNbArm arg s := rfl
    _ = _ := by
      rw [execNbArm, command_takes htakes]
      simp only [rgF_taken, rg64_taken, syncObj_taken, taken_hif, ← hobj, ← hop, ← harg, if_neg hnot, hb, hw]

theorem exec_nbDisarm (htakes : takesCommand s 0x022 = true) (hn : arg.toNat < 1984) :
    exec (.nbDisarm arg) s = .next (postResult (setArmed { taken s 0x022 0x85 arg with
      hif := { s.hif with binds := smDel s.hif.binds arg.toNat } } arg.toNat false) 0x022 rOK 0x85) := by
  calc exec (.nbDisarm arg) s = execNbDisarm arg s := rfl
    _ = _ := by
      rw [execNbDisarm, command_takes htakes]
      simp only [if_neg (Nat.not_le.mpr hn), taken_hif]

end Bindings

/-! The sync-object window. -/

theorem fld_and_7F (v : Word) {hi lo : Nat} (hhi : hi < 7) : fld (v &&& 0x7F) hi lo = fld v hi lo := by
  unfold fld bits
  refine Nat.eq_of_testBit_eq fun i => ?_
  rw [Nat.testBit_mod_two_pow, Nat.testBit_mod_two_pow, Nat.testBit_div_two_pow, Nat.testBit_div_two_pow, BitVec.toNat_and,
    show (0x7F : Word).toNat = 2 ^ 7 - 1 from rfl, Nat.and_two_pow_sub_one_eq_mod, Nat.testBit_mod_two_pow]
  by_cases hi' : i < hi + 1 - lo
  · simp only [show i + lo < 7 by omega, decide_true, Bool.true_and]
  · simp only [hi', decide_false, Bool.false_and]

theorem ofNat_words (lo hi : Word) : BitVec.ofNat 64 (lo.toNat + 2 ^ 32 * hi.toNat) = hi ++ lo := by
  apply BitVec.eq_of_toNat_eq
  rw [BitVec.toNat_ofNat, BitVec.toNat_append, ← Nat.shiftLeft_add_eq_or_of_lt lo.isLt, Nat.shiftLeft_eq,
    Nat.mod_eq_of_lt (by omega), Nat.add_comm, Nat.mul_comm]

section Window

variable {s : State} {n : BitVec 16}

/-- A LOCAL definition of a type, in a partition without an image, is accepted. -/
theorem defineOk_local {o o' : SyncObj} (hscope : oScope o' = 0) (hty : oType o' ≤ 4) (h' : hasImage s (oPart o') = false)
    (h : hasImage s (oPart o) = false) : defineOk s o o' = true := by
  simp only [defineOk, hscope, hty, h', h, decide_true, Bool.not_false, Bool.and_self]

/-- So is a value or a limit of a LOCAL object there. -/
theorem defineOk_value {o : SyncObj} (x : DWord) (hscope : oScope o = 0) (hty : oType o ≤ 4)
    (h : hasImage s (oPart o) = false) : defineOk s o { o with value := x } = true := defineOk_local hscope hty h h

theorem defineOk_limit {o : SyncObj} (x : Word) (hscope : oScope o = 0) (hty : oType o ≤ 4)
    (h : hasImage s (oPart o) = false) : defineOk s o { o with limit := x } = true := defineOk_local hscope hty h h

theorem defineOk_ctl {o : SyncObj} {v : Word} (hscope : fld v 4 3 = 0) (hty : fld v 2 0 ≤ 4)
    (hnew : hasImage s (fld v 6 5) = false) (h : hasImage s (oPart o) = false) :
    defineOk s o { o with ctl := v &&& 0x7F } = true := by
  rw [← fld_and_7F v (by decide)] at hscope hty hnew
  exact defineOk_local hscope hty hnew h

/-- A word of the window that is taken at once. -/
theorem exec_define_word {f : BitVec 2} {v : Word} {o' : SyncObj} (hfw : fwRunning s = true) (hserved : hostServed s = true)
    (hf : f.toNat ≠ 3)
    (ho' : defineWord (syncObj s n.toNat) f.toNat v (heldUpper s (0x200 + n.toNat / 256) (16 * (n.toNat % 256) + 4 * f.toNat)) = o')
    (hok : defineOk s (syncObj s n.toNat) o' = true) :
    exec (.syncObjectDefine n f (.word v)) s = .next (setSync (noteWrite s (0x200 + n.toNat / 256)) n.toNat o') := by
  have hok' : defineOk (noteWrite s (0x200 + n.toNat / 256)) (syncObj s n.toNat) o' = true := hok
  calc exec (.syncObjectDefine n f (.word v)) s = execSyncObjectDefine n f (.word v) s := rfl
    _ = _ := by
      simp only [execSyncObjectDefine, guarded, hfw, hserved, RegData.isWide, Bool.not_false, Bool.true_or, Bool.and_self,
        if_true, ho', hok', Bool.not_true, Bool.false_eq_true, if_false, if_neg hf]

/-- The state that holds the upper word of an object's value. -/
def holding (s : State) (n : BitVec 16) (hi : Word) : State :=
  setPage (noteWrite s (0x200 + n.toNat / 256)) (0x200 + n.toNat / 256)
    { getPage (noteWrite s (0x200 + n.toNat / 256)) (0x200 + n.toNat / 256) with held := some (16 * (n.toNat % 256) + 4 * 3, hi) }

theorem heldUpper_holding (hc : s.canon = true) (hi : Word) :
    heldUpper (holding s n hi) (0x200 + n.toNat / 256) (16 * (n.toNat % 256) + 4 * 2) = some hi := by
  have hp : smRising none (noteWrite s (0x200 + n.toNat / 256)).pages = true := smRising_smSet _ _ (canon_pages hc)
  simp only [heldUpper, holding, getPage_setPage_same _ _ hp, if_true, show 4 * 3 = 4 * 2 + 4 from rfl, ← Nat.add_assoc]

theorem exec_define_upper {hi : Word} (hfw : fwRunning s = true) (hserved : hostServed s = true)
    (hok : defineOk s (syncObj s n.toNat) (syncObj s n.toNat) = true) :
    exec (.syncObjectDefine n 3 (.word hi)) s = .next (holding s n hi) := by
  have hok' : defineOk (noteWrite s (0x200 + n.toNat / 256)) (syncObj s n.toNat)
      (defineWord (syncObj s n.toNat) (3#2).toNat hi
        (heldUpper s (0x200 + n.toNat / 256) (16 * (n.toNat % 256) + 4 * (3#2).toNat))) = true := hok
  calc exec (.syncObjectDefine n 3 (.word hi)) s = execSyncObjectDefine n 3 (.word hi) s := rfl
    _ = _ := by
      simp only [execSyncObjectDefine, guarded, hfw, hserved, RegData.isWide, Bool.not_false, Bool.true_or, Bool.and_self,
        if_true, BitVec.ofNat_eq_ofNat, hok', Bool.not_true, Bool.false_eq_true, if_false, if_pos (show (3#2).toNat = 3 from rfl)]
      rfl

theorem exec_define_wide {lo hi : Word} {o' : SyncObj} (hfw : fwRunning s = true) (hserved : hostServed s = true)
    (ho' : defineWord (syncObj s n.toNat) 2 lo (some hi) = o') (hok : defineOk s (syncObj s n.toNat) o' = true) :
    exec (.syncObjectDefine n 2 (.wide lo hi)) s = .next (setSync (noteWrite s (0x200 + n.toNat / 256)) n.toNat o') := by
  have hok' : defineOk (noteWrite s (0x200 + n.toNat / 256)) (syncObj s n.toNat) o' = true := hok
  calc exec (.syncObjectDefine n 2 (.wide lo hi)) s = execSyncObjectDefine n 2 (.wide lo hi) s := rfl
    _ = _ := by
      simp only [execSyncObjectDefine, guarded, hfw, hserved, RegData.isWide, BitVec.ofNat_eq_ofNat,
        if_neg (show (2#2).toNat ≠ 0 by decide), ho', hok', Bool.not_true, Bool.false_eq_true, if_false, Bool.false_or,
        show ((2#2).toNat % 2 == 0) = true from rfl, Bool.and_self, if_true]

/-- The lower word takes effect with the upper word held. -/
theorem exec_define_lower {lo hi : Word} (hc : s.canon = true) (hfw : fwRunning s = true) (hserved : hostServed s = true)
    (hscope : oScope (syncObj s n.toNat) = 0) (hty : oType (syncObj s n.toNat) ≤ 4)
    (himg : hasImage s (oPart (syncObj s n.toNat)) = false) :
    ∃ w, exec (.syncObjectDefine n 2 (.word lo)) (holding s n hi) = .next w ∧
      syncObj w n.toNat = { syncObj s n.toNat with value := hi ++ lo } := by
  have hobj : syncObj (holding s n hi) n.toNat = syncObj s n.toNat := rfl
  have hword : defineWord (syncObj (holding s n hi) n.toNat) (2#2).toNat lo
      (heldUpper (holding s n hi) (0x200 + n.toNat / 256) (16 * (n.toNat % 256) + 4 * (2#2).toNat)) =
      { syncObj s n.toNat with value := hi ++ lo } := by
    rw [hobj, show (2#2).toNat = 2 from rfl, heldUpper_holding hc]
    simp only [defineWord, Option.getD_some, ofNat_words]
  have hok : defineOk (holding s n hi) (syncObj (holding s n hi) n.toNat) { syncObj s n.toNat with value := hi ++ lo } = true := by
    rw [hobj]
    exact defineOk_value _ hscope hty himg
  have hfw' : fwRunning (holding s n hi) = true := by rw [holding, fwRunning_setPage, fwRunning_noteWrite, hfw]
  have hserved' : hostServed (holding s n hi) = true := hserved
  have hsync : smRising none (noteWrite (holding s n hi) (0x200 + n.toNat / 256)).sync = true := by
    rw [noteWrite_sync, holding, setPage_sync, noteWrite_sync]
    exact canon_sync hc
  exact ⟨_, exec_define_word hfw' hserved' (by decide) hword hok, syncObj_setSync_same _ _ hsync⟩

/-- A LOCAL definition's control word is taken, -/
theorem exec_define_ctl {v : Word} (hc : s.canon = true) (hfw : fwRunning s = true) (hserved : hostServed s = true)
    (himg : hasImage s (oPart (syncObj s n.toNat)) = false) (hscope : fld v 4 3 = 0) (hty : fld v 2 0 ≤ 4)
    (hnew : hasImage s (fld v 6 5) = false) :
    ∃ u, exec (.syncObjectDefine n 0 (.word v)) s = .next u ∧ syncObj u n.toNat = { syncObj s n.toNat with ctl := v &&& 0x7F } ∧
      u = { noteWrite s (0x200 + n.toNat / 256) with sync := u.sync } := by
  have hsync : smRising none (noteWrite s (0x200 + n.toNat / 256)).sync = true := canon_sync (s := s) hc
  exact ⟨_, exec_define_word hfw hserved (by decide) rfl (defineOk_ctl hscope hty hnew himg), syncObj_setSync_same _ _ hsync,
    rfl⟩

/-- and its limit. -/
theorem exec_define_limit {v : Word} (hc : s.canon = true) (hfw : fwRunning s = true) (hserved : hostServed s = true)
    (himg : hasImage s (oPart (syncObj s n.toNat)) = false) (hscope : oScope (syncObj s n.toNat) = 0)
    (hty : oType (syncObj s n.toNat) ≤ 4) :
    ∃ u, exec (.syncObjectDefine n 1 (.word v)) s = .next u ∧ syncObj u n.toNat = { syncObj s n.toNat with limit := v } ∧
      u = { noteWrite s (0x200 + n.toNat / 256) with sync := u.sync } := by
  have hsync : smRising none (noteWrite s (0x200 + n.toNat / 256)).sync = true := canon_sync (s := s) hc
  exact ⟨_, exec_define_word hfw hserved (by decide) rfl (defineOk_limit v hscope hty himg), syncObj_setSync_same _ _ hsync, rfl⟩

end Window

/-- Settles O40. -/
theorem bindingsAndDefinitions : Obligations.BindingsAndDefinitions := by
  refine ⟨fun s arg b htakes hn => ⟨fun hobj hop harg hty h4 h6 w hw => ?_, ?_⟩,
    fun s n v hi page hc hfw hserved hpage himg => ?_⟩
  · subst hw
    exact exec_nbArm htakes hn hobj hop harg hty h4 h6
  · exact exec_nbDisarm htakes hn
  · subst hpage
    refine ⟨fun hscope hty hnew => exec_define_ctl hc hfw hserved himg hscope hty hnew,
      fun hscope hty => ⟨exec_define_limit hc hfw hserved himg hscope hty, ?_, ?_⟩⟩
    · exact ⟨_, exec_define_upper hfw hserved (defineOk_local hscope hty himg himg), rfl,
        exec_define_lower hc hfw hserved hscope hty himg⟩
    · have hword : defineWord (syncObj s n.toNat) 2 v (some hi) = { syncObj s n.toNat with value := hi ++ v } := by
        simp only [defineWord, Option.getD_some, ofNat_words]
      have hsync : smRising none (noteWrite s (0x200 + n.toNat / 256)).sync = true := canon_sync (s := s) hc
      exact ⟨_, exec_define_wide hfw hserved hword (defineOk_value _ hscope hty himg), syncObj_setSync_same _ _ hsync, rfl⟩

end Sys2Proof.Machine


/-! Starts, resets and start-up (17 R570 to R587; 20 R677 to R682). -/

namespace Sys2Proof.Machine

/-- A warm reset completes with firmware whose digest holds. -/
theorem exec_warmResetComplete {s u v : State} (hwarm : warmActive s = true) (hwait : rgF s 0x002 0x4C 5 5 = 0)
    (ha : aclkOn s = true) (hfw : fwHeld s = true) (hu : u = flushCache s) (hpll : u.fc.warmPll = false)
    (hv : v = setRgF (readyAgain u) 0x002 0x4C 0 0 0) (hesc : v.fc.escalate = false) :
    exec (.warmResetComplete true) s = .next { v with fc := { v.fc with warmStart := none, escalate := false, warmPll := false } } := by
  subst hv hu
  calc exec (.warmResetComplete true) s = execWarmResetComplete true s := rfl
    _ = _ := by
      simp only [execWarmResetComplete, guarded, hwarm, hwait, ha, hfw, hpll, hesc, beq_self_eq_true, Bool.and_self, Bool.not_true,
        Bool.false_eq_true, if_true, if_false]

/-- Settles O42. -/
theorem resetsFromOutside : Obligations.ResetsFromOutside := by
  refine fun s u v en b => ⟨⟨rfl, rfl, rfl, rfl, rfl, rfl, rfl, rfl, rfl, rfl, rfl⟩, fun hh => ?_, fun hp => ?_,
    fun hp hh h1 h2 h3 h4 h5 h6 => ?_, fun hh => ?_, fun hh hp => ?_, fun hserved hu => ⟨fun h => ?_, fun h0 h1 => ?_⟩,
    fun htakes hu => ?_, fun hwarm hwait ha => ⟨?_, fun hfw hu hpll hv hesc =>
      exec_warmResetComplete hwarm hwait ha hfw hu hpll hv hesc⟩⟩
  · calc exec (.powerOnHoldEnd en) s = execPowerOnHoldEnd en s := rfl
      _ = _ := by simp only [execPowerOnHoldEnd, guarded, hh, if_true]
  · calc exec .perstAssert s = execPerstAssert s := rfl
      _ = _ := by simp only [execPerstAssert, guarded, hp, Bool.not_false, if_true]
  · obtain ⟨hold, perst, testEn, testMode, tripPin, jtag⟩ := b
    subst h1 h2 h3 h4 h5 h6
    calc exec .perstDeassert s = execPerstDeassert s := rfl
      _ = _ := by simp only [execPerstDeassert, guarded, hp, hh, Bool.and_false, if_true]
  · calc exec .supplyExcursion s = execSupplyExcursion s := rfl
      _ = _ := by simp only [execSupplyExcursion, guarded, hh, Bool.not_false, if_true]
  · calc exec .supplyGlitch s = execSupplyGlitch s := rfl
      _ = _ := by simp only [execSupplyGlitch, guarded, hh, hp, Bool.not_false, Bool.and_self, if_true]
  · subst hu
    have hnot : (!warmActive s && warmActive (raiseOpen s 0x001 0)) = false := by
      rcases h with h | h <;> simp [h]
    calc exec .pllUnlock s = execPllUnlock s := rfl
      _ = _ := by simp only [execPllUnlock, guarded, hserved, hnot, Bool.false_eq_true, if_true, if_false]
  · subst hu
    calc exec .pllUnlock s = execPllUnlock s := rfl
      _ = _ := by simp only [execPllUnlock, guarded, hserved, h0, h1, Bool.not_false, Bool.and_self, if_true]
  · subst hu
    calc exec (.warmReset 0#24) s = execWarmReset 0#24 s := rfl
      _ = _ := by rw [execWarmReset, command0_takes_ending htakes rfl]
  · calc exec (.warmResetComplete false) s = execWarmResetComplete false s := rfl
      _ = _ := by
        simp only [execWarmResetComplete, guarded, hwarm, hwait, ha, beq_self_eq_true, Bool.and_self, Bool.false_and, Bool.not_false,
          if_true]

/-! Registers and READY bits beside the one written. -/

theorem rgF_setRg_ne {s : State} {p o q k hi lo : Nat} (v : Word) (hne : q * 4096 + k ≠ p * 4096 + o)
    (h : smRising none s.regs = true) : rgF (setRg s p o v) q k hi lo = rgF s q k hi lo := by
  rw [rgF, rgF, rg_setRg_ne v hne h]

theorem rgF_setRgF_ne {s : State} {p o q k hi lo hi' lo' v : Nat} (hne : q * 4096 + k ≠ p * 4096 + o)
    (h : smRising none s.regs = true) : rgF (setRgF s p o hi' lo' v) q k hi lo = rgF s q k hi lo := rgF_setRg_ne _ hne h

theorem rg_setRgF_ne {s : State} {p o q k hi lo v : Nat} (hne : q * 4096 + k ≠ p * 4096 + o)
    (h : smRising none s.regs = true) : rg (setRgF s p o hi lo v) q k = rg s q k := rg_setRg_ne _ hne h

theorem rg64_setRgF_ne {s : State} {p o q k hi lo v : Nat} (h1 : q * 4096 + k ≠ p * 4096 + o)
    (h2 : q * 4096 + (k + 4) ≠ p * 4096 + o) (h : smRising none s.regs = true) :
    rg64 (setRgF s p o hi lo v) q k = rg64 s q k := by
  rw [rg64, rg64, rg_setRgF_ne h1 h, rg_setRgF_ne h2 h]

theorem setRg_rising {s : State} (p o : Nat) (v : Word) (h : smRising none s.regs = true) :
    smRising none (setRg s p o v).regs = true := smRising_smSet _ _ h

theorem getReady_setReady_ne {s : State} {p q : Nat} (b : Bool) (hq : readyKey q ≠ readyKey p) (h : smRising none s.ready = true) :
    getReady (setReady s p b) q = getReady s q := smGet_smSet_ne _ _ _ hq h

theorem setReady_rising {s : State} (p : Nat) (b : Bool) (h : smRising none s.ready = true) :
    smRising none (setReady s p b).ready = true := by
  show smRising none (smSet (fun _ => false) s.ready (readyKey p) b) = true
  exact smRising_smSet _ _ h

/-! The boot ROM. -/

/-- The registers in which the boot ROM shows the identity of a device that can prove it, with the word of its part. -/
def identity (s : State) (w : Word) : State :=
  setRgF (setRgF (setRg64 (setRg s 0x000 0x40 w) 0x000 0x44 s.flash.id.toNat) 0x011 0x40 0 0 1) 0x011 0x40 1 1 1

/-- And the two pages READY. -/
def identified (s : State) (w : Word) : State := setReady (setReady (identity s w) 0x000 true) 0x10 true

section BootRom

variable {s : State} {w : Word}

theorem exec_bootRomDone (hh : s.boot.hold = false) (hp : s.boot.perst = false) (hr : getReady s 0x10 = false)
    (hok : s.flash.ok = true) : ∃ w, exec (.bootRomDone 0) s = .next (identified s w) := by
  have hc : identityCause s (0#2).toNat = 0 := by simp [identityCause, hok]
  refine ⟨BitVec.ofNat 32 (s.flash.part.toNat + 256 * s.flash.dies.toNat + 2 ^ 31), ?_⟩
  calc exec (.bootRomDone 0) s = execBootRomDone 0 s := rfl
    _ = _ := by
      simp only [execBootRomDone, guarded, hh, hp, hr, hok, BitVec.ofNat_eq_ofNat, hc, Bool.not_false, Bool.and_self, if_true]
      generalize BitVec.ofNat 32 (s.flash.part.toNat + 256 * s.flash.dies.toNat + 2 ^ 31) = w
      rw [if_neg (show ¬ (0#2 : BitVec 2) = 2#2 by decide), setRg_flash, identified, identity]

theorem identity_regsOnly : identity s w = { s with regs := (identity s w).regs } :=
  setRgF_regsOnly _ _ _ _ _ (setRgF_regsOnly _ _ _ _ _ (setRg64_regsOnly _ _ _ (setRg_regsOnly _ _ _ rfl)))

theorem identified_frame : identified s w = { s with regs := (identified s w).regs, ready := (identified s w).ready } := by
  have h := identity_regsOnly (s := s) (w := w)
  unfold identified
  generalize identity s w = t at h ⊢
  rw [h]
  rfl

theorem getReady_identified (hc : s.canon = true) :
    getReady (identified s w) 0x000 = true ∧ getReady (identified s w) 0x10 = true := by
  have hr : smRising none (identity s w).ready = true := by
    rw [identity_regsOnly]
    exact canon_ready (s := s) hc
  refine ⟨?_, getReady_setReady_same _ _ (setReady_rising _ _ hr)⟩
  rw [identified, getReady_setReady_ne _ (by decide) (setReady_rising _ _ hr), getReady_setReady_same _ _ hr]

theorem shown_identity (hc : s.canon = true) :
    rg64 (identified s w) 0x000 0x44 = s.flash.id.toNat ∧ rgF (identified s w) 0x011 0x40 1 1 = 1 := by
  simp only [identified, rg64_setReady, rgF_setReady]
  have h1 := setRg_rising 0x000 0x40 w (canon_regs hc)
  have h2 := setRg64_rising 0x000 0x44 s.flash.id.toNat h1
  have h3 := setRgF_rising 0x011 0x40 0 0 1 h2
  refine ⟨?_, rgF_setRgF_same h3 (by decide) (by decide) (by decide)⟩
  rw [identity, rg64_setRgF_ne (by decide) (by decide) h3, rg64_setRgF_ne (by decide) (by decide) h2,
    rg64_setRg64_same _ _ s.flash.id.isLt h1]

end BootRom

/-! The end of a firmware transfer. -/

/-- The registers that a firmware that verifies leaves. -/
def started (s : State) (l : List Byte) : State :=
  setRgF (setFwDigest (setRg (setRg (endStatus s 3 rOK) 0x010 0x44 (BitVec.ofNat 32 l.length)) 0x010 0x48
    (BitVec.ofNat 32 (leAt l 4 4))) (sha256 l)) 0x002 0x4C 5 5 0

section FwEnd

variable {s : State} {n : Nat}

theorem exec_fwEnd_bad (hserved : doeServed s = true) (hn : s.hif.fwLen = some n) (hbad : fwGood n s.hif.fwBytes = false) :
    exec .fwEnd s = .next (doeResp (endStatus { s with hif := { s.hif with fwLen := none, fwBytes := [] } } 4 rSIGBAD)
      rSIGBAD []) := by
  calc exec .fwEnd s = execFwEnd s := rfl
    _ = _ := by simp only [execFwEnd, guarded, hserved, hn, hbad, Bool.not_false, if_true]

theorem exec_fwEnd_good (hserved : doeServed s = true) (hn : s.hif.fwLen = some n) (hgood : fwGood n s.hif.fwBytes = true) :
    exec .fwEnd s = .next (doeResp (started { s with hif := { s.hif with fwLen := none, fwBytes := [], fw := s.hif.fwBytes } }
      s.hif.fwBytes) rOK []) := by
  calc exec .fwEnd s = execFwEnd s := rfl
    _ = _ := by simp only [execFwEnd, guarded, hserved, hn, hgood, Bool.not_true, Bool.false_eq_true, if_true, if_false, started]

/-- The registers of a firmware that starts, the digest registers aside. -/
def endShown (s : State) (l : List Byte) : State :=
  setRg (setRg (endStatus s 3 rOK) 0x010 0x44 (BitVec.ofNat 32 l.length)) 0x010 0x48 (BitVec.ofNat 32 (leAt l 4 4))

theorem endStatus_regsOnly (stage code : Nat) : endStatus s stage code = { s with regs := (endStatus s stage code).regs } :=
  setRgF_regsOnly _ _ _ _ _ (setRgF_regsOnly _ _ _ _ _ (setRgF_regsOnly _ _ _ _ _ rfl))

theorem endShown_regsOnly (l : List Byte) : endShown s l = { s with regs := (endShown s l).regs } :=
  setRg_regsOnly _ _ _ (setRg_regsOnly _ _ _ (endStatus_regsOnly _ _))

theorem endStatus_stage {stage : Nat} (code : Nat) (h : smRising none s.regs = true) (hs : stage < 8) :
    smRising none (endStatus s stage code).regs = true ∧ rgF (endStatus s stage code) 0x010 0x40 2 0 = stage := by
  have h1 := setRgF_rising 0x010 0x40 2 0 stage h
  have h2 := setRgF_rising 0x010 0x40 15 8 code h1
  refine ⟨setRgF_rising _ _ _ _ _ h2, ?_⟩
  rw [endStatus, rgF_setRgF_apart (.inl (by decide)) h2 (by decide) (by decide),
    rgF_setRgF_apart (.inl (by decide)) h1 (by decide) (by decide), rgF_setRgF_same h (by decide) (by decide) hs]

theorem endShown_shows (l : List Byte) (h : smRising none s.regs = true) : smRising none (endShown s l).regs = true ∧
    rgF (endShown s l) 0x010 0x40 2 0 = 3 ∧ rg (endShown s l) 0x010 0x44 = BitVec.ofNat 32 l.length := by
  obtain ⟨h1, hstage⟩ := endStatus_stage rOK h (by decide : 3 < 8)
  have h2 := setRg_rising 0x010 0x44 (BitVec.ofNat 32 l.length) h1
  refine ⟨setRg_rising _ _ _ h2, ?_, ?_⟩
  · rw [endShown, rgF_setRg_ne _ (by decide) h2, rgF_setRg_ne _ (by decide) h1, hstage]
  · rw [endShown, rg_setRg_ne _ (by decide) h2, rg_setRg_same _ _ _ h1]

theorem started_eq (l : List Byte) : started s l = setRgF (setFwDigest (endShown s l) (sha256 l)) 0x002 0x4C 5 5 0 := rfl

theorem foldl_regsOnly {f : State → Nat → State} (l : List Nat) {t : State} (ht : t = { s with regs := t.regs })
    (hf : ∀ u k, u = { s with regs := u.regs } → f u k = { s with regs := (f u k).regs }) :
    l.foldl f t = { s with regs := (l.foldl f t).regs } :=
  List.foldlRecOn (motive := fun u : State => u = { s with regs := u.regs }) l f ht (fun u hu k _ => hf u k hu)

theorem started_regsOnly (l : List Byte) : started s l = { s with regs := (started s l).regs } := by
  rw [started_eq, setFwDigest]
  exact setRgF_regsOnly _ _ _ _ _ (foldl_regsOnly _ (endShown_regsOnly l) (fun _ _ hu => setRg_regsOnly _ _ _ hu))

/-- A firmware that verifies runs, and its length shows. -/
theorem started_shows (l : List Byte) (h : smRising none s.regs = true) :
    fwRunning (started s l) = true ∧ rg (started s l) 0x010 0x44 = BitVec.ofNat 32 l.length := by
  obtain ⟨h1, hstage, hlen⟩ := endShown_shows l h
  obtain ⟨h2, -, -, hother⟩ := rg_foldl_setRg 0x010 0x50 (fun k => BitVec.ofNat 32 (leAt (sha256 l) (4 * k) 4)) 8 h1
  have hfold : setFwDigest (endShown s l) (sha256 l) = (List.range 8).foldl
    (fun s k => setRg s 0x010 (0x50 + 4 * k) (BitVec.ofNat 32 (leAt (sha256 l) (4 * k) 4))) (endShown s l) := rfl
  rw [started_eq, fwRunning, rgF_setRgF_ne (by decide) (hfold ▸ h2), rg_setRgF_ne (by decide) (hfold ▸ h2), hfold, rgF,
    hother _ _ (by omega), hother _ _ (by omega), hlen]
  exact ⟨beq_iff_eq.mpr hstage, rfl⟩

end FwEnd

/-! Blocks that become READY. -/

section BlockReady

variable {s v : State} {page : PageIx} {ok : Bool} {f : List (BitVec 7 × BitVec 7)}

/-- The state in which a starting block is tested: the repairs of its site or the records of its stack are in place. -/
def furnished (s : State) (p : Nat) : State :=
  if isTilePage p && !warmActive s then factoryRepair s (p - 0x100)
  else if isCtrlPage p then
    setCtrl s (p - 0x40) { getCtrl s (p - 0x40) with factory := smGet (fun _ => ([] : List DWord)) s.flash.remaps (p - 0x40) }
  else s

theorem not_isCtrlPage {p : Nat} (h : isTilePage p = true) : isCtrlPage p = false := by
  simp only [isTilePage, isCtrlPage, Bool.and_eq_true, Bool.and_eq_false_iff, decide_eq_true_eq, decide_eq_false_iff_not] at *
  omega

theorem furnished_eq {p : Nat} (ht : isTilePage p = true → v = if warmActive s then s else factoryRepair s (p - 0x100))
    (hc : isCtrlPage p = true → v = setCtrl s (p - 0x40) { getCtrl s (p - 0x40) with
      factory := smGet (fun _ => ([] : List DWord)) s.flash.remaps (p - 0x40) })
    (ho : isTilePage p = false → isCtrlPage p = false → v = s) : furnished s p = v := by
  unfold furnished
  cases htile : isTilePage p with
  | true =>
    rw [ht htile, not_isCtrlPage htile]
    cases warmActive s <;> rfl
  | false =>
    cases hctrl : isCtrlPage p with
    | true => exact (hc hctrl).symm
    | false => exact (ho htile hctrl).symm

theorem exec_blockReady (hs : startsUp page.toNat = true) (hfw : fwRunning s = true)
    (hpwr : (getBlk s page.toNat).pwrOn = true) (hr : getReady s page.toNat = false)
    (htest : (getBlk s page.toNat).testPage = none) (hfail : (getBlk s page.toNat).failed = false)
    (hret : isRetiredPage s page.toNat = false) :
    exec (.blockReady page ok f) s = .next (if hasTest page.toNat
      then if (testDone (furnished s page.toNat) page.toNat ok f).1
        then setReady (testDone (furnished s page.toNat) page.toNat ok f).2 page.toNat true
        else (testDone (furnished s page.toNat) page.toNat ok f).2
      else setReady (furnished s page.toNat) page.toNat true) := by
  calc exec (.blockReady page ok f) s = execBlockReady page ok f s := rfl
    _ = _ := by
      simp only [execBlockReady, guarded, hs, hfw, hpwr, hr, htest, hfail, hret, Option.isNone_none, Bool.not_false, Bool.and_self,
        if_true]
      rw [← furnished]
      cases hasTest page.toNat <;> rfl

end BlockReady

/-- Settles O43. -/
theorem startUp : Obligations.StartUp := by
  refine fun s u => ⟨fun hh hp hr hok hc => ?_, fun hserved => ⟨fun len hr ho hfw hl hlen => ?_, fun off bytes n hn hoff hlen => ?_,
    fun n hn hu hc => ?_⟩, fun page ok f p v hpage hs hfw hpwr hr htest hfail hret ht hctrl hother => ⟨fun hno => ?_,
    fun hyes => ?_⟩, fun rate width hu => ?_, fun rate width => rfl, fun hup => ?_, fun k hk => ?_⟩
  · obtain ⟨w, hw⟩ := exec_bootRomDone hh hp hr hok
    obtain ⟨h0, h10⟩ := getReady_identified (w := w) hc
    obtain ⟨hid, htrng⟩ := shown_identity (w := w) hc
    exact ⟨_, hw, h0, h10, hid, htrng, identified_frame⟩
  · calc exec (.fwBegin len) s = execFwBegin len s := rfl
      _ = _ := by
        simp only [execFwBegin, guarded, hserved, hr, ho, hfw, hl, hlen, Option.isSome_none, Bool.not_true, Bool.or_self,
          Bool.false_eq_true, if_true, if_false]
  · have hlen' : decide (2 ^ 18 < bytes.length) = false := decide_eq_false (Nat.not_lt.mpr hlen)
    calc exec (.fwData off bytes) s = execFwData off bytes s := rfl
      _ = _ := by
        simp only [execFwData, guarded, hserved, hn, hoff, hlen', Option.isNone_some, bne_self_eq_false, Bool.or_self,
          Bool.false_eq_true, if_true, if_false]
  · subst hu
    cases hgood : fwGood n s.hif.fwBytes with
    | false =>
      refine ⟨_, exec_fwEnd_bad hserved hn hgood, ?_, fun _ => rfl, fun h => absurd h (by decide)⟩
      rw [endStatus_regsOnly]
      rfl
    | true =>
      have hregs : smRising none ({ s with hif := { s.hif with fwLen := none, fwBytes := [], fw := s.hif.fwBytes } } : State).regs
          = true := canon_regs hc
      obtain ⟨hrun, hshown⟩ := started_shows s.hif.fwBytes hregs
      refine ⟨_, exec_fwEnd_good hserved hn hgood, ?_, fun h => absurd h (by decide), fun _ => ⟨hrun, ?_, hshown, rfl⟩⟩
      · rw [started_regsOnly]
        rfl
      · rw [started_regsOnly]
        rfl
  · subst hpage
    rw [exec_blockReady hs hfw hpwr hr htest hfail hret, furnished_eq ht hctrl hother, hno, if_neg (by decide)]
    simp only [hasTest, Bool.or_eq_false_iff] at hno
    rw [hother hno.1.1.1 hno.1.1.2]
  · subst hpage
    rw [exec_blockReady hs hfw hpwr hr htest hfail hret, furnished_eq ht hctrl hother, if_pos hyes]
  · subst hu
    rfl
  · calc exec .hostLinkDown s = execHostLinkDown s := rfl
      _ = _ := by simp only [execHostLinkDown, guarded, hup, beq_self_eq_true, if_true]
  · calc exec (.ideIntegrityFail k) s = execIdeIntegrityFail k s := rfl
      _ = _ := by simp only [execIdeIntegrityFail, guarded, hk, beq_self_eq_true, if_true]

end Sys2Proof.Machine


/-! Test ports, attestation and image keys (16 R567; 18 R636; 19 R670; 21; 22 R723). -/

namespace Sys2Proof.Machine

/-! Test ports. -/

theorem exec_smbusBlockRead {s : State} (k : Byte) (h : s.boot.hold = false) :
    exec (.smbusBlockRead k) s = .next (match smbusReg k.toNat with
      | some (p, o) => { s with resp := { code := 0, data := leBytes 4 (blockReg s p o).toNat } }
      | none => { s with resp := { code := 1, data := [] } }) := by
  calc exec (.smbusBlockRead k) s = execSmbusBlockRead k s := rfl
    _ = _ := by simp only [execSmbusBlockRead, guarded, h, Bool.not_false, if_true] <;> rfl

theorem jtagPins_eq (s : State) (i : Nat) : jtagPins s i =
    { s with boot := { s.boot with jtag := if s.boot.perst ∧ s.boot.hold = false then i else 1 }, resp := { code := 0, data := [] } } := by
  simp only [jtagPins, jtagSelect, Bool.and_eq_true, Bool.not_eq_true']

/-- Settles O44. -/
theorem testPorts : Obligations.TestPorts := by
  refine fun s => ⟨fun hserved hen hfw => ⟨fun hr htrng => ?_, fun c sig u hc hu => ?_⟩, rfl, ?_, rfl, fun c i hc => ?_,
    fun hh => ⟨fun k hk => ?_, fun k hk hk' => ?_, fun k hk hk' => ?_⟩, rfl⟩
  · calc exec .testChallenge s = execTestChallenge s := rfl
      _ = _ := by
        simp only [execTestChallenge, guarded, hserved, hr, hfw, hen, htrng, Bool.not_true, Bool.or_self, Bool.false_eq_true,
          if_true, if_false]
  · subst hu
    calc exec (.testUnlock sig) s = execTestUnlock sig s := rfl
      _ = _ := by
        simp only [execTestUnlock, guarded, hserved, hc, hfw, hen, Bool.not_true, Bool.or_self, Bool.false_eq_true, if_true,
          if_false]
        rfl
  · have hbytes : leBytes 4 0x05684A5B = [0x5B, 0x4A, 0x68, 0x05] := by decide
    rw [← hbytes]
    rfl
  · simp only [List.mem_cons, List.not_mem_nil, or_false, Prod.mk.injEq] at hc
    rcases hc with ⟨rfl, rfl⟩ | ⟨rfl, rfl⟩ | ⟨rfl, rfl⟩
    · exact (rfl : exec .jtagExtest s = .next (jtagPins s 3)).trans (congrArg _ (jtagPins_eq s 3))
    · exact (rfl : exec .jtagClamp s = .next (jtagPins s 4)).trans (congrArg _ (jtagPins_eq s 4))
    · exact (rfl : exec .jtagHighz s = .next (jtagPins s 5)).trans (congrArg _ (jtagPins_eq s 5))
  · have hreg : smbusReg k.toNat = some (0x006, 0x40 + 4 * k.toNat) := if_pos hk
    rw [exec_smbusBlockRead k hh, hreg]
  · have hreg : smbusReg k.toNat = some (0x007, 0x40 + 4 * (k.toNat - 0x40)) :=
      (if_neg (by omega)).trans (if_pos ⟨hk, hk'⟩)
    rw [exec_smbusBlockRead k hh, hreg]
  · have hreg : smbusReg k.toNat = none := (if_neg (by omega)).trans (if_neg (by omega))
    rw [exec_smbusBlockRead k hh, hreg]

/-! Attestation. -/

section Requests

variable {s u : State} {act : State → State}

/-- A ready device counts a request and answers it. -/
theorem spdmReq_served (hu : u = count1 s 0x011 0) (hserved : doeServed s = true) (hr : getReady s 0x10 = true)
    (hwarm : warmActive u = false) : spdmReq act s = .next (act u) := by
  subst hu
  simp only [spdmReq, guarded, hserved, hr, hwarm, Bool.and_self, Bool.false_eq_true, if_true, if_false]

theorem spdmNeg_served (hu : u = count1 s 0x011 0) (hserved : doeServed s = true) (hr : getReady s 0x10 = true)
    (hwarm : warmActive u = false) (h3 : 3 ≤ u.sec.spdm) : spdmNeg act s = .next (act u) := by
  rw [spdmNeg, spdmReq_served hu hserved hr hwarm, if_neg (Nat.not_lt.mpr h3)]

theorem inSession_served {n : Nat} (hu : u = count1 s 0x011 0) (hserved : doeServed s = true) (hr : getReady s 0x10 = true)
    (hwarm : warmActive u = false) (h3 : 3 ≤ u.sec.spdm) (hn : u.sec.sessions.contains n = true) :
    inSession n act s = .next (act u) := by
  rw [inSession, spdmNeg_served hu hserved hr hwarm h3, hn]
  rfl

end Requests

/-! Image keys. -/

section Keys

variable {s : State}

theorem exec_keyEnable (htakes : takesCommand s 0x011 = true) : exec (.keyEnable 0#24) s = .next
    (if keyLocked s || !onCurve (stagedKey s) then postResult (taken s 0x011 0xA0 0#24) 0x011 rUNSUP 0xA0
     else if anyImage s then postResult (taken s 0x011 0xA0 0#24) 0x011 rBUSY 0xA0
     else postResult (setRgF (setKeyHash (taken s 0x011 0xA0 0#24) (sha256 (regBytes (taken s 0x011 0xA0 0#24) 0x011 0x50 16)))
       0x011 0x44 0 0 1) 0x011 rOK 0xA0) := by
  calc exec (.keyEnable 0#24) s = execKeyEnable 0#24 s := rfl
    _ = _ := by
      rw [execKeyEnable, command0_takes htakes, anyImage_taken]
      rfl

theorem exec_keyDisable (htakes : takesCommand s 0x011 = true) : exec (.keyDisable 0#24) s = .next
    (if keyLocked s then postResult (taken s 0x011 0xA1 0#24) 0x011 rUNSUP 0xA1
     else if anyImage s then postResult (taken s 0x011 0xA1 0#24) 0x011 rBUSY 0xA1
     else postResult (setRgF (setKeyHash (taken s 0x011 0xA1 0#24) []) 0x011 0x44 0 0 0) 0x011 rOK 0xA1) := by
  calc exec (.keyDisable 0#24) s = execKeyDisable 0#24 s := rfl
    _ = _ := by
      rw [execKeyDisable, command0_takes htakes, anyImage_taken]
      rfl

end Keys

/-- Settles O45. -/
theorem securityCommands : Obligations.SecurityCommands := by
  refine ⟨fun s u n hu hserved hr hwarm => ⟨?_, fun h => ?_, fun h => ?_, fun h3 => ?_⟩,
    fun s w => ⟨fun htakes hlock himg => ⟨fun hcurve hw => ?_, fun hw => ?_⟩, fun htakes => ⟨fun hw => ?_, fun hlock hw => ?_⟩⟩⟩
  · calc exec .spdmGetVersion s = execSpdmGetVersion s := rfl
      _ = _ := by rw [execSpdmGetVersion, spdmReq_served hu hserved hr hwarm]
  · calc exec .spdmGetCapabilities s = execSpdmGetCapabilities s := rfl
      _ = _ := by rw [execSpdmGetCapabilities, spdmReq_served hu hserved hr hwarm, if_neg h]
  · calc exec .spdmNegotiateAlgorithms s = execSpdmNegotiateAlgorithms s := rfl
      _ = _ := by rw [execSpdmNegotiateAlgorithms, spdmReq_served hu hserved hr hwarm, if_neg (Nat.not_lt.mpr h)]
  · have neg := fun (act : State → State) => spdmNeg_served (act := act) hu hserved hr hwarm h3
    have session := fun (act : State → State) (hn : u.sec.sessions.contains n.toNat = true) =>
      inSession_served (act := act) hu hserved hr hwarm h3 hn
    refine ⟨?_, fun off len => ?_, fun i hi => ?_, fun htrng => ⟨?_, fun hs ho hlt => ?_⟩, fun hge hs ho => ?_, fun ho => ?_,
      fun hs => ⟨?_, ?_, ?_, fun k d q key v hv => ?_⟩, fun hs => ?_⟩
    · calc exec .spdmGetDigests s = execSpdmGetDigests s := rfl
        _ = _ := by rw [execSpdmGetDigests, neg]
    · calc exec (.spdmGetCertificate 0 off len) s = execSpdmGetCertificate 0 off len s := rfl
        _ = _ := by
          rw [execSpdmGetCertificate, neg, if_neg (show ¬ (0 : BitVec 4) ≠ 0 by decide)]
    · calc exec (.spdmGetMeasurements i false) s = execSpdmGetMeasurements i false s := rfl
        _ = _ := by
          rw [execSpdmGetMeasurements, neg, if_neg (by omega)]
          rfl
    · calc exec (.spdmChallenge 0) s = execSpdmChallenge 0 s := rfl
        _ = _ := by
          rw [execSpdmChallenge, neg, if_neg (show ¬ (0 : BitVec 4) ≠ 0 by decide), needTrng, if_pos htrng]
    · calc exec (.spdmKeyExchange n) s = execSpdmKeyExchange n s := rfl
        _ = _ := by
          rw [execSpdmKeyExchange, neg]
          simp only [hs, ho, Bool.or_self, Bool.false_eq_true, if_false, if_neg (Nat.not_le.mpr hlt), needTrng, htrng, if_true]
    · calc exec (.spdmKeyExchange n) s = execSpdmKeyExchange n s := rfl
        _ = _ := by
          rw [execSpdmKeyExchange, neg]
          simp only [hs, ho, Bool.or_self, Bool.false_eq_true, if_false, if_pos hge]
    · calc exec (.spdmFinish n) s = execSpdmFinish n s := rfl
        _ = _ := by
          rw [execSpdmFinish, neg]
          simp only [ho, Bool.not_true, Bool.false_eq_true, if_false]
    · calc exec (.spdmEndSession n) s = execSpdmEndSession n s := rfl
        _ = _ := by rw [execSpdmEndSession, session _ hs]
    · calc exec (.spdmHeartbeat n) s = execSpdmHeartbeat n s := rfl
        _ = _ := by rw [execSpdmHeartbeat, session _ hs]
    · calc exec (.spdmKeyUpdate n) s = execSpdmKeyUpdate n s := rfl
        _ = _ := by rw [execSpdmKeyUpdate, session _ hs]
    · subst hv
      calc exec (.ideKeyProgram n k d q key) s = execIdeKeyProgram n k d q key s := rfl
        _ = _ := by rw [execIdeKeyProgram, session _ hs]
    · calc exec (.spdmHeartbeat n) s = execSpdmHeartbeat n s := rfl
        _ = _ := by
          rw [execSpdmHeartbeat, inSession, neg, hs]
          rfl
  · subst hw
    rw [exec_keyEnable htakes, hlock, hcurve, himg]
    rfl
  · subst hw
    rw [exec_keyDisable htakes, hlock, himg]
    rfl
  · subst hw
    calc exec (.keyLock 0#24) s = execKeyLock 0#24 s := rfl
      _ = _ := by rw [execKeyLock, command0_takes htakes]
  · subst hw
    rw [exec_keyEnable htakes, hlock]
    rfl

end Sys2Proof.Machine


/-! A block's control, self-tests and power, and writes with an effect of their own (02 R42 to R45; 05 R175; 09 R311; 10 R324;
12 R393; 18 R608, R623 to R628; 19 R671). -/

namespace Sys2Proof.Machine

/-! `BLK_CONTROL`. -/

section Control

variable {s u : State} {page : PageIx} {v : Word}

theorem exec_enable (h : hubServed s page.toNat = true) (hu : u = noteWrite s page.toNat) :
    exec (.enable page v) s = .next (if keepsBlock u page.toNat v then postControl u page.toNat rBUSY
      else setCtl u page.toNat 0 (v.getLsbD 0)) := by
  subst hu
  calc exec (.enable page v) s = execEnable page v s := rfl
    _ = _ := by simp only [execEnable, guarded, h, if_true]

theorem exec_quiesce (h : hubServed s page.toNat = true) (hu : u = noteWrite s page.toNat) :
    exec (.quiesce page v) s = .next (setBlk (setCtl u page.toNat 1 (v.getLsbD 1)) page.toNat
      { getBlk (setCtl u page.toNat 1 (v.getLsbD 1)) page.toNat with
        busy := v.getLsbD 1 && workInFlight (setCtl u page.toNat 1 (v.getLsbD 1)) page.toNat }) := by
  subst hu
  calc exec (.quiesce page v) s = execQuiesce page v s := rfl
    _ = _ := by simp only [execQuiesce, guarded, h, if_true]

/-- A self-test asked for. -/
theorem exec_selftest (h : hubServed s page.toNat = true) (hu : u = noteWrite s page.toNat) (hv : v.getLsbD 2 = true) :
    exec (.selftest page v) s = .next
      (if blkBusy u page.toNat then postControl (setCtl u page.toNat 2 false) page.toNat rBUSY
       else if !hasTest page.toNat then postControl (setCtl u page.toNat 2 false) page.toNat rUNSUP
       else if !(getBlk u page.toNat).pwrOn then u
       else if testRefused u page.toNat then postControl (setCtl u page.toNat 2 false) page.toNat rBUSY
       else setReady (setBlk (setCtl u page.toNat 2 true) page.toNat
         { getBlk (setCtl u page.toNat 2 true) page.toNat with testPage := some page.toNat }) page.toNat false) := by
  subst hu
  calc exec (.selftest page v) s = execSelftest page v s := rfl
    _ = _ := by simp only [execSelftest, guarded, h, hv, if_true, Bool.not_true, Bool.false_eq_true, if_false, refuseTest]

theorem exec_pwrReq (h : hubServed s page.toNat = true) (hu : u = noteWrite s page.toNat) (hd : hasDomain page.toNat = true)
    (hret : isRetiredPage u page.toNat = false) (hk : keepsBlock u page.toNat v = false) :
    exec (.pwrReq page v) s = .next
      (if v.getLsbD 3 then setCtl u page.toNat 3 true
       else if ctl u page.toNat 3 && powerRefused u page.toNat then postControl u page.toNat rBUSY
       else setCtl u page.toNat 3 false) := by
  subst hu
  calc exec (.pwrReq page v) s = execPwrReq page v s := rfl
    _ = _ := by
      simp only [execPwrReq, guarded, h, hd, hret, hk, if_true, Bool.not_true, Bool.or_self, Bool.false_or, Bool.false_eq_true,
        if_false]

end Control

/-- Settles O46. -/
theorem blockControl : Obligations.BlockControl := by
  intro s u page p v hp
  subst hp
  refine ⟨fun c code hc hcmd hs hrun => ?_, fun hhub hu => ⟨fun hk => ?_, fun hk => ?_, exec_quiesce hhub hu, fun hv hb => ?_,
    fun hv hb ht => ?_, fun hv hb ht hpwr href => ?_, fun hd hret => ⟨fun hv hk => ?_, fun hv hk href => ?_⟩⟩,
    fun hh hq hw => ?_, fun ok f q r htest ht hu hr => ?_, fun hd hoff hpwr hu => ⟨fun ht => ?_, fun ht => ?_⟩,
    fun hd hon hpwr hret hu => ?_⟩
  · obtain ⟨-, hgate⟩ := hostCommand_passesGate hcmd
    obtain ⟨arg, w, refuse, act, hexec, -⟩ := hgate s
    have hbusy : cmdBusy s page.toNat = true := by rw [cmdBusy, hrun, Bool.or_true]
    refine ⟨by rw [hexec, command_busy hc hs hbusy], ?_⟩
    rw [getPage_noteWrite_same _ (canon_pages hc)]
  · rw [exec_enable hhub hu, if_neg (by rw [hk]; decide)]
  · rw [exec_enable hhub hu, if_pos hk]
  · rw [exec_selftest hhub hu hv, if_pos hb]
  · rw [exec_selftest hhub hu hv, hb, ht]
    rfl
  · rw [exec_selftest hhub hu hv, hb, ht, hpwr, href]
    rfl
  · rw [exec_pwrReq hhub hu hd hret hk, if_pos hv]
  · rw [exec_pwrReq hhub hu hd hret hk, hv, href, Bool.and_false]
    rfl
  · calc exec (.quiesceIdle page) s = execQuiesceIdle page s := rfl
      _ = _ := by simp only [execQuiesceIdle, guarded, hh, hq, hw, Bool.not_false, Bool.and_self, if_true]
  · subst hr hu
    calc exec (.selftestEnd page ok f) s = execSelftestEnd page ok f s := rfl
      _ = _ := by simp only [execSelftestEnd, htest, guarded, ht, if_true]
  · subst hu
    calc exec (.powerDomainOff page) s = execPowerDomainOff page s := rfl
      _ = _ := by
        simp only [execPowerDomainOff, guarded, hd, hoff, hpwr, ht, Bool.not_false, Bool.and_self, Bool.false_eq_true, if_true,
          if_false]
  · subst hu
    calc exec (.powerDomainOff page) s = execPowerDomainOff page s := rfl
      _ = _ := by simp only [execPowerDomainOff, guarded, hd, hoff, hpwr, ht, Bool.not_false, Bool.and_self, if_true]
  · subst hu
    calc exec (.powerDomainOn page) s = execPowerDomainOn page s := rfl
      _ = _ := by
        simp only [execPowerDomainOn, guarded, hd, hon, hpwr, hret, Bool.not_false, Bool.and_self, if_true]

/-! Writes with an effect of their own. -/

section Writes

variable {s : State} {v hi : Word}

theorem exec_launchAtWrite (p : PartIx) (hs : pageServed s 0x07C = true) :
    exec (.launchAtWrite p false (some hi) v) s = .next (launchWrite (noteWrite s 0x07C) p.toNat (v.toNat + 2 ^ 32 * hi.toNat)) := by
  calc exec (.launchAtWrite p false (some hi) v) s = execLaunchAtWrite p false (some hi) v s := rfl
    _ = _ := by
      simp only [execLaunchAtWrite, guarded, hs, Bool.false_eq_true, if_false, if_true, full64, Option.orElse_some,
        Option.getD_some]

/-- The state in which a launch is armed. -/
def launchArmed (s : State) (p g : Nat) : State :=
  syncLaunchState (updPart (setRg64 s 0x07C (0x40 + 16 * p) g) p (fun x => { x with armed := some g, armedAt := now s })) p

theorem launchWrite_arms {p g : Nat} (hg : g ≠ 2 ^ 64 - 1) (himg : hasImage s p = true) (hnow : now s + 1024 ≤ g) :
    launchWrite s p g = launchArmed s p g := by
  have himg' : hasImage (setRg64 s 0x07C (0x40 + 16 * p) g) p = true := himg
  have hnow' : ¬ g < now (setRg64 s 0x07C (0x40 + 16 * p) g) + 1024 := Nat.not_lt.mpr hnow
  simp only [launchWrite, if_neg hg, himg', Bool.not_true, Bool.false_eq_true, if_false, if_neg hnow']
  rfl

theorem armed_launchArmed (p g : Nat) (hc : s.canon = true) : (getPart (launchArmed s p g) p).armed = some g := by
  have hparts : smRising none (setRg64 s 0x07C (0x40 + 16 * p) g).parts = true := by
    rw [setRg64_parts]
    exact canon_parts hc
  rw [launchArmed, syncLaunchState, getPart_setRgF, getPart_updPart_same _ _ hparts]

theorem count_launchArmed (p : Nat) {g : Nat} (hg : g < 2 ^ 64) (hc : s.canon = true) :
    rg64 (launchArmed s p g) 0x07C (0x40 + 16 * p) = g := by
  have hr := setRg64_rising 0x07C (0x40 + 16 * p) g (canon_regs hc)
  have hu : smRising none (updPart (setRg64 s 0x07C (0x40 + 16 * p) g) p (fun x => { x with armed := some g, armedAt := now s })).regs
      = true := by
    rw [updPart_regs]
    exact hr
  rw [launchArmed, syncLaunchState, rg64_setRgF_ne (by omega) (by omega) hu, rg64_updPart,
    rg64_setRg64_same _ _ hg (canon_regs hc)]

theorem exec_modeReqWrite (hs : pageServed s 0x001 = true) (hm : fld v 1 0 < 3) :
    exec (.modeReqWrite v) s = .next (setRgF (setRgF (noteWrite s 0x001) 0x001 0x40 1 0 (fld v 1 0)) 0x001 0x48 11 0
      (max (rgF (setRgF (noteWrite s 0x001) 0x001 0x40 1 0 (fld v 1 0)) 0x001 0x48 11 0) (setpoint (fld v 1 0)))) := by
  calc exec (.modeReqWrite v) s = execModeReqWrite v s := rfl
    _ = _ := by simp only [execModeReqWrite, guarded, hs, if_true, if_neg (Nat.ne_of_lt hm)]

theorem setpoint_lt (m : Nat) : setpoint m < 2 ^ 12 := by
  unfold setpoint
  split
  · decide
  · split <;> decide

theorem fld_lt (w : Word) (hi lo : Nat) : fld w hi lo < 2 ^ (hi + 1 - lo) := Nat.mod_lt _ (Nat.two_pow_pos _)

/-- The request and the setpoint after a mode request of a canonical state. -/
theorem modeReq_shows (hc : s.canon = true) {m : Nat} (hm : m < 4) :
    rgF (setRgF (setRgF (noteWrite s 0x001) 0x001 0x40 1 0 m) 0x001 0x48 11 0
      (max (rgF (setRgF (noteWrite s 0x001) 0x001 0x40 1 0 m) 0x001 0x48 11 0) (setpoint m))) 0x001 0x40 1 0 = m ∧
    rgF (setRgF (setRgF (noteWrite s 0x001) 0x001 0x40 1 0 m) 0x001 0x48 11 0
      (max (rgF (setRgF (noteWrite s 0x001) 0x001 0x40 1 0 m) 0x001 0x48 11 0) (setpoint m))) 0x001 0x48 11 0 =
      max (rgF s 0x001 0x48 11 0) (setpoint m) := by
  have h0 : smRising none (noteWrite s 0x001).regs = true := canon_regs (noteWrite_canon _ hc)
  have h1 := setRgF_rising 0x001 0x40 1 0 m h0
  have hmax : max (rgF s 0x001 0x48 11 0) (setpoint m) < 2 ^ (11 + 1 - 0) := Nat.max_lt.mpr ⟨fld_lt _ _ _, setpoint_lt m⟩
  have hkeeps : rgF (setRgF (noteWrite s 0x001) 0x001 0x40 1 0 m) 0x001 0x48 11 0 = rgF s 0x001 0x48 11 0 :=
    rgF_setRgF_ne (by decide) h0
  rw [hkeeps]
  exact ⟨(rgF_setRgF_ne (by decide) h1).trans (rgF_setRgF_same h0 (by decide) (by decide) hm),
    rgF_setRgF_same h1 (by decide) (by decide) hmax⟩

/-- A state that a write to the mode page changes keeps everything but its pages and registers. -/
theorem modeReq_frame (p a b m x : Nat) (hi lo hi' lo' : Nat) :
    setRgF (setRgF (noteWrite s p) p a hi lo m) p b hi' lo' x = { s with
      pages := (setRgF (setRgF (noteWrite s p) p a hi lo m) p b hi' lo' x).pages
      regs := (setRgF (setRgF (noteWrite s p) p a hi lo m) p b hi' lo' x).regs } := rfl

/-- An injection of a kind that waits for its target is armed. -/
theorem exec_faultInjectArm {u : State} (hs : pageServed s 0x003 = true) (ht : s.boot.testMode = true)
    (hv : v.getLsbD 0 = true) (h1 : 1 ≤ fld v 3 1) (h4 : fld v 3 1 ≤ 4) (hn : fld v 15 8 ≠ 0) (hu : u = noteWrite s 0x003) :
    exec (.faultInjectArm v) s = .next { setRg u 0x003 0x100 (BitVec.ofNat 32 (1 + 2 * fld v 3 1 + 256 * fld v 15 8)) with
      fi := { kind := fld v 3 1, page := rgF s 0x003 0x104 8 0, data := rg s 0x003 0x108, left := fld v 15 8 } } := by
  subst hu
  have hrefused : (!s.boot.testMode || fld v 3 1 == 0 || decide (5 < fld v 3 1) || fld v 15 8 == 0) = false := by
    simp only [ht, Bool.not_true, Bool.false_or, Bool.or_eq_false_iff, beq_eq_false_iff_ne, decide_eq_false_iff_not]
    omega
  have h5 : (fld v 3 1 == 5) = false := by
    rw [beq_eq_false_iff_ne]
    omega
  have h5' : (fld v 3 1 != 5) = true := by rw [bne, h5, Bool.not_false]
  calc exec (.faultInjectArm v) s = execFaultInjectArm v s := rfl
    _ = _ := by
      simp only [execFaultInjectArm, guarded, hs, if_true, noteWrite_boot, hrefused, Bool.false_eq_true, if_false, hv, h5, h5',
        Bool.and_self, Bool.and_false, Bool.false_and, Bool.toNat_true]

end Writes

theorem partOf_noteWrite (s : State) (p t : Nat) : partOf (noteWrite s p) t = partOf s t := rfl

/-- Settles O48. -/
theorem controlWrites : Obligations.ControlWrites := by
  refine fun s u v => ⟨fun p hi hs hu => ⟨?_, fun g hg hmax himg hnow hc => ?_⟩,
    fun site t hi hsite hs ht hu => ⟨?_, fun hv => ?_, fun himg htest hrot f hf => ?_⟩,
    fun off hs h4 hlo hhi himg hu => ?_, fun hs hm hc => ?_,
    fun hs ht hv h1 h4 hn hu => exec_faultInjectArm hs ht hv h1 h4 hn hu⟩
  · subst hu
    exact exec_launchAtWrite p hs
  · have harm := launchWrite_arms (s := noteWrite s 0x07C) hmax himg hnow
    have hc' : (noteWrite s 0x07C).canon = true := noteWrite_canon _ hc
    have hg64 : g < 2 ^ 64 := by omega
    subst hg
    exact ⟨_, (exec_launchAtWrite p hs).trans (congrArg _ harm), armed_launchArmed _ _ hc', count_launchArmed _ hg64 hc'⟩
  · subst hu
    calc exec (.rngSeedWrite site (some hi) v) s = execRngSeedWrite site (some hi) v s := rfl
      _ = _ := by
        have ht' : tileAt (noteWrite s (0x100 + site.toNat)) site.toNat = some t := ht
        simp only [execRngSeedWrite, guarded, hsite, hs, decide_true, Bool.and_self, if_true, ht', full64, Option.orElse_some,
          Option.getD_some, ofNat_words, isRunning_noteWrite, partOf_noteWrite]
        cases isRunning s (partOf s t) <;> rfl
  · subst hu
    have ht' : tileAt (setRg (setRg (noteWrite s (0x100 + site.toNat)) (0x100 + site.toNat) 0x200 0) (0x100 + site.toNat) 0x204 0)
        site.toNat = some t := ht
    calc exec (.skinkFirstClear site v) s = execSkinkFirstClear site v s := rfl
      _ = _ := by
        simp only [execSkinkFirstClear, guarded, hsite, hs, hv, decide_true, Bool.and_self, if_true, ht', Bool.not_true,
          Bool.false_eq_true, if_false]
  · subst hu hf
    calc exec (.arrayRepairWrite site v) s = execArrayRepairWrite site v s := rfl
      _ = _ := by
        simp only [execArrayRepairWrite, guarded, hsite, hs, ht, himg, getBlk_noteWrite, htest, noteWrite_fc, hrot, decide_true,
          Bool.and_self, if_true, Option.isSome_none, Bool.or_self, Bool.false_eq_true, if_false, rg_noteWrite]
  · subst hu
    have hlt : off.toNat < 0xD4 := by omega
    have himg' : anyImage (noteWrite s 0x004) = false := himg
    calc exec (.siteMapStageWrite off v) s = execSiteMapStageWrite off v s := rfl
      _ = _ := by
        simp only [execSiteMapStageWrite, guarded, hs, h4, hlo, hlt, hhi, himg', beq_self_eq_true, decide_true, Bool.and_self, if_true,
          Bool.false_eq_true, if_false]
  · obtain ⟨hreq, hset⟩ := modeReq_shows hc (show fld v 1 0 < 4 by omega)
    exact ⟨_, exec_modeReqWrite hs hm, hreq, hset, modeReq_frame _ _ _ _ _ _ _ _ _⟩

end Sys2Proof.Machine


/-! Power, heat and the output pins (18 R605 to R621; 22 R720 to R727). -/

namespace Sys2Proof.Machine

/-! Power modes and stretching. -/

section Modes

variable {s : State}

theorem exec_modeApply (htakes : takesCommand s 0x001 = true) : exec (.modeApply 0#24) s = .next
    (if rgF s 0x001 0x40 1 0 = 3 then postResult (taken s 0x001 0x90 0#24) 0x001 rUNSUP 0x90
     else if anyRunning s then postResult (taken s 0x001 0x90 0#24) 0x001 rBUSY 0x90
     else if rgF s 0x007 0x4C 11 0 + 10 < rgF s 0x001 0x48 11 0 then postResult (taken s 0x001 0x90 0#24) 0x001 rNOTREADY 0x90
     else postRunning (updPower (taken s 0x001 0x90 0#24) (fun x => { x with
       switch := some (modeDiv (rgF s 0x001 0x40 1 0), some (rgF s 0x001 0x40 1 0), now s + 210) })) 0x001 0x90) := by
  calc exec (.modeApply 0#24) s = execModeApply 0#24 s := rfl
    _ = _ := by
      rw [execModeApply, command0_takes htakes]
      rfl

theorem exec_dividerSwitch_mode {d k from_ : Nat} (hsw : s.power.switch = some (d, some k, from_))
    (hedge : switchEdge s d from_ = true) (ha : aclkOn s = true) : exec .dividerSwitch s = .next
    (modeChanged (setDivider (updPower s (fun x => { x with switch := none })) d k) k) := by
  calc exec .dividerSwitch s = execDividerSwitch s := rfl
    _ = _ := by simp only [execDividerSwitch, hsw, guarded, hedge, ha, Bool.and_self, if_true, Option.getD_some]

theorem exec_dividerSwitch_step {d from_ : Nat} (hsw : s.power.switch = some (d, none, from_))
    (hedge : switchEdge s d from_ = true) (ha : aclkOn s = true) : exec .dividerSwitch s = .next
    (if divider s < d then stretched (setDivider (updPower s (fun x => { x with switch := none })) d (powerMode s))
     else released (setDivider (updPower s (fun x => { x with switch := none })) d (powerMode s))) := by
  calc exec .dividerSwitch s = execDividerSwitch s := rfl
    _ = _ := by simp only [execDividerSwitch, hsw, guarded, hedge, ha, Bool.and_self, if_true, Option.getD_none]

end Modes

/-! Samples. -/

/-- A map's entry put at a key leaves every other, in canonical form or not. -/
theorem smGet_smPut_other {V : Type} (d : Nat → V) (m : List (Nat × V)) {k i : Nat} (v : V) (hi : i ≠ k) :
    smGet d (smPut m k v) i = smGet d m i := by
  induction m with
  | nil => simp [smPut, smGet, hi]
  | cons e m ih =>
    obtain ⟨j, w⟩ := e
    rcases Nat.lt_trichotomy k j with hk | hk | hk
    · have hput : smPut ((j, w) :: m) k v = (k, v) :: (j, w) :: m := by
        rw [smPut, if_neg (Nat.ne_of_lt hk), if_pos hk]
      rw [hput]
      by_cases hik : i < k
      · simp [smGet, hi, hik, Nat.ne_of_lt (Nat.lt_trans hik hk), Nat.lt_trans hik hk]
      · rw [smGet, if_neg hi, if_neg hik]
    · subst hk
      simp [smPut, smGet, hi]
    · have hput : smPut ((j, w) :: m) k v = (j, w) :: smPut m k v := by
        rw [smPut, if_neg (Nat.ne_of_gt hk), if_neg (Nat.lt_asymm hk)]
      rw [hput, smGet, smGet, ih]

section Samples

variable {s : State}

/-- The supply's monitor takes a reading that is no reset value, which leaves the power mode. -/
theorem powerMode_setMonitor {w : Word} (hw : w ≠ 0) : powerMode (setRg s 0x007 0x4C w) = powerMode s := by
  have hreset : regReset (0x007 * 4096 + 0x4C) = 0 := by decide
  have hrg : rg (setRg s 0x007 0x4C w) 0x001 0x044 = rg s 0x001 0x044 := by
    rw [rg, setRg, smSet, hreset, if_neg hw]
    exact smGet_smPut_other _ _ _ (by decide)
  rw [powerMode, powerMode, rgF, rgF, hrg]

theorem monitor_ne_zero {vcore current : BitVec 12} (h : 0 < vcore.toNat) :
    BitVec.ofNat 32 (vcore.toNat + 65536 * current.toNat) ≠ 0 := by
  intro heq
  have hv := vcore.isLt
  have hc := current.isLt
  have h0 := congrArg BitVec.toNat heq
  rw [BitVec.toNat_ofNat, Nat.mod_eq_of_lt (by omega)] at h0
  have hz : (0 : Word).toNat = 0 := rfl
  omega

theorem setpoint_ge (m : Nat) : 620 ≤ setpoint m := by
  unfold setpoint
  split
  · decide
  · split <;> decide

/-- A sample in service at a sufficient supply, the energy of less than a joule gathered. -/
theorem exec_powerSample {power : BitVec 16} {vcore current : BitVec 12} (hh : s.boot.hold = false) (hp : s.boot.perst = false)
    (hv : setpoint (powerMode s) ≤ vcore.toNat + 5) (he : s.power.energy + power.toNat < 400) :
    exec (.powerSample power vcore current) s = .next (noteCalm (setRg (updPower s (fun x => { x with
      samples := (power.toNat :: x.samples).take 10, energy := s.power.energy + power.toNat })) 0x007 0x4C
      (BitVec.ofNat 32 (vcore.toNat + 65536 * current.toNat))) false) := by
  have hpos := setpoint_ge (powerMode s)
  have hword := monitor_ne_zero (vcore := vcore) (current := current) (by omega)
  have hmode : ∀ f, powerMode (setRg (updPower s f) 0x007 0x4C (BitVec.ofNat 32 (vcore.toNat + 65536 * current.toNat))) =
      powerMode s := fun f => powerMode_setMonitor hword
  have hlow : decide (vcore.toNat + 15 < setpoint (powerMode s)) = false := decide_eq_false (by omega)
  have hcalm : decide (vcore.toNat + 5 < setpoint (powerMode s)) = false := decide_eq_false (by omega)
  calc exec (.powerSample power vcore current) s = execPowerSample power vcore current s := rfl
    _ = _ := by
      simp only [execPowerSample, guarded, hh, hp, Bool.not_false, Bool.and_self, if_true, if_pos he, hmode, hlow, hcalm,
        Bool.false_eq_true, if_false, Nat.mod_eq_of_lt he]

theorem exec_sensorSample {u : State} {rs : List (BitVec 8 × Int × Bool)} (hh : s.boot.hold = false) (hp : s.boot.perst = false)
    (hu : u = (rs.filter (fun r => decide (r.1.toNat < 152))).foldl takeReading s) (hcool : (findHottest u).1 ≤ 380) :
    exec (.sensorSample rs) s = .next (noteCalm (showThermal (raiseLevel (setRgF (setRgF
      (setRg u 0x006 0x40 (BitVec.ofNat 32 ((findHottest u).1 + 65536 * (findHottest u).2))) 0x006 0x48 1 1
      (decide (380 < (findHottest u).1)).toNat) 0x006 0x48 3 3 (!u.power.excluded.isEmpty).toNat) 0x006 3 false)) false) := by
  subst hu
  have hhot := decide_eq_false (Nat.not_lt.mpr hcool)
  calc exec (.sensorSample rs) s = execSensorSample rs s := rfl
    _ = _ := by
      simp only [execSensorSample, guarded, hh, hp, Bool.not_false, Bool.and_self, if_true, hhot, Bool.false_eq_true, if_false]
      rfl

/-- The state after a free choice. -/
def chosen (s : State) : State := { s with free := s.free + 1 }

/-- A quotient without remainder is not open. -/
theorem openQuot_exact {a b : Nat} (h : a % b = 0) : openQuot s a b = (a / b, chosen s) := by
  simp only [openQuot, choose, h, if_true, Nat.add_zero, chosen]

/-- Ten samples taken as an average that is not too high. -/
def gathered (s : State) (sum : Nat) : State :=
  updPower s (fun w => { w with samples := [], avgs := (sum :: w.avgs).take 10, overRun := 0, overHist := overRecent s })

/-- The average shown, and the excursions, of which there is none. -/
def averaged (s : State) (sum : Nat) : State :=
  setRg (chosen (chosen (setRgF (chosen (gathered s sum)) 0x007 0x40 15 0 (min 65535 (sum / 10))))) 0x007 0x50
    (BitVec.ofNat 32 (min 1023 (0 / 10) + 65536 * min 1023 (0 / 10)))

theorem overRecent_gathered {sum : Nat} (h : s.power.overHist = []) (x : Nat) :
    overRecent (setRgF (chosen (gathered s sum)) 0x007 0x40 15 0 x) = [] := by
  show (overRecent s).filter _ = []
  simp [overRecent, h]

theorem exec_powerAverage100us {sum : Nat} (hlen : s.power.samples.length = 10)
    (hsum : sum = s.power.samples.foldl (· + ·) 0) (hle : sum ≤ 4 * 2000 * 10) (hmod : sum % 10 = 0)
    (hhist : s.power.overHist = []) : exec .powerAverage100us s = .next (noteCalm (averaged s sum) false) := by
  have hhigh : decide (4 * 2000 * 10 < sum) = false := decide_eq_false (Nat.not_lt.mpr hle)
  have hsquall : decide (4 * 2400 * 10 < sum) = false := decide_eq_false (by omega)
  have hrecent := fun x => overRecent_gathered (s := s) (sum := sum) hhist x
  calc exec .powerAverage100us s = execPowerAverage100us s := rfl
    _ = _ := by
      simp only [execPowerAverage100us, guarded, hlen, beq_self_eq_true, if_true, ← hsum, hhigh, hsquall, Bool.false_eq_true,
        if_false, Bool.false_and, Bool.or_self]
      rw [← gathered]
      simp only [openQuot_exact hmod, hrecent, List.length_nil, openQuot_exact (Nat.zero_mod 10),
        if_neg (show ¬ 0 = 1 by decide), averaged]

/-- What the 100-µs average shows and leaves. -/
theorem averaged_shows {sum : Nat} (hc : s.canon = true) (hle : sum ≤ 4 * 2000 * 10) :
    rgF (averaged s sum) 0x007 0x40 15 0 = sum / 10 := by
  have h0 : smRising none (chosen (gathered s sum)).regs = true := canon_regs (s := s) hc
  have h1 := setRgF_rising 0x007 0x40 15 0 (min 65535 (sum / 10)) h0
  have hmin : min 65535 (sum / 10) = sum / 10 := Nat.min_eq_right (by omega)
  have hkeeps : rgF (averaged s sum) 0x007 0x40 15 0 =
      rgF (setRgF (chosen (gathered s sum)) 0x007 0x40 15 0 (min 65535 (sum / 10))) 0x007 0x40 15 0 := rgF_setRg_ne _ (by decide) h1
  rw [hkeeps, rgF_setRgF_same h0 (by decide) (by decide) (by omega), hmin]

/-- Ten 100-µs averages taken as one, before a second is full. -/
def gatheredMs (s : State) (sum : Nat) : State :=
  updPower s (fun w => { w with avgs := [], lastMs := some sum, msAvgs := sum :: s.power.msAvgs })

def averagedMs (s : State) (sum : Nat) : State :=
  setRgF (chosen (gatheredMs s sum)) 0x007 0x44 15 0 (min 65535 (sum / 100))

/-- The mode and its cap stand beside the average. -/
theorem cap_averagedMs {sum : Nat} (hc : s.canon = true) :
    powerMode (averagedMs s sum) = powerMode s ∧ effCap (averagedMs s sum) = effCap s := by
  have h0 : smRising none (chosen (gatheredMs s sum)).regs = true := canon_regs (s := s) hc
  have hmode : powerMode (averagedMs s sum) = powerMode s := rgF_setRgF_ne (by decide) h0
  have hcap : rgF (averagedMs s sum) 0x001 0x4C 11 0 = rgF s 0x001 0x4C 11 0 := rgF_setRgF_ne (by decide) h0
  exact ⟨hmode, by rw [effCap, effCap, hmode, hcap]⟩

theorem exec_powerAverage1ms {sum : Nat} (hc : s.canon = true) (hlen : s.power.avgs.length = 10)
    (hsum : sum = s.power.avgs.foldl (· + ·) 0) (hmod : sum % 100 = 0) (hms : s.power.msAvgs.length < 999)
    (hcap : sum ≤ 400 * effCap s ∨ (powerMode s = 2 ∧ effCap s = 2000)) :
    exec .powerAverage1ms s = .next (noteCalm (averagedMs s sum) false) := by
  obtain ⟨hm, he⟩ := cap_averagedMs (sum := sum) hc
  have hshort : (sum :: s.power.msAvgs).length < 1000 := by
    rw [List.length_cons]
    omega
  have hviol : (!(powerMode s == 2 && effCap s == 2000) && decide (400 * effCap s < sum)) = false := by
    rcases hcap with hle | ⟨h2, h2000⟩
    · rw [decide_eq_false (Nat.not_lt.mpr hle), Bool.and_false]
    · rw [h2, h2000]
      rfl
  calc exec .powerAverage1ms s = execPowerAverage1ms s := rfl
    _ = _ := by
      simp only [execPowerAverage1ms, guarded, hlen, beq_self_eq_true, if_true, ← hsum, if_pos hshort]
      rw [← gatheredMs]
      simp only [openQuot_exact hmod]
      rw [← averagedMs]
      simp only [hm, he, hviol, Bool.false_eq_true, if_false]

theorem averagedMs_shows {sum : Nat} (hc : s.canon = true) (hlt : sum < 100 * 65536) :
    rgF (averagedMs s sum) 0x007 0x44 15 0 = sum / 100 := by
  have h0 : smRising none (chosen (gatheredMs s sum)).regs = true := canon_regs (s := s) hc
  have hmin : min 65535 (sum / 100) = sum / 100 := Nat.min_eq_right (by omega)
  rw [averagedMs, rgF_setRgF_same h0 (by decide) (by decide) (by omega), hmin]

end Samples

/-- The state after the thermal comparator has acted. -/
def tripped (s : State) : State :=
  raiseOpen (goOos (setRgF { s with
    boot := { s.boot with tripPin := true }
    free := s.free + 1
    mem := memBlank { s.mem with poison := [] } 0 (sBase + sSize s) (s.free + 1) } 0x006 0x48 2 2 1)) 0x006 1

theorem exec_thermtrip {s : State} {temp : BitVec 10} (hh : s.boot.hold = false) (hp : s.boot.perst = false)
    (htrip : s.boot.tripPin = false) (ht : 440 ≤ temp.toNat) : exec (.thermtrip temp) s = .next (tripped s) := by
  calc exec (.thermtrip temp) s = execThermtrip temp s := rfl
    _ = _ := by
      simp only [execThermtrip, guarded, hh, hp, htrip, ht, Bool.not_false, decide_true, Bool.and_self, if_true, tripped]

/-- Settles O49. -/
theorem powerSteps : Obligations.PowerSteps := by
  refine fun s u w => ⟨fun htakes hu => ⟨fun hm => ?_, fun hm hr => ?_, fun hm hr hle => ?_⟩,
    fun d m from_ hsw hedge ha hu => ⟨fun k hk => ?_, fun hm hlt => ?_, fun hm hle => ?_⟩,
    fun hlt hsw ha hstep hviol => ?_, fun c hst hsw ha hsince hle => ?_,
    fun hh hp => ⟨fun power vcore current hv he hu => ?_, fun rs hu hw hcool => ?_, fun temp htrip ht m hu hm => ?_⟩,
    fun sum hc hlen hsum hle hmod hhist => ⟨_, exec_powerAverage100us hlen hsum hle hmod hhist, averaged_shows hc hle, rfl, rfl, rfl⟩,
    fun sum hc hlen hsum hmod hlt hms hcap => ⟨_, exec_powerAverage1ms hc hlen hsum hmod hms hcap, averagedMs_shows hc hlt, rfl, rfl,
      rfl⟩⟩
  · subst hu
    rw [exec_modeApply htakes, if_pos hm]
  · subst hu
    rw [exec_modeApply htakes, if_neg hm, if_pos hr]
  · subst hu
    rw [exec_modeApply htakes, if_neg hm, hr, if_neg (by decide), if_neg (Nat.not_lt.mpr hle)]
  · subst hu hk
    exact exec_dividerSwitch_mode hsw hedge ha
  · subst hu hm
    rw [exec_dividerSwitch_step hsw hedge ha, if_pos hlt]
  · subst hu hm
    rw [exec_dividerSwitch_step hsw hedge ha, if_neg (Nat.not_lt.mpr hle)]
  · have hv : (thermalViol s || s.power.pwrViol || s.power.voltViol) = true := by
      rw [Bool.or_eq_true, Bool.or_eq_true]
      exact or_assoc.mpr hviol
    calc exec .stretchStep s = execStretchStep s := rfl
      _ = _ := by
        simp only [execStretchStep, guarded, hlt, hsw, ha, hstep, hv, Option.isNone_none, decide_true, Bool.and_self, if_true,
          safeFrom]
  · have hlong : c + 100 * msTicks ≤ now s := hle
    calc exec .stretchRelease s = execStretchRelease s := rfl
      _ = _ := by
        simp only [execStretchRelease, guarded, bne_iff_ne.mpr hst, hsw, ha, hsince, hlong, Option.isNone_none, decide_true,
          Bool.and_self, if_true, safeFrom]
  · subst hu
    exact exec_powerSample hh hp hv he
  · subst hw
    exact exec_sensorSample hh hp hu hcool
  · subst hu hm
    exact exec_thermtrip hh hp htrip ht

/-! The output pins. -/

section Pins

variable {s : State}

theorem pinColumn_unpowered (h : s.boot.hold = true) : pinColumn s = .unpowered := by rw [pinColumn, if_pos h]

theorem pinColumn_perst (hh : s.boot.hold = false) (hp : s.boot.perst = true) : pinColumn s = .perst := by
  rw [pinColumn, hh, if_neg (by decide), if_pos hp]

theorem pinColumn_tripped (hh : s.boot.hold = false) (hp : s.boot.perst = false) (ht : s.boot.tripPin = true) :
    pinColumn s = .tripped := by
  rw [pinColumn, hh, hp, if_neg (by decide), if_neg (by decide), if_pos ht]

theorem goOos_stands {u : State} (h : Aside s u) : Aside s (goOos u) := by
  unfold goOos
  exact .ite h h

/-- The comparator's act sets its pin, and leaves the other pins and the firmware held. -/
theorem tripped_stands : (tripped s).boot = { s.boot with tripPin := true } ∧ (tripped s).hif.fw = s.hif.fw := by
  have h : Aside (setRgF { s with
      boot := { s.boot with tripPin := true }
      free := s.free + 1
      mem := memBlank { s.mem with poison := [] } 0 (sBase + sSize s) (s.free + 1) } 0x006 0x48 2 2 1) (tripped s) :=
    Aside.raiseOpen (goOos_stands (.refl _))
  simp only [Aside, aside, Prod.mk.injEq] at h
  obtain ⟨-, -, -, -, hboot, -, -, -, -, hfw⟩ := h
  exact ⟨hboot, hfw⟩

end Pins

/-- Settles O60. -/
theorem outputPins : Obligations.OutputPins := by
  refine fun s temp => ⟨fun hh => ⟨coldState s { perst := s.boot.perst, hold := true }, ?_, ?_⟩, fun hh hp =>
    ⟨coldState s { s.boot with perst := true, testMode := false }, ?_, ?_⟩, fun hh hp htrip ht =>
    ⟨tripped s, exec_thermtrip hh hp htrip ht, ?_⟩⟩
  · calc exec .supplyExcursion s = execSupplyExcursion s := rfl
      _ = _ := by simp only [execSupplyExcursion, guarded, hh, Bool.not_false, if_true]
  · have hpin := pinColumn_unpowered (s := coldState s { perst := s.boot.perst, hold := true }) rfl
    refine ⟨?_, ?_, ?_, ?_, ?_, rfl, rfl⟩
    · simp only [croak, hpin]
    · simp only [transmitters, hpin]
    · simp only [busDrive, hpin]
    · simp only [chorusA, hpin]
    · simp only [chorusAllLow, hpin]
  · calc exec .perstAssert s = execPerstAssert s := rfl
      _ = _ := by simp only [execPerstAssert, guarded, hp, Bool.not_false, if_true]
  · have hpin := pinColumn_perst (s := coldState s { s.boot with perst := true, testMode := false }) hh rfl
    refine ⟨?_, ?_, ?_, ?_, ?_, rfl⟩
    · simp only [croak, hpin]
    · simp only [transmitters, hpin]
    · simp only [busDrive, hpin]
    · simp only [chorusA, hpin]
    · simp only [chorusAllLow, hpin]
  · obtain ⟨hboot, hfw⟩ := tripped_stands (s := s)
    have hpin := pinColumn_tripped (s := tripped s) (by rw [hboot]; exact hh) (by rw [hboot]; exact hp) (by rw [hboot])
    refine ⟨?_, ?_, ?_, ?_, ?_⟩
    · have hst : fwStarted (tripped s) = fwStarted s := by rw [fwStarted, fwStarted, hfw]
      simp only [croak, hpin, hst]
    · simp only [transmitters, hpin]
    · simp only [busDrive, hpin]
    · simp only [chorusAllLow, hpin]
    · rw [tripLow, hboot]
      simp only [hh, Bool.not_false, Bool.and_self]

end Sys2Proof.Machine


/-! The course of a schedule (O50; 12 R391 to R396; 11 R331 to R333; 13 R416 to R418). -/

namespace Sys2Proof.Machine

section
variable {s : State}

/-! A partition's run, and what stands while its tiles are gone through. -/

theorem updRun_congr {p : Nat} {r : Run} {f g : Run → Run} (hrun : (getPart s p).run = some r) (h : f r = g r) :
    updRun s p f = updRun s p g := by
  rw [updRun, updRun, updPart, updPart, hrun, Option.map_some, Option.map_some, h]

/-- What each tile's turn leaves, going through the partition's tiles leaves. -/
theorem forTiles_keeps {α : Type} (π : State → α) {p : Nat} {f : State → Nat → State} (hf : ∀ s t, π (f s t) = π s) (s : State) :
    π (forTiles s p f) = π s := by
  rw [forTiles]
  generalize partTiles s p = l
  induction l generalizing s with
  | nil => rfl
  | cons t l ih => rw [List.foldl_cons, ih, hf]

/-! A launch (12 R394, R395). -/

/-- A tile that takes up a launch of a mode, with what was fetched ahead for it (R391, R395). -/
def tileTakesUp (x : Part) (mode : Nat) (v : State) (t : Nat) (y : Tile) : Tile :=
  { tileAtLaunch y with
    streams := if x.fetchMode = some mode then streamsOf y.ahead else streamsOf []
    ahead := []
    fetchFrom := x.armedAt
    barred := refusesWork v (tpage v t) }

/-- The launch taken up by the partition's tiles. -/
def launchTaken (s : State) (p mode : Nat) : State :=
  forTiles (updPart s p (fun y => { y with armed := none })) p (fun v t => updTile v t (tileTakesUp (getPart s p) mode v t))

/-- The run that a launch at count g begins. -/
def runOfLaunch (s : State) (p g mode : Nat) : Run :=
  { g := g, mode := mode, segStart := g, replayMax := rgF s 0x07D 0x040 3 0, dupN := rgF s 0x003 (0x50 + 4 * p) 12 0,
    dupPhi := if rgF s 0x003 (0x50 + 4 * p) 12 0 = 0 then 0 else g % rgF s 0x003 (0x50 + 4 * p) 12 0,
    committed := !hasCommit s p }

/-- The partition with its run begun. -/
def runBegun (u : State) (p : Nat) (r : Run) : State :=
  updPart u p (fun y => { y with run := some r, fetchMode := none, scat := [] })

/-- What the registers show of a launch (R392, R394, R421). -/
def launchShown (u : State) (p : Nat) (r : Run) : State :=
  setRg (setImgState (syncLaunchState (setLast (runBegun u p r) p 1) p) p 3) 0x07D 0x044 0

theorem launchTaken_regs (p mode : Nat) : (launchTaken s p mode).regs = s.regs := by
  rw [launchTaken, forTiles_keeps State.regs fun _ _ => updTile_regs _ _ _, updPart_regs]

theorem launchTaken_cnt (p mode : Nat) : (launchTaken s p mode).cnt = s.cnt := by
  rw [launchTaken, forTiles_keeps State.cnt fun _ _ => updTile_cnt _ _ _, updPart_cnt]

/-- A launch writes no register but its partition's status and image state and the commit page's outcome. -/
theorem rgF_launchShown {p q k hi lo : Nat} {r : Run} (h : smRising none s.regs = true)
    (h1 : q * 4096 + k ≠ 0x07C * 4096 + (0x48 + 16 * p)) (h2 : q * 4096 + k ≠ (0x2C + p) * 4096 + 0x44)
    (h3 : q * 4096 + k ≠ 0x07D * 4096 + 0x044) : rgF (launchShown s p r) q k hi lo = rgF s q k hi lo := by
  have hr : smRising none (runBegun s p r).regs = true := by
    rwa [runBegun, updPart_regs]
  have hl : smRising none (setLast (runBegun s p r) p 1).regs = true := setRgF_rising _ _ _ _ _ hr
  have hs : smRising none (syncLaunchState (setLast (runBegun s p r) p 1) p).regs = true := setRgF_rising _ _ _ _ _ hl
  have hi : smRising none (setImgState (syncLaunchState (setLast (runBegun s p r) p 1) p) p 3).regs = true :=
    setRgF_rising _ _ _ _ _ hs
  rw [launchShown, rgF_setRg_ne _ h3 hi, setImgState, rgF_setRgF_ne h2 hs, syncLaunchState,
    rgF_setRgF_ne h1 hl, setLast, rgF_setRgF_ne h1 hr, runBegun, rgF_updPart]

theorem launchShown_cnt (p : Nat) (r : Run) : (launchShown s p r).cnt = s.cnt := by
  rw [launchShown, setRg_cnt, setImgState, setRgF_cnt, syncLaunchState, setRgF_cnt, setLast, setRgF_cnt, runBegun, updPart_cnt]

/-- What follows a launch's count: a manager opens check 0 (R511), and each stretched tick counts (18 R618). -/
def launchFollowed (w : State) (p : Nat) : State :=
  let w := if role w = 2 then { w with chorus := { w.chorus with
    openChk := some 0, counted := [], missing := [], lowRounds := 0, ann := none, copies := 0 } } else w
  (List.range (stretch w)).foldl (fun s _ => tdcAdd s p 4 0x7F 0) w

theorem launchFollowed_alone {p : Nat} (hrole : role s ≠ 2) (hstretch : stretch s = 0) : launchFollowed s p = s := by
  simp only [launchFollowed, if_neg hrole, hstretch, List.range_zero, List.foldl_nil]

/-- A launch that is not missed (R394). -/
theorem exec_launchStart {p : PartIx} {g : Nat} {i : Img} (harm : (getPart s p.toNat).armed = some g) (hg : g ≤ now s)
    (hoos : s.oos = false) (hwarm : warmActive s = false) (himg : (getPart s p.toNat).img = some i)
    (hsched : i.sched.getD (powerMode s) 0 ≠ 0) (hrun : (getPart s p.toNat).run = none)
    (hend : ∀ n, (getPart s p.toNat).lastEnd = some n → n + 64 ≤ g) (hst : rgF s (imgPage p.toNat) 0x44 1 0 = 2) :
    exec (.launchStart p) s = .next
      (launchFollowed (count1 (launchShown (launchTaken s p.toNat (powerMode s)) p.toNat (runOfLaunch s p.toNat g (powerMode s)))
        (imgPage p.toNat) 0) p.toNat) := by
  have hnotMissed : ((getPart s p.toNat).run.isSome ||
      (match (getPart s p.toNat).lastEnd with | some e => decide (g < e + 64) | none => false)
      || !(rgF s (imgPage p.toNat) 0x44 1 0 == 2)) = false := by
    rw [hrun, hst]
    cases he : (getPart s p.toNat).lastEnd with
    | none => rfl
    | some n => simp [Nat.not_lt.mpr (hend n he)]
  have hsome : (i.sched.getD (powerMode s) 0 == 0) = false := beq_eq_false_iff_ne.mpr hsched
  calc exec (.launchStart p) s = execLaunchStart p s := rfl
    _ = _ := by
      simp only [execLaunchStart, harm, guarded]
      rw [if_pos (by simp [hg, hoos, hwarm]), if_neg]
      · rfl
      · rw [Bool.or_eq_true, himg]
        rintro (h | h)
        · exact Bool.false_ne_true (hnotMissed.symm.trans h)
        · exact Bool.false_ne_true (hsome.symm.trans h)

/-- On a device that manages no group and stretches no launch, nothing follows the count. -/
theorem exec_launchStart_alone {p : PartIx} {g : Nat} {i : Img} (hc : s.canon = true)
    (harm : (getPart s p.toNat).armed = some g) (hg : g ≤ now s)
    (hoos : s.oos = false) (hwarm : warmActive s = false) (himg : (getPart s p.toNat).img = some i)
    (hsched : i.sched.getD (powerMode s) 0 ≠ 0) (hrun : (getPart s p.toNat).run = none)
    (hend : ∀ n, (getPart s p.toNat).lastEnd = some n → n + 64 ≤ g) (hst : rgF s (imgPage p.toNat) 0x44 1 0 = 2)
    (hrole : role s ≠ 2) (hstretch : stretch s = 0) (hsat : (getCnt s (imgPage p.toNat) 0).sat = false)
    (hval : (getCnt s (imgPage p.toNat) 0).value.toNat < 2 ^ 48 - 2) :
    exec (.launchStart p) s = .next
      (count1 (launchShown (launchTaken s p.toNat (powerMode s)) p.toNat (runOfLaunch s p.toNat g (powerMode s)))
        (imgPage p.toNat) 0) := by
  have hp := p.isLt
  have hcnt (q i : Nat) : getCnt (launchShown (launchTaken s p.toNat (powerMode s)) p.toNat (runOfLaunch s p.toNat g (powerMode s)))
      q i = getCnt s q i := by
    rw [getCnt, launchShown_cnt, launchTaken_cnt, getCnt]
  have hregs : smRising none (launchTaken s p.toNat (powerMode s)).regs = true := by
    rw [launchTaken_regs]
    exact canon_regs hc
  have hkept {q k hi lo : Nat} (h1 : q * 4096 + k ≠ 0x07C * 4096 + (0x48 + 16 * p.toNat))
      (h2 : q * 4096 + k ≠ (0x2C + p.toNat) * 4096 + 0x44) (h3 : q * 4096 + k ≠ 0x07D * 4096 + 0x044) :
      rgF (count1 (launchShown (launchTaken s p.toNat (powerMode s)) p.toNat (runOfLaunch s p.toNat g (powerMode s)))
        (imgPage p.toNat) 0) q k hi lo = rgF s q k hi lo := by
    rw [count1, countBy_below (by rw [hcnt]; exact hsat) (by rw [hcnt]; omega), rgF_setCnt, rgF_launchShown hregs h1 h2 h3, rgF, rg,
      launchTaken_regs, rgF, rg]
  rw [exec_launchStart harm hg hoos hwarm himg hsched hrun hend hst, launchFollowed_alone]
  · rwa [role, hkept (by omega) (by omega) (by omega)]
  · rwa [stretch, hkept (by omega) (by omega) (by omega)]

/-- A launch that is missed (R394). -/
theorem exec_launchStart_missed {p : PartIx} {g : Nat} (harm : (getPart s p.toNat).armed = some g) (hg : g ≤ now s)
    (hoos : s.oos = false) (hwarm : warmActive s = false)
    (hmissed : (getPart s p.toNat).run.isSome = true ∨ (∃ n, (getPart s p.toNat).lastEnd = some n ∧ g < n + 64) ∨
      rgF s (imgPage p.toNat) 0x44 1 0 ≠ 2 ∨ ∀ i, (getPart s p.toNat).img = some i → i.sched.getD (powerMode s) 0 = 0)
    {u : State} (hu : u = syncLaunchState (setLast (dropAhead (updPart s p.toNat (fun y => { y with armed := none })) p.toNat) p.toNat
      (if (getPart s p.toNat).img.any (fun i => i.sched.getD (powerMode s) 0 != 0) then 2 else 5)) p.toNat) :
    exec (.launchStart p) s =
      .next (sendMsix (raiseOpen (count1 u (imgPage p.toNat) 1) (imgPage p.toNat) 1) (24 + p.toNat)) := by
  subst hu
  calc exec (.launchStart p) s = execLaunchStart p s := rfl
    _ = _ := by
      simp only [execLaunchStart, harm, guarded]
      rw [if_pos (by simp [hg, hoos, hwarm]), if_pos]
      · cases (getPart s p.toNat).img with
        | none => rfl
        | some i => simp
      · rw [Bool.or_eq_true]
        rcases hmissed with h | ⟨n, hn, hlt⟩ | h | h
        · exact .inl (by simp [h])
        · exact .inl (by simp [hn, hlt])
        · exact .inl (by simp [h])
        · refine .inr ?_
          cases hi : (getPart s p.toNat).img with
          | none => rfl
          | some i => exact beq_iff_eq.mpr (h i hi)

/-! A segment begins (R333, R395). -/

/-- The partition's tiles at a segment's acycle 0, and the segment's number in their registers. -/
def segmentOpened (s : State) (p : Nat) (f : Tile → Tile) (v : Word) : State :=
  forTiles s p (fun s t => setRg (setRg (updTile s t f) (tpage s t) 0x260 v) (tpage s t) 0x264 0)

theorem segmentOpened_parts (p : Nat) (f : Tile → Tile) (v : Word) : (segmentOpened s p f v).parts = s.parts := by
  rw [segmentOpened, forTiles_keeps State.parts fun _ _ => ?_]
  rw [setRg_parts, setRg_parts, updTile_parts]

theorem run_segmentOpened {p : Nat} {f : Tile → Tile} {v : Word} {r : Run} (h : (getPart s p).run = some r) :
    (getPart (segmentOpened s p f v) p).run = some r := by
  rwa [getPart, segmentOpened_parts]

/-- A partition that runs a schedule is no default entry of the map, so that an update of it reads back. -/
theorem run_updPart {p : Nat} {f : Part → Part} {r : Run} (h : (f (getPart s p)).run = some r) :
    (getPart (updPart s p f) p).run = some r := by
  have hne : f (getPart s p) ≠ {} := fun he => by
    rw [he] at h
    cases h
  rw [updPart, setPart, getPart, smSet, if_neg hne, smGet_smPut_same, h]

theorem exec_segmentStart_later {p : PartIx} {r : Run} {c0 : Nat} (hon : aclkOn s = true) (hrun : (getPart s p.toNat).run = some r)
    (hc0 : c0 = alignUp r.segStart (divAlign (divider s))) (hb : r.begun = false) (hnow : c0 ≤ now s) (hwarm : warmActive s = false)
    (hseg : 0 < r.seg) {u : State} (hu : u = segmentOpened s p.toNat (fun x => tileAtSegment (x.base + acyclesTo r.divs c0) x)
      (BitVec.ofNat 32 (r.seg % 65536 + 2 ^ 31))) :
    exec (.segmentStart p) s = .next (updRun u p.toNat (fun q => { q with
      begun := true, divs := [(c0, divider u)], replayAnn := false
      moving := if r.replayAnn then (partTiles u p.toNat).filter u.fc.due.contains else [] })) := by
  have hrunu : (getPart u p.toNat).run = some r := by
    rw [hu]
    exact run_segmentOpened hrun
  subst hc0
  calc exec (.segmentStart p) s = execSegmentStart p s := rfl
    _ = _ := by
      simp only [execSegmentStart, hon, hrun, guarded, hb, hwarm, hnow, decide_true, Bool.not_true, Bool.not_false, Bool.and_true,
        Bool.false_eq_true, if_false, if_true, Nat.ne_of_gt hseg, decide_false, Bool.false_and, segBase]
      subst hu
      exact congrArg _ (updRun_congr hrunu rfl)

theorem exec_segmentStart_first {p : PartIx} {r : Run} {c0 : Nat} (hon : aclkOn s = true) (hrun : (getPart s p.toNat).run = some r)
    (hc0 : c0 = alignUp r.segStart (divAlign (divider s))) (hb : r.begun = false) (hnow : c0 ≤ now s) (hwarm : warmActive s = false)
    (hseg : r.seg = 0) (hreplay : r.replayAnn = false) {u : State}
    (hu : u = segmentOpened (updPart s p.toNat (fun x => { x with poison := false, scat := [] })) p.toNat (tileAtSegment 0)
      (BitVec.ofNat 32 (2 ^ 31))) :
    exec (.segmentStart p) s = .next (updRun u p.toNat (fun q => { q with
      begun := true, divs := [(c0, divider u)], replayAnn := false, moving := []
      snapTiles := (partTiles u p.toNat).map (snapTile u), snapSync := snapObjects u p.toNat })) := by
  have hrunu : (getPart u p.toNat).run = some r := by
    rw [hu]
    exact run_segmentOpened (run_updPart hrun)
  subst hc0
  calc exec (.segmentStart p) s = execSegmentStart p s := rfl
    _ = _ := by
      simp only [execSegmentStart, hon, hrun, guarded, hb, hwarm, hnow, decide_true, Bool.not_true, Bool.not_false, Bool.and_true,
        Bool.false_eq_true, if_false, if_true, hseg, hreplay, segBase, Nat.zero_mod, Nat.zero_add]
      subst hu
      exact congrArg _ (updRun_congr hrunu (by simp only [hreplay]; rfl))

/-! A resume count reached, the end, fetches and marks (08 R273, R274; 12 R391, R396; 13 R416, R418). -/

/-- A replay's run, back at segment 0 (R416). -/
def runReplayed (res : Nat) (r : Run) : Run :=
  { r with
    g := res, seg := 0, segStart := res, begun := false, shift := 0, waiting := none, answer := 0, firstA := none,
    resume := none, epochAnn := false, inEpoch := false, committed := false, cause3 := false, epochs := 0
    dupPhi := if r.dupN = 0 then 0 else res % r.dupN }

/-- A run past its check, at the next segment (R273, R275). -/
def runResumed (res sh : Nat) (r : Run) : Run :=
  { r with
    seg := r.seg + 1, segStart := res, begun := false, waiting := none, answer := 0, firstA := none, resume := none
    shift := r.shift + sh
    epochAnn := false, inEpoch := false }

/-- A run back at its check after an epoch (R274). -/
def runBack (r : Run) : Run := { r with resume := none, answer := 0, inEpoch := false, epochAnn := false }

variable {p : PartIx} {r : Run} {res : Nat}

theorem exec_resumeStep (hon : aclkOn s = true) (hrun : (getPart s p.toNat).run = some r) (hres : r.resume = some res)
    (hnow : res ≤ now s) (hgo : (r.abandonAnn.isSome || r.replayAnn || (partTiles s p.toNat).all (fun t => repeatsDone (getTile s t)))
      = true) :
    exec (.resumeStep p) s = .next
      (if r.abandonAnn.isSome then abandonRun s p.toNat res
       else if r.replayAnn then endWait (updRun s p.toNat (runReplayed res)) p.toNat
       else if r.inEpoch && (needsEpoch s p.toNat || isCommit s p.toNat r.seg) then
         answerCheck (updRun (forTiles s p.toNat (fun s t => updTile s t (fun x => { x with epoch := none }))) p.toNat runBack) p.toNat
       else endWait (updRun (openNext s p.toNat r) p.toNat
         (runResumed res (checkShift (lambda s p.toNat) r (expectedAt s p.toNat r) res))) p.toNat) := by
  calc exec (.resumeStep p) s = execResumeStep p s := rfl
    _ = _ := by
      simp only [execResumeStep, hon, hrun, hres, guarded, hgo, hnow, decide_true, Bool.true_and, Bool.not_true, Bool.false_eq_true,
        if_false, if_true]
      rfl

theorem openNext_outside (p : Nat) (h : r.inEpoch = false) : openNext s p r = s := by
  rw [openNext, if_neg]
  rintro ⟨-, -, hin, -⟩
  exact Bool.false_ne_true (h.symm.trans hin)

theorem exec_scheduleEnd (hon : aclkOn s = true) (hrun : (getPart s p.toNat).run = some r)
    (hb : r.begun = true ∨ r.abandonAnn.isSome = true)
    (hdone : (partTiles s p.toNat).all (fun t => (getTile s t).streams.all (fun y => y.ended && y.q.isEmpty) &&
      (getTile s t).moves.isEmpty && (getTile s t).replay.isEmpty && (getTile s t).conv.isEmpty && (getTile s t).running.isNone &&
      (getTile s t).feeds.isEmpty && (getTile s t).blocks.all (fun b => b.verd)) = true) :
    exec (.scheduleEnd p) s = .next (endRun s p.toNat) := by
  have hb' : (r.begun || r.abandonAnn.isSome) = true := Bool.or_eq_true _ _ ▸ hb
  calc exec (.scheduleEnd p) s = execScheduleEnd p s := rfl
    _ = _ := by
      simp only [execScheduleEnd, hon, hrun, guarded, hb', hdone, Bool.true_and, Bool.not_true, Bool.false_eq_true, if_false, if_true]

theorem exec_scheduleFetch_run {t : TileIx} {stream : BitVec 3} {acy : Nat} {g : Group} (errs : List (List (BitVec 7 × Byte)))
    (hst : stream.toNat < 5) (hon : aclkOn s = true) (hwarm : warmActive s = false) (hoos : s.oos = false)
    (hrun : (getPart s (partOf s t.toNat)).run = some r)
    (hg : nextGroup s t.toNat r.mode stream.toNat (getStrm (getTile s t.toNat) stream.toNat).fetched = some g)
    (hdue : groupDue (getTile s t.toNat) r g acy = true) :
    exec (.scheduleFetch t stream acy errs) s = .next (fetchRun s t.toNat stream.toNat acy r g errs) := by
  calc exec (.scheduleFetch t stream acy errs) s = execScheduleFetch t stream acy errs s := rfl
    _ = _ := by
      simp only [execScheduleFetch, hon, hwarm, hoos, hst, hrun, hg, Option.filter_some, hdue, decide_true, Bool.not_true,
        Bool.or_false, Bool.false_eq_true, if_false, if_true, Option.map_some]

theorem exec_scheduleFetch_ahead {t : TileIx} {stream : BitVec 3} {g : Group} (acy : Nat) (errs : List (List (BitVec 7 × Byte)))
    (hst : stream.toNat < 5) (hon : aclkOn s = true) (hwarm : warmActive s = false) (hoos : s.oos = false)
    (hrun : (getPart s (partOf s t.toNat)).run = none) (hg : aheadGroup s t.toNat stream.toNat = some g) :
    exec (.scheduleFetch t stream acy errs) s = .next (fetchAhead s t.toNat stream.toNat g errs) := by
  calc exec (.scheduleFetch t stream acy errs) s = execScheduleFetch t stream acy errs s := rfl
    _ = _ := by
      simp only [execScheduleFetch, hon, hwarm, hoos, hst, hrun, hg, decide_true, Bool.not_true, Bool.or_false, Bool.false_eq_true,
        if_false]

theorem exec_epochPointMark {t : TileIx} {stream : BitVec 3} {acy : Nat} {e : BitVec 128} (hon : aclkOn s = true)
    (hfront : front s t.toNat stream.toNat = some e) (hmark : eMark e = true)
    (hcan : canIssue s t.toNat stream.toNat (absAcy s t.toNat acy) e true (some 0) = true) :
    exec (.epochPointMark t stream acy) s =
      .next (answerCheck (issueMark s t.toNat stream.toNat (absAcy s t.toNat acy) e) (partOf s t.toNat)) := by
  calc exec (.epochPointMark t stream acy) s = execEpochPointMark t stream acy s := rfl
    _ = _ := by
      simp only [execEpochPointMark, hon, hfront, hmark, hcan, Bool.true_and, Bool.not_true, Bool.false_eq_true, if_false, if_true]

end

/-- Settles O50: a launch that nothing keeps back and a missed one, the two ways a segment begins, the four ways a resume count
reached goes on, the end, the two kinds of fetch, and a mark. -/
theorem scheduleCourse : Obligations.ScheduleCourse := by
  intro s u p r c0 res acy t stream e
  refine ⟨?_, ?_, fun hon hrun => ⟨?_, ?_, ?_⟩, ?_, exec_epochPointMark⟩
  · rintro g i m n hc rfl rfl harm hg hoos hwarm himg hsched hrun hend hst hrole hstretch hsat hval rfl
    exact exec_launchStart_alone hc harm hg hoos hwarm himg hsched hrun hend hst hrole hstretch hsat hval
  · intro g harm hg hoos hwarm hmissed hu
    exact exec_launchStart_missed harm hg hoos hwarm hmissed hu
  · intro hc0 hb hnow hwarm
    exact ⟨fun hseg hu => exec_segmentStart_later hon hrun hc0 hb hnow hwarm hseg hu,
      fun hseg hreplay hu => exec_segmentStart_first hon hrun hc0 hb hnow hwarm hseg hreplay hu⟩
  · intro hres hnow
    refine ⟨fun hab => ?_, fun hab hrep => ?_, fun hdone hab hrep => ⟨openNext_outside _, fun hout => ?_, fun hin hneed hu => ?_⟩⟩
    · rw [exec_resumeStep hon hrun hres hnow (by rw [hab, Bool.true_or, Bool.true_or]), if_pos hab]
    · rw [exec_resumeStep hon hrun hres hnow (by rw [hrep, Bool.or_true, Bool.true_or]), if_neg (by simp [hab]), if_pos hrep]
      rfl
    · rw [exec_resumeStep hon hrun hres hnow (by rw [hdone, Bool.or_true]), if_neg (by simp [hab]), if_neg (by simp [hrep]), if_neg]
      · rfl
      · rcases hout with hout | ⟨hneed, hcommit⟩
        · simp [hout]
        · simp [hneed, hcommit]
    · rw [exec_resumeStep hon hrun hres hnow (by rw [hdone, Bool.or_true]), if_neg (by simp [hab]), if_neg (by simp [hrep]), if_pos, hu]
      · rfl
      · rcases hneed with hneed | hcommit
        · simp [hin, hneed]
        · simp [hin, hcommit]
  · intro hb hdone
    exact exec_scheduleEnd hon hrun hb hdone
  · intro hst hon hwarm hoos g errs
    exact ⟨fun hrun hg hdue => exec_scheduleFetch_run errs hst hon hwarm hoos hrun hg hdue,
      fun hrun hg => exec_scheduleFetch_ahead acy errs hst hon hwarm hoos hrun hg⟩

end Sys2Proof.Machine


/-! Violations, verdicts and moves (O51; 11 R349, R376; 17 R594 to R597; 19 R645, R654, R665, R668; 20 R675). -/

namespace Sys2Proof.Machine

section
variable {s : State} {t : TileIx} {stream : BitVec 3}

/-! Violations and hangs. -/

/-- A blocked entry at its OFFSET in strict mode, for a cause that one of the branches of R376 gives. -/
theorem exec_contractViolation {acy c d : Nat} {e : BitVec 128} (hissuing : issuing s t.toNat = true)
    (hstrict : strict s t.toNat = true) (hmarked : (getStrm (getTile s t.toNat) stream.toNat).marked = false) (hoff : eOffset e = acy)
    (hfirst : rgF s (tpage s t.toNat) 0x268 31 31 = 0)
    (hwhy : (∃ b, front s t.toNat stream.toNat = some e ∧ c = b.cause ∧ d = b.detail ∧
        (issueObstacles s t.toNat stream.toNat e).find? (fun b => b.at_ (absAcy s t.toNat acy)) = some b) ∨
      (c = 3 ∧ d = 0 ∧ front s t.toNat stream.toNat = some e ∧
        (issueObstacles s t.toNat stream.toNat e).find? (fun b => b.at_ (absAcy s t.toNat acy)) = none ∧
        unitAccepts s t.toNat stream.toNat (absAcy s t.toNat acy) e = false) ∨
      (c = 3 ∧ d = 0 ∧ front s t.toNat stream.toNat = none ∧ (unfetched s t.toNat stream.toNat).head? = some e)) :
    exec (.contractViolation t stream acy) s = .next (traise (updTile (setRg (setRg s (tpage s t.toNat) 0x268
      (BitVec.ofNat 32 (eOp e + 2 ^ 24 * stream.toNat + 2 ^ 27 * c + 2 ^ 31))) (tpage s t.toNat) 0x26C (BitVec.ofNat 32 d)) t.toNat
      (fun x => { x with stopped := true })) t.toNat 12 (eOp e)) := by
  have hguard : (issuing s t.toNat && strict s t.toNat && !(getStrm (getTile s t.toNat) stream.toNat).marked && eOffset e == acy)
      = true := by
    rw [hissuing, hstrict, hmarked, hoff]
    exact beq_self_eq_true acy
  have hfirst' : ¬ rgF s (tpage s t.toNat) 0x268 31 31 = 1 := by rw [hfirst]; decide
  calc exec (.contractViolation t stream acy) s = execContractViolation t stream acy s := rfl
    _ = _ := by
      rcases hwhy with ⟨b, hfront, rfl, rfl, hb⟩ | ⟨rfl, rfl, hfront, hnone, hunit⟩ | ⟨rfl, rfl, hfront, hhead⟩
      · simp only [execContractViolation, hfront, hb, guarded, hguard, if_true, if_neg hfirst']
      · simp only [execContractViolation, hfront, hnone, hunit, guarded, hguard, if_true, if_neg hfirst', Bool.false_eq_true, if_false]
      · simp only [execContractViolation, hfront, hhead, guarded, hguard, if_true, if_neg hfirst']

theorem exec_hangDetected {r : Run} (hrun : (getPart s (partOf s t.toNat)).run = some r) (hb : r.begun = true)
    (hwarm : warmActive s = false) (hlag : rgF s 0x002 0x040 19 0 < streamLag s t.toNat stream.toNat)
    (hfirst : hangFirst s t.toNat stream.toNat = true) (hfree : rgF s 0x002 0x044 31 31 = 0) {i : Word}
    (hi : i = BitVec.ofNat 32 (partOf s t.toNat + 256 * (t.toNat - firstTile s (partOf s t.toNat)) + 65536 * stream.toNat + 2 ^ 31)) :
    exec (.hangDetected t stream) s = .next (raise (count1 (setRg s 0x002 0x044 i) 0x002 3) 0x002 0 i.toNat) := by
  have hruns : hangRuns s t.toNat = true := by
    rw [hangRuns, hrun]
    exact hb
  have hlag' : Nat.blt (rgF s 0x002 0x040 19 0) (streamLag s t.toNat stream.toNat) = true := Nat.blt_eq.mpr hlag
  have hfree' : ¬ rgF s 0x002 0x044 31 31 = 1 := by rw [hfree]; decide
  subst hi
  calc exec (.hangDetected t stream) s = execHangDetected t stream s := rfl
    _ = _ := by
      simp only [execHangDetected, guarded, hruns, hwarm, hlag', hfirst, Bool.not_false, Bool.and_true, if_true, if_neg hfree']

/-! Duplicate verdicts (19 R645, R647, R669). -/

theorem fiTake_empty (kind page : Nat) (h : s.fi.left = 0) : fiTake s kind page = (false, s) := by
  rw [fiTake, if_neg]
  rintro ⟨-, -, hleft⟩
  omega

/-- The state without the duplicate work of a site. -/
def unshadowed (s : State) (x : Nat) : State :=
  { s with fc := { s.fc with shadows := s.fc.shadows.filter (fun k => k.site ≠ x) } }

theorem fiTake_unshadowed (x : Nat) {c : Prop} [Decidable c] (h : s.fi.left = 0) :
    (if c then fiTake (unshadowed s x) 4 0x003 else (false, unshadowed s x)) = (false, unshadowed s x) := by
  rw [fiTake_empty 4 0x003 (show (unshadowed s x).fi.left = 0 from h), ite_self]

variable {site : SiteIx} {h : Shadow}

theorem exec_dupVerdict_equal (hfind : s.fc.shadows.find? (fun h => h.site == site.toNat) = some h) (hleft : s.fi.left = 0)
    (hd : h.differs = false) :
    exec (.dupVerdict site true) s = .next (answerCheck (count1 (unshadowed s site.toNat) 0x003 6) (partOf s h.tile)) := by
  calc exec (.dupVerdict site true) s = execDupVerdict site true s := rfl
    _ = _ := by
      simp only [execDupVerdict, hfind]
      rw [← unshadowed, fiTake_unshadowed _ hleft, hd]
      rfl

theorem exec_dupVerdict_differs (hfind : s.fc.shadows.find? (fun h => h.site == site.toNat) = some h) (hleft : s.fi.left = 0)
    {sound : Bool} (hd : sound = false ∨ h.differs = true) (hfirst : rgF s 0x003 0x68 31 31 = 0) {v : State}
    (hv : v = setRg (setRg (unshadowed s site.toNat) 0x003 0x68 (BitVec.ofNat 32 (h.op % 2 ^ 24 + 2 ^ 31))) 0x003 0x6C
      (BitVec.ofNat 32 (h.tile + 256 * site.toNat + 65536 * h.kind))) :
    exec (.dupVerdict site sound) s = .next (answerCheck (raise (charge
      (count1 (count1 (chargeTile v h.tile) 0x003 7) (0x100 + site.toNat) 0x60) (256 + site.toNat))
      0x003 0 (h.tile + 256 * site.toNat)) (partOf s h.tile)) := by
  have hne : (sound && !h.differs && !false) = false := by
    rcases hd with hd | hd
    · rw [hd, Bool.false_and, Bool.false_and]
    · rw [hd, Bool.not_true, Bool.and_false, Bool.false_and]
  have hfirst' : (rgF (unshadowed s site.toNat) 0x003 0x68 31 31 == 0) = true := beq_iff_eq.mpr hfirst
  calc exec (.dupVerdict site sound) s = execDupVerdict site sound s := rfl
    _ = _ := by
      simp only [execDupVerdict, hfind]
      rw [← unshadowed, fiTake_unshadowed _ hleft, hv]
      simp only [hne, Bool.false_eq_true, if_false, hfirst', if_true, execDupVerdict.tcountSite]

/-! Site moves and the rotating self-test (01 R18, R19; 17 R594 to R597). -/

theorem exec_siteMove {x : Nat} {l : List Nat} (hrun : (getPart s (partOf s t.toNat)).run = none) (hdue : s.fc.due = [t.toNat])
    (hfree : freeSites s (siteOf s t.toNat / 34) = x :: l) : exec (.siteMove t) s = .next (moveTile s t.toNat x) := by
  have hmov : movable s (partOf s t.toNat) = [t.toNat] := by
    rw [movable, hdue, hrun]
    rfl
  calc exec (.siteMove t) s = execSiteMove t s := rfl
    _ = _ := by
      simp only [execSiteMove, guarded, hmov, serveMove, hfree]
      rw [if_pos (by simp)]

variable {q : BitVec 2} {x : Nat}

theorem exec_rotSelftestStart (hnext : nextRot s q.toNat = some x) (hon : rgF s 0x000 0x50 0 0 = 1) (hfw : fwRunning s = true)
    (hwarm : warmActive s = false) (haclk : aclkOn s = true) (hdue : rotDue s q.toNat = true) (hrot : s.fc.rot = [])
    (hsh : s.fc.shadows = []) :
    exec (.rotSelftestStart q) s = .next (setRgF { s with fc := { s.fc with
      rot := [(q.toNat, x)], rotLast := (q.toNat, x, now s) :: s.fc.rotLast.filter (fun r => r.1 ≠ q.toNat) } }
      0x000 0x54 (8 * q.toNat + 7) (8 * q.toNat) x) := by
  calc exec (.rotSelftestStart q) s = execRotSelftestStart q s := rfl
    _ = _ := by
      simp only [execRotSelftestStart, hnext, guarded, hon, hfw, hwarm, haclk, hdue, hrot, hsh, List.any_nil, List.filter_nil,
        List.nil_append, beq_self_eq_true, Bool.not_false, Bool.and_true, if_true]

theorem exec_rotSelftestDone {ok : Bool} {f : List (BitVec 7 × BitVec 7)} {v : Bool × State} (hrot : s.fc.rot = [(q.toNat, x)])
    (hv : v = testDone (setRgF { s with fc := { s.fc with rot := [] } } 0x000 0x54 (8 * q.toNat + 7) (8 * q.toNat) 0xFF)
      (0x100 + x) ok f) :
    exec (.rotSelftestDone q ok f) s = .next (if v.1 then count1 v.2 0x000 1 else v.2) := by
  have hfind : s.fc.rot.find? (fun (r : Nat × Nat) => r.1 == q.toNat) = some (q.toNat, x) := by
    rw [hrot]
    simp
  have hgone : s.fc.rot.filter (fun (r : Nat × Nat) => r.1 ≠ q.toNat) = [] := by
    rw [hrot]
    simp
  calc exec (.rotSelftestDone q ok f) s = execRotSelftestDone q ok f s := rfl
    _ = _ := by
      simp only [execRotSelftestDone, hfind, hgone, hv]

end

/-- Settles O51: each step's effect by the lemma of its command. -/
theorem faultsAndRecovery : Obligations.FaultsAndRecovery := by
  rintro s u t p rfl
  refine ⟨?_, ?_, fun code hserved => ?_, ?_, fun x l => exec_siteMove, fun q x => exec_rotSelftestStart,
    fun q x ok f v => exec_rotSelftestDone, fun hactive hoos hend => ?_⟩
  · intro stream acy e c d hissuing hstrict hmarked hoff hfirst hwhy
    exact exec_contractViolation hissuing hstrict hmarked hoff hfirst hwhy
  · intro stream r i hrun hb hwarm hlag hfirst hfree hi
    exact exec_hangDetected hrun hb hwarm hlag hfirst hfree hi
  · calc exec (.internalError code) s = execInternalError code s := rfl
      _ = _ := by rw [execInternalError, guarded, hserved, if_pos rfl]
  · rintro site h hfind hleft rfl
    exact ⟨exec_dupVerdict_equal hfind hleft, fun sound v hd hfirst hv => exec_dupVerdict_differs hfind hleft hd hfirst hv⟩
  · calc exec .lullEnd s = execLullEnd s := rfl
      _ = _ := by simp only [execLullEnd, guarded, hactive, hoos, hend, decide_true, Bool.not_false, Bool.and_true, if_true]

end Sys2Proof.Machine


/-! Feeds and passes issue (O52; 07 R221; 11 R336 to R338, R345). -/

namespace Sys2Proof.Machine

section
variable {s u : State} {t : TileIx} {acy : Nat} {e : BitVec 128}

/-! A tile's state set. -/

theorem setTile_tiles_only (t : Nat) (x : Tile) : setTile s t x = { s with tiles := (setTile s t x).tiles } := rfl

/-! FEED. -/

/-- The descriptor of a FEED's operand walk as the feed begins: its occurrence, its issue and its tag. -/
def feedBegun (x : Tile) (side a : Nat) (e : BitVec 128) : FeedSt :=
  { feedOfEntry side e with
    occ := smGet (fun _ => 0) x.occurs (side * 2 ^ 24 + eOp e)
    issue := a
    tag := x.moveTag }

/-- The feed with its source, and its first step its latency on (R221). -/
def feedPlaced (u : State) (t a lat : Nat) (fd : FeedSt) : FeedSt :=
  { fd with
    first := a + lat
    lat := lat
    src := (feedSource u t fd).1
    pages := (feedSource u t fd).2 }

theorem exec_feed (side : BitVec 1)
    (hissue : mayIssueFrom s t.toNat side.toNat acy e 1 (some (feederFrom (getTile s t.toNat) side.toNat (wShape (eWord e)))) = true)
    (hroom : feederRoom (getTile s t.toNat) side.toNat (wShape (eWord e)) = true) :
    exec (.feed t side acy) s =
      .next (feedAct t.toNat side.toNat (absAcy s t.toNat acy) e (issued s t.toNat side.toNat acy e)) := by
  calc exec (.feed t side acy) s = execFeed t side acy s := rfl
    _ = _ := by
      rw [execFeed]
      exact issueStep_issues (opcode := 1)
        (unitFrom := fun e => some (feederFrom (getTile s t.toNat) side.toNat (wShape (eWord e)))) hissue
        (fun ho => beq_iff_eq.mpr ho) hroom

/-- A FEED's act is on its tile alone: the operation's next feed of its side joins the feeds. -/
theorem feedAct_eq (t side a : Nat) {lat : Nat}
    (hlat : lat = feedLatency (tdesc u t (fcbAt u t (wFcb (eWord e))).desc) (fcbAt u t (wFcb (eWord e)))) :
    ∃ z, feedAct t side a e u =
        tcount (setTile u t z) t 0x5B (feedEmpty (mkFeedCtx u t (feedPlaced u t a lat (feedBegun (getTile u t) side a e)) [] [])) ∧
      z.feeds = (getTile u t).feeds ++ [feedPlaced u t a lat (feedBegun (getTile u t) side a e)] ∧
      z.occurs = smSet (fun _ => 0) (getTile u t).occurs (side * 2 ^ 24 + eOp e) ((feedBegun (getTile u t) side a e).occ + 1) := by
  subst hlat
  exact ⟨_, rfl, rfl, rfl⟩

theorem feedAct_tile (t side a : Nat) (hc : u.canon = true) (hocc : smWf (fun _ => 0) (getTile u t).occurs = true) {lat : Nat}
    (hlat : lat = feedLatency (tdesc u t (fcbAt u t (wFcb (eWord e))).desc) (fcbAt u t (wFcb (eWord e)))) :
    ∃ v, feedAct t side a e u =
        tcount v t 0x5B (feedEmpty (mkFeedCtx u t (feedPlaced u t a lat (feedBegun (getTile u t) side a e)) [] [])) ∧
      v = { u with tiles := v.tiles } ∧ (∀ k, k ≠ t → getTile v k = getTile u k) ∧
      (getTile v t).feeds = (getTile u t).feeds ++ [feedPlaced u t a lat (feedBegun (getTile u t) side a e)] ∧
      smGet (fun _ => 0) (getTile v t).occurs (side * 2 ^ 24 + eOp e) = (feedBegun (getTile u t) side a e).occ + 1 := by
  obtain ⟨z, hz, hfeeds, hoccurs⟩ := feedAct_eq (e := e) t side a hlat
  refine ⟨setTile u t z, hz, setTile_tiles_only _ _, fun k hk => getTile_setTile_ne _ hk (canon_tiles hc), ?_, ?_⟩
  · rw [getTile_setTile_same _ _ (canon_tiles hc), hfeeds]
  · rw [getTile_setTile_same _ _ (canon_tiles hc), hoccurs, smGet_smSet_same _ _ _ _ (smWf_rising hocc)]

/-! KPASS. -/

/-- Entering places in the tile's directory leaves what a projection that does not read the directory shows. -/
theorem placeAll_keeps {α : Type} (π : Tile → α) (hπ : ∀ x k off, π (dirPut x k off) = π x) (x : Tile) (l : List ((Nat × Int) × Nat)) :
    π (placeAll x l) = π x := by
  rw [placeAll]
  induction l generalizing x with
  | nil => rfl
  | cons k l ih => rw [List.foldl_cons, ih, hπ]

/-- The block that a pass is joined to. -/
theorem addPass_block (x : Tile) (b : OBlock) (p : KPassSt) (f g : FeedSt → Bool) :
    { b with passes := b.passes ++ [p], feedsLeft := b.feedsLeft + 2 } ∈ (addPass x b p f g).blocks := by
  rw [addPass]
  dsimp only
  split
  · next hhas =>
    obtain ⟨y, hy, hid⟩ := List.any_eq_true.mp hhas
    exact List.mem_map.mpr ⟨y, hy, if_pos (beq_iff_eq.mp hid)⟩
  · exact List.mem_append_right _ (List.mem_singleton.mpr rfl)

theorem passBlock_op (t : Nat) (fr fc : FeedSt) : (passBlock u t e fr fc).op = eOp e := by
  rw [passBlock]
  split
  · next b hb =>
    have h := List.find?_some hb
    simp only [Bool.and_eq_true, beq_iff_eq] at h
    exact h.2
  · rfl

theorem exec_kpass {gr gc fr fc : FeedSt}
    (hgr : (getTile s t.toNat).feeds.find? (passMate (getTile s t.toNat) 0 e) = some gr)
    (hgc : (getTile s t.toNat).feeds.find? (passMate (getTile s t.toNat) 1 e) = some gc)
    (hissue : mayIssueFrom s t.toNat 2 acy e 0x10 (some (max gr.issue gc.issue)) = true) (hu : u = issued s t.toNat 2 acy e)
    (hfr : (getTile u t.toNat).feeds.find? (passMate (getTile u t.toNat) 0 e) = some fr)
    (hfc : (getTile u t.toNat).feeds.find? (passMate (getTile u t.toNat) 1 e) = some fc) :
    exec (.kpass t acy) s = .next (kpassAct t.toNat (absAcy s t.toNat acy) e fr fc u) := by
  calc exec (.kpass t acy) s = execKpass t acy s := rfl
    _ = _ := by
      rw [execKpass]
      refine (issueStep_issues (opcode := 0x10) (e := e) (is := fun e => eOpcode e == 0x10) ?_
        (fun ho => beq_iff_eq.mpr ho) ?_).trans ?_
      · simp only [hgr, hgc, Option.elim_some]
        exact hissue
      · simp only [hgr, hgc, Option.isSome_some, Bool.and_self]
      · rw [← hu]
        simp only [hfr, hfc]

/-- A KPASS's act is on its tile alone: its pass joins the operation's block, and neither of its feeds presents a step before. -/
theorem kpassAct_eq (t a : Nat) (fr fc : FeedSt) :
    ∃ (z y : Tile) (l : List ((Nat × Int) × Nat)) (x : Tile) (b : OBlock) (p : KPassSt) (f g : FeedSt → Bool),
      kpassAct t a e fr fc u = setTile u t z ∧ (y = addPass x b p f g) ∧
      z.blocks = (if wLast (eWord e) then placeAll y l else y).blocks ∧
      z.nextStep = (if wLast (eWord e) then placeAll y l else y).nextStep ∧
      z.feeds = (if wLast (eWord e) then placeAll y l else y).feeds.map
        (fun f => if f.tag == fr.tag || f.tag == fc.tag then { f with first := max f.first a } else f) ∧
      b.op = (passBlock u t e fr fc).op ∧ b.complete = wLast (eWord e) ∧ p.base = (getTile u t).nextStep ∧
      p.fcbR = fr.fcb ∧ p.fcbC = fc.fcb ∧ p.steps = ceilDiv p.klen p.stepLen :=
  ⟨_, _, _, _, _, _, _, _, rfl, rfl, rfl, rfl, rfl, rfl, rfl, rfl, rfl, rfl, rfl⟩

theorem kpassAct_tile (t a : Nat) (fr fc : FeedSt) (hc : u.canon = true) :
    kpassAct t a e fr fc u = { u with tiles := (kpassAct t a e fr fc u).tiles } ∧
    (∀ k, k ≠ t → getTile (kpassAct t a e fr fc u) k = getTile u k) ∧
    (∃ b p, b ∈ (getTile (kpassAct t a e fr fc u) t).blocks ∧ b.op = eOp e ∧ b.complete = wLast (eWord e) ∧
      b.passes.getLast? = some p ∧ p.fcbR = fr.fcb ∧ p.fcbC = fc.fcb ∧ p.steps = ceilDiv p.klen p.stepLen ∧
      (getTile (kpassAct t a e fr fc u) t).nextStep = (getTile u t).nextStep + p.steps) ∧
    ∀ f ∈ (getTile (kpassAct t a e fr fc u) t).feeds, f.tag = fr.tag ∨ f.tag = fc.tag → a ≤ f.first := by
  obtain ⟨z, y, l, x, b, p, g, h, hz, hy, hblocks, hnext, hfeeds, hop, hlast, hbase, hR, hC, hsteps⟩ :=
    kpassAct_eq (u := u) (e := e) t a fr fc
  rw [hz, getTile_setTile_same _ _ (canon_tiles hc)]
  have hkeeps {α : Type} (π : Tile → α) (hπ : ∀ x k off, π (dirPut x k off) = π x) :
      π (if wLast (eWord e) then placeAll y l else y) = π y := by
    split
    · exact placeAll_keeps π hπ y l
    · rfl
  rw [hkeeps Tile.blocks fun _ _ _ => rfl] at hblocks
  rw [hkeeps Tile.nextStep fun _ _ _ => rfl] at hnext
  refine ⟨setTile_tiles_only _ _, fun k hk => getTile_setTile_ne _ hk (canon_tiles hc), ?_, ?_⟩
  · refine ⟨{ b with passes := b.passes ++ [p], feedsLeft := b.feedsLeft + 2 }, p, ?_, hop.trans (passBlock_op t fr fc), hlast, List.getLast?_concat, hR, hC, hsteps, ?_⟩
    · rw [hblocks, hy]
      exact addPass_block x b p g h
    · rw [hnext, hy, ← hbase]
      rfl
  · intro f hf htag
    rw [hfeeds] at hf
    obtain ⟨f₀, -, rfl⟩ := List.mem_map.mp hf
    by_cases hm : (f₀.tag == fr.tag || f₀.tag == fc.tag) = true
    · rw [if_pos hm]
      exact Nat.le_max_right _ _
    · rw [if_neg hm] at htag
      exact absurd (by simpa using htag) hm

end

/-- Settles O52. -/
theorem arrayInstructions : Obligations.ArrayInstructions := by
  rintro s u t acy a e rfl
  refine ⟨fun side hissue hroom hu => ?_, fun gr gc fr fc hgr hgc hissue hu hfr hfc => ?_⟩
  · subst hu
    refine ⟨exec_feed side hissue hroom, ?_⟩
    rintro f lat x fd0 fd rfl rfl hlat rfl rfl hc hocc
    rw [exec_feed side hissue hroom]
    obtain ⟨v, hv, hrest⟩ := feedAct_tile (e := e) t.toNat side.toNat (absAcy s t.toNat acy) hc hocc hlat
    exact ⟨v, congrArg _ hv, hrest⟩
  · rw [exec_kpass hgr hgc hissue hu hfr hfc]
    exact ⟨rfl, fun hc => ⟨_, rfl, kpassAct_tile _ _ fr fc hc⟩⟩

end Sys2Proof.Machine


/-! The Skink lanes (O54; 09 R286 to R296). -/

namespace Sys2Proof.Machine

section
variable {s u v : State} {t : TileIx} {acy : Nat} {e : BitVec 128} {op : Nat}

/-- The element-wise instructions: opcode, latency, and what each does to an element. -/
def laneTable (t : TileIx) (acy : Nat) : List (Instr × Nat × Nat × (Nat → Bool → Nat → Nat → Nat → Nat × KEv)) :=
  [(.fadd t acy, 0x01, 4, elFadd), (.fsub t acy, 0x02, 4, elFsub), (.fmul t acy, 0x03, 4, elFmul), (.fma t acy, 0x04, 4, elFma),
   (.vmin t acy, 0x05, 2, elMin), (.vmax t acy, 0x06, 2, elMax), (.sel t acy, 0x0C, 2, elSel),
   (.iadd t acy, 0x10, 2, elInt (· + ·)), (.isub t acy, 0x11, 2, elInt (· - ·)), (.imul t acy, 0x12, 3, elInt (· * ·)),
   (.shl t acy, 0x18, 2, elShift shiftLeft), (.shrl t acy, 0x19, 2, elShift shiftRight),
   (.shra t acy, 0x1A, 2, elShift shiftArith), (.rotl t acy, 0x1B, 2, elShift rotateLeft),
   (.vand t acy, 0x20, 2, elLogic (fun a b => a &&& b)), (.vor t acy, 0x21, 2, elLogic (fun a b => a ||| b)),
   (.vxor t acy, 0x22, 2, elLogic (fun a b => a ^^^ b)), (.vnot t acy, 0x23, 2, elLogic (fun a _ => notCode a)),
   (.vandn t acy, 0x24, 2, elLogic (fun a b => a &&& notCode b)), (.exp2 t acy, 0x30, 8, elExp2), (.log2 t acy, 0x31, 8, elLog2),
   (.rcp t acy, 0x32, 8, elRcp), (.rsqrt t acy, 0x33, 8, elRsqrt)]

/-- The compares: opcode, and the mask bit that each gives. -/
def maskTable (t : TileIx) (acy : Nat) : List (Instr × Nat × (Nat → Nat → Nat → Bool × KEv)) :=
  [(.cmpEq t acy, 0x08, elCompare (fun _ eq => eq) false), (.cmpLt t acy, 0x09, elCompare (fun lt _ => lt) false),
   (.cmpLe t acy, 0x0A, elCompare (fun lt eq => lt || eq) false), (.cmpNe t acy, 0x0B, elCompare (fun _ eq => !eq) true)]

/-- Every row of the table runs as a lane instruction, of an opcode below the reductions'. -/
theorem exec_laneTable (s : State) (t : TileIx) (acy : Nat) :
    ∀ q ∈ laneTable t acy, exec q.1 s = laneStep t acy q.2.1 q.2.2.1 q.2.2.2 s ∧ q.2.1 < 0x40 := by
  repeat refine List.forall_mem_cons.mpr ⟨⟨rfl, Nat.le_of_ble_eq_true rfl⟩, ?_⟩
  exact List.forall_mem_nil _

theorem exec_maskTable (s : State) (t : TileIx) (acy : Nat) :
    ∀ q ∈ maskTable t acy, exec q.1 s = maskStep t acy q.2.1 q.2.2 s ∧ q.2.1 < 0x40 := by
  repeat refine List.forall_mem_cons.mpr ⟨⟨rfl, Nat.le_of_ble_eq_true rfl⟩, ?_⟩
  exact List.forall_mem_nil _

/-- An instruction of the Skink unit that is no reduction counts at 0x48. -/
theorem skinkIssue_lane {act : Nat → BitVec 128 → State → State} (h : mayIssue s t.toNat 3 acy e op = true)
    (hop : op < 0x40 ∨ 0x45 < op) (hu : u = tcount (issued s t.toNat 3 acy e) t.toNat 0x48 1) :
    ∃ y, skinkIssue t.toNat acy op act s = .next (withTwin (act (absAcy s t.toNat acy) e u) t.toNat y) := by
  have hunit : (decide (0x40 ≤ op) && decide (op ≤ 0x45)) = false := by
    rw [Bool.and_eq_false_iff, decide_eq_false_iff_not, decide_eq_false_iff_not]
    omega
  obtain ⟨y, hy⟩ := skinkIssue_twin (act := act) h
  rw [hunit] at hy
  exact ⟨y, hu ▸ hy⟩

variable {w ew : Nat} {x : Tile}

theorem laneStep_twin {lat : Nat} {f : Nat → Bool → Nat → Nat → Nat → Nat × KEv} (h : mayIssue s t.toNat 3 acy e op = true)
    (hop : op < 0x40) (hu : u = tcount (issued s t.toNat 3 acy e) t.toNat 0x48 1) (hw : w = eWord e) (hew : ew = kWidth (kType w))
    (hx : x = getTile u t.toNat) {a : Nat} (ha : a = absAcy s t.toNat acy) {rs : List (Nat × KEv)}
    (hrs : rs = (List.range (kElems (kType w))).map (fun i => f w ((mReg x (kMask w)).getLsbD i) (vElem (vReg x (kVA w)) ew i)
      (vElem (vReg x (kVB w)) ew i) (vElem (vReg x (kVC w)) ew i)))
    (hv : v = skinkEvents (setTile u t.toNat (launchResult x (a + lat) (laneResult x w ew rs))) t.toNat (eOp e) op
      (a + lat) (laneEvents x w rs)) :
    ∃ y, laneStep t acy op lat f s = .next (withTwin v t.toNat y) := by
  subst hv hrs hx hew hw ha
  rw [laneStep]
  exact skinkIssue_lane h (.inl hop) hu

theorem maskStep_twin {f : Nat → Nat → Nat → Bool × KEv} (h : mayIssue s t.toNat 3 acy e op = true)
    (hop : op < 0x40) (hu : u = tcount (issued s t.toNat 3 acy e) t.toNat 0x48 1) (hw : w = eWord e) (hew : ew = kWidth (kType w))
    (hx : x = getTile u t.toNat) {a : Nat} (ha : a = absAcy s t.toNat acy) {rs : List (Bool × KEv)}
    (hrs : rs = (List.range (kElems (kType w))).map (fun i => f w (vElem (vReg x (kVA w)) ew i) (vElem (vReg x (kVB w)) ew i)))
    (hv : v = skinkEvents (setTile u t.toNat (launchResult x (a + 2) (.mreg (kVD w % 8)
        (natOfBits ((List.range 256).map (fun i => decide (kElems (kType w) ≤ i) || kEnabled x w i)))
        (natOfBits (rs.map (fun r => r.1)))))) t.toNat (eOp e) op (a + 2)
        ((rs.zipIdx).map (fun r => if kEnabled x w r.2 then r.1.2 else ({} : KEv)))) :
    ∃ y, maskStep t acy op f s = .next (withTwin v t.toNat y) := by
  subst hv hrs hx hew hw ha
  rw [maskStep]
  exact skinkIssue_lane h (.inl hop) hu

end

/-- Settles O54: each row of the two tables runs as a lane instruction. -/
theorem laneInstructions : Obligations.LaneInstructions := by
  intro s u v t acy a e op c w ew x hissue hu hw hew hx ha
  refine ⟨fun lat f hq rs hrs hv => ?_, fun f hq rs hrs hv => ?_⟩
  · obtain ⟨hexec, hop⟩ := exec_laneTable s t acy _ hq
    rw [hexec]
    exact laneStep_twin hissue hop hu hw hew hx ha hrs hv
  · obtain ⟨hexec, hop⟩ := exec_maskTable s t acy _ hq
    rw [hexec]
    exact maskStep_twin hissue hop hu hw hew hx ha hrs hv

end Sys2Proof.Machine


/-! The six reductions (O56; 09 R305 to R309). -/

namespace Sys2Proof.Machine

section
variable {s u v : State} {t : TileIx} {acy : Nat} {e : BitVec 128} {op : Nat}

/-- The reductions: opcode, how each continues its chain, and the result it sends. -/
def redTable (t : TileIx) (acy : Nat) :
    List (Instr × Nat × (Nat → Option RChain → List RLane → RChain × KEv) × (Nat → RChain → Nat × KEv)) :=
  [(.redSum t acy, 0x40, redSum, outSum), (.redMax t acy, 0x41, redExt 0x41 true maxIdent (fun _ v => v), outExt),
   (.redMin t acy, 0x42, redExt 0x42 false minIdent (fun _ v => v), outExt), (.redArgmax t acy, 0x43, redArg, outArg),
   (.redAmax t acy, 0x44, redExt 0x44 true (fun _ => 0) absView, outAmax), (.redCnz t acy, 0x45, redCnz, outCnz)]

/-- Every row of the table runs as a reduction, of an opcode among the reductions'. -/
theorem exec_redTable (s : State) (t : TileIx) (acy : Nat) :
    ∀ q ∈ redTable t acy, exec q.1 s = redStep t acy q.2.1 q.2.2.1 q.2.2.2 s ∧ 0x40 ≤ q.2.1 ∧ q.2.1 ≤ 0x45 := by
  repeat refine List.forall_mem_cons.mpr ⟨⟨rfl, Nat.le_of_ble_eq_true rfl, Nat.le_of_ble_eq_true rfl⟩, ?_⟩
  exact List.forall_mem_nil _

/-- A reduction counts at 0x49. -/
theorem skinkIssue_red {act : Nat → BitVec 128 → State → State} (h : mayIssue s t.toNat 3 acy e op = true)
    (hlo : 0x40 ≤ op) (hhi : op ≤ 0x45) (hu : u = tcount (issued s t.toNat 3 acy e) t.toNat 0x49 1) :
    ∃ y, skinkIssue t.toNat acy op act s = .next (withTwin (act (absAcy s t.toNat acy) e u) t.toNat y) := by
  have hunit : (decide (0x40 ≤ op) && decide (op ≤ 0x45)) = true := by
    rw [decide_eq_true hlo, decide_eq_true hhi, Bool.and_self]
  obtain ⟨y, hy⟩ := skinkIssue_twin (act := act) h
  rw [hunit] at hy
  exact ⟨y, hu ▸ hy⟩

variable {w i a : Nat} {x : Tile} {f : Nat → Option RChain → List RLane → RChain × KEv} {out : Nat → RChain → Nat × KEv}
  {ch : RChain} {ev : KEv}

/-- A reduction without LAST leaves its chain open. -/
theorem redStep_open (h : mayIssue s t.toNat 3 acy e op = true) (hlo : 0x40 ≤ op) (hhi : op ≤ 0x45)
    (hu : u = tcount (issued s t.toNat 3 acy e) t.toNat 0x49 1) (hw : w = eWord e) (hx : x = getTile u t.toNat)
    (hi : i = bits (kImm w) 3 2) (ha : a = absAcy s t.toNat acy) (hch : ch = (f w (redChain x w) (redLanes x w)).1)
    (hev : ev = { (f w (redChain x w) (redLanes x w)).2 with nanIn := redNan w (redLanes x w) })
    (hlast : bit (kImm w) 1 = false)
    (hv : v = skinkEvents (setTile u t.toNat (setChain x i (some ch))) t.toNat (eOp e) op (a + 8) [ev]) :
    ∃ y, redStep t acy op f out s = .next (withTwin v t.toNat y) := by
  subst hv hev hch ha hi hx hw
  rw [redStep]
  refine (skinkIssue_red h hlo hhi hu).imp fun y hy => hy.trans ?_
  simp only [hlast, Bool.false_eq_true, if_false]

/-- A reduction with LAST sends its result and ends its chain. -/
theorem redStep_last (h : mayIssue s t.toNat 3 acy e op = true) (hlo : 0x40 ≤ op) (hhi : op ≤ 0x45)
    (hu : u = tcount (issued s t.toNat 3 acy e) t.toNat 0x49 1) (hw : w = eWord e) (hx : x = getTile u t.toNat)
    (hi : i = bits (kImm w) 3 2) (ha : a = absAcy s t.toNat acy) (hch : ch = (f w (redChain x w) (redLanes x w)).1)
    (hev : ev = { (f w (redChain x w) (redLanes x w)).2 with nanIn := redNan w (redLanes x w) })
    (hlast : bit (kImm w) 1 = true)
    (hv : v = skinkEvents (setTile u t.toNat (launchResult (setChain x i none) (a + 8) (wholeV w ((out w ch).1 % 2 ^ 32))))
      t.toNat (eOp e) op (a + 8) [{ ev with overflow := ev.overflow || (out w ch).2.overflow }]) :
    ∃ y, redStep t acy op f out s = .next (withTwin v t.toNat y) := by
  subst hv hev hch ha hi hx hw
  rw [redStep]
  refine (skinkIssue_red h hlo hhi hu).imp fun y hy => hy.trans ?_
  simp only [hlast, if_true]

end

/-- Settles O56: each row of the table runs as a reduction. -/
theorem reductionInstructions : Obligations.ReductionInstructions := by
  intro s u v t acy a e op c w i x f out ch ev hissue hu hw hx hi ha hq hch hev
  obtain ⟨hexec, hlo, hhi⟩ := exec_redTable s t acy _ hq
  rw [hexec]
  exact ⟨redStep_open hissue hlo hhi hu hw hx hi ha hch hev, redStep_last hissue hlo hhi hu hw hx hi ha hch hev⟩

end Sys2Proof.Machine


/-! Conversions, loads, stores, random words and outlier selection (O57; 08 R255; 09 R286, R289, R297 to R301; 10 R321). -/

namespace Sys2Proof.Machine

/-! The table of a selection (R255): insertion keeps the channels, and in ascending order no channel stands twice. -/

theorem rankInsert_perm (k : Nat × StatRank) (l : List (Nat × StatRank)) : (rankInsert k l).Perm (k :: l) := by
  induction l with
  | nil => exact .refl _
  | cons h l ih =>
    rw [rankInsert]
    split
    · exact .refl _
    · exact (ih.cons h).trans (.swap k h l)

theorem natInsert_perm (k : Nat) (l : List Nat) : (natInsert k l).Perm (k :: l) := by
  induction l with
  | nil => exact .refl _
  | cons h l ih =>
    rw [natInsert]
    split
    · exact .refl _
    · exact (ih.cons h).trans (.swap k h l)

theorem natInsert_rises {k : Nat} {l : List Nat} (hl : l.Pairwise (· < ·)) (hk : k ∉ l) : (natInsert k l).Pairwise (· < ·) := by
  induction l with
  | nil => exact List.pairwise_singleton _ _
  | cons h l ih =>
    obtain ⟨hh, hl⟩ := List.pairwise_cons.mp hl
    rw [List.mem_cons, not_or] at hk
    rw [natInsert]
    split
    · next hlt => exact List.pairwise_cons.mpr ⟨fun b hb => (List.mem_cons.mp hb).elim (fun he => he ▸ hlt)
        (fun hb => Nat.lt_trans hlt (hh b hb)), List.pairwise_cons.mpr ⟨hh, hl⟩⟩
    · next hge =>
      refine List.pairwise_cons.mpr ⟨fun b hb => ?_, ih hl hk.2⟩
      rcases List.mem_cons.mp ((natInsert_perm k l).mem_iff.mp hb) with rfl | hb
      · exact Nat.lt_of_le_of_ne (Nat.not_lt.mp hge) (Ne.symm hk.1)
      · exact hh b hb

/-- The channels of a list put one by one into an ascending list that holds none of them. -/
theorem foldl_natInsert {l : List (Nat × StatRank)} : ∀ {m : List Nat}, m.Pairwise (· < ·) → (m ++ l.map Prod.fst).Nodup →
    (l.foldl (fun l k => natInsert k.1 l) m).Pairwise (· < ·) ∧
    (l.foldl (fun l k => natInsert k.1 l) m).Perm (m ++ l.map Prod.fst) := by
  induction l with
  | nil =>
    intro m hm _
    rw [List.foldl_nil, List.map_nil, List.append_nil]
    exact ⟨hm, .refl _⟩
  | cons k l ih =>
    intro m hm hnd
    have hperm : (natInsert k.1 m ++ l.map Prod.fst).Perm (m ++ (k :: l).map Prod.fst) :=
      ((natInsert_perm k.1 m).append_right _).trans List.perm_middle.symm
    obtain ⟨-, -, hapart⟩ := List.nodup_append.mp hnd
    have hk : k.1 ∉ m := fun hmem => hapart _ hmem _ (List.mem_map_of_mem List.mem_cons_self) rfl
    obtain ⟨hrise, hp⟩ := ih (natInsert_rises hm hk) (hperm.nodup_iff.mpr hnd)
    exact ⟨hrise, hp.trans hperm⟩

theorem outlierSorted_perm (x : Tile) (r : Srec) : (outlierSorted x r).Perm (outlierCands x r) := by
  have h (l m : List (Nat × StatRank)) : (l.foldl (fun l k => rankInsert k l) m).Perm (l ++ m) := by
    induction l generalizing m with
    | nil => exact .refl _
    | cons k l ih => exact (ih (rankInsert k m)).trans (((rankInsert_perm k m).append_left l).trans List.perm_middle)
  simpa only [List.append_nil, outlierSorted] using h (outlierCands x r) []

/-- The candidates' channels are the range's, each once. -/
theorem outlierCands_sublist (x : Tile) (r : Srec) :
    ((outlierCands x r).map Prod.fst).Sublist ((List.range r.n).map (r.b + ·)) := by
  refine (List.filter_sublist.map Prod.fst).trans ?_
  rw [List.map_map]
  exact .refl _

theorem outlierTab_spec (x : Tile) (r : Srec) :
    (∀ k, k ∈ outlierTab x r → r.b ≤ k ∧ k < r.b + r.n) ∧ (outlierTab x r).length ≤ r.cap ∧ (outlierTab x r).Pairwise (· < ·) := by
  have hrange : ((List.range r.n).map (r.b + ·)).Nodup :=
    List.Pairwise.map (r.b + ·) (fun a b hne he => hne (Nat.add_left_cancel he)) List.nodup_range
  have hsorted : ((outlierSorted x r).map Prod.fst).Perm ((outlierCands x r).map Prod.fst) := (outlierSorted_perm x r).map _
  have htaken : (((outlierSorted x r).take r.cap).map Prod.fst).Sublist ((outlierSorted x r).map Prod.fst) :=
    (List.take_sublist _ _).map _
  have hnd : (((outlierSorted x r).take r.cap).map Prod.fst).Nodup :=
    (hsorted.nodup_iff.mpr (hrange.sublist (outlierCands_sublist x r))).sublist htaken
  obtain ⟨hrise, hperm⟩ := foldl_natInsert (l := (outlierSorted x r).take r.cap) .nil (by rwa [List.nil_append])
  rw [List.nil_append, ← outlierTab] at hperm
  refine ⟨fun k hk => ?_, ?_, hrise⟩
  · have hmem := (outlierCands_sublist x r).subset (hsorted.mem_iff.mp (htaken.subset (hperm.mem_iff.mp hk)))
    obtain ⟨i, hi, rfl⟩ := List.mem_map.mp hmem
    rw [List.mem_range] at hi
    omega
  · rw [hperm.length_eq, List.length_map]
    exact List.length_take_le _ _

section
variable {s u v : State} {t : TileIx} {acy a : Nat} {e : BitVec 128} {w : Nat} {x : Tile}

/-! What each instruction leaves, as what it does to the tile. -/

theorem exec_vload (h : mayIssue s t.toNat 3 acy e 0x38 = true) (hu : u = tcount (issued s t.toNat 3 acy e) t.toNat 0x48 1)
    (hw : w = eWord e) (hx : x = getTile u t.toNat) (ha : a = absAcy s t.toNat acy) {off ew : Nat} {rs : List (Nat × KEv)}
    (hoff : off = 256 * (kImm w % 2 ^ 13)) (hew : ew = kWidth (kType w))
    (hrs : rs = (List.range (kElems (kType w))).map (fun i => (vElem (vOfBytes (tsBytes x off 256)) ew i, ({} : KEv))))
    (hv : v = tsCheck (setTile u t.toNat (launchResult x (a + 4) (laneResult x w ew rs))) t.toNat off 256) :
    ∃ y, exec (.vload t acy) s = .next (withTwin v t.toNat y) := by
  subst hv hrs hew hoff ha hx hw
  change ∃ y, execVload t acy s = _
  rw [execVload]
  exact skinkIssue_lane h (.inl (by decide)) hu

/-- Both stores run as a store of a run of VA's bytes. -/
theorem exec_vstores (s : State) (t : TileIx) (acy : Nat) : ∀ q ∈ [(Instr.vstore t acy, 0x39, 256, 2 ^ 13, 256),
      (.vstoreLine t acy, 0x3B, 72, 2 ^ 15, 72)],
    exec q.1 s = skinkIssue t.toNat acy q.2.1 (fun acy e s =>
      storeAct t.toNat acy (q.2.2.1 * (kImm (eWord e) % q.2.2.2.1)) q.2.2.2.2 e s) s ∧ q.2.1 < 0x40 := by
  repeat refine List.forall_mem_cons.mpr ⟨⟨rfl, Nat.le_of_ble_eq_true rfl⟩, ?_⟩
  exact List.forall_mem_nil _

theorem exec_rand (h : mayIssue s t.toNat 3 acy e 0x3C = true) (hu : u = tcount (issued s t.toNat 3 acy e) t.toNat 0x48 1)
    (hw : w = eWord e) (hx : x = getTile u t.toNat) (ha : a = absAcy s t.toNat acy)
    (hv : v = tcount (setTile u t.toNat (launchResult x (a + 2)
      (wholeV w (vOfElems 32 (randWords (tseed u t.toNat) ((vReg x (kVA w)).toNat % 2 ^ 128) (vElem (vReg x (kVB w)) 32 0)
        (kImm w % 4) (kImm w / 4 % 2 ^ 24)))))) t.toNat 0x50 1) :
    ∃ y, exec (.rand t acy) s = .next (withTwin v t.toNat y) := by
  subst hv ha hx hw
  change ∃ y, execRand t acy s = _
  rw [execRand]
  exact skinkIssue_lane h (.inl (by decide)) hu

theorem exec_cvt (h : mayIssue s t.toNat 3 acy e 0x28 = true) (hu : u = tcount (issued s t.toNat 3 acy e) t.toNat 0x48 1)
    (ha : a = absAcy s t.toNat acy) : ∃ y, exec (.cvt t acy) s = .next (withTwin (cvtAct t.toNat a e u) t.toNat y) := by
  subst ha
  change ∃ y, execCvt t acy s = _
  rw [execCvt]
  exact skinkIssue_lane h (.inl (by decide)) hu

/-- Where no conversion to BF16 overflowed, no arithmetic event follows. -/
theorem foldl_overflow_none {α : Type} {l : List α} (f : State → α × Nat → State) (c : α → Bool) (h : ∀ r ∈ l, c r = false)
    (z : State) : (l.zipIdx).foldl (fun s r => if c r.1 then f s r else s) z = z := by
  have h' : ∀ r ∈ l.zipIdx, c r.1 = false := fun r hr => h r.1 (List.fst_mem_of_mem_zipIdx hr)
  generalize l.zipIdx = m at h'
  induction m with
  | nil => rfl
  | cons r m ih =>
    rw [List.foldl_cons, h' r List.mem_cons_self, if_neg Bool.false_ne_true]
    exact ih fun q hq => h' q (List.mem_cons_of_mem _ hq)

theorem exec_pack_none (h : mayIssue s t.toNat 3 acy e 0x29 = true) (hu : u = tcount (issued s t.toNat 3 acy e) t.toNat 0x48 1)
    (hf : Fmt.ofCode (kImm (eWord e) % 8) = none) : ∃ y, exec (.pack t acy) s = .next (withTwin u t.toNat y) := by
  change ∃ y, execPack t acy s = _
  rw [execPack]
  refine (skinkIssue_lane h (.inl (by decide)) hu).imp fun y hy => hy.trans ?_
  simp only [hf]

theorem exec_unpack_none (h : mayIssue s t.toNat 3 acy e 0x2A = true) (hu : u = tcount (issued s t.toNat 3 acy e) t.toNat 0x48 1)
    (hf : Fmt.ofCode (kImm (eWord e) % 8) = none) : ∃ y, exec (.unpack t acy) s = .next (withTwin u t.toNat y) := by
  change ∃ y, execUnpack t acy s = _
  rw [execUnpack]
  refine (skinkIssue_lane h (.inl (by decide)) hu).imp fun y hy => hy.trans ?_
  simp only [hf]

theorem exec_pack (h : mayIssue s t.toNat 3 acy e 0x29 = true) (hu : u = tcount (issued s t.toNat 3 acy e) t.toNat 0x48 1)
    (hw : w = eWord e) (hx : x = getTile u t.toNat) (ha : a = absAcy s t.toNat acy) {f : Fmt} {r : List Byte × Counts} {y z : State}
    (hf : Fmt.ofCode (kImm w % 8) = some f) (hr : r = packLine x w f)
    (hy : y = countConv (setTile u t.toNat (launchResult x (a + 6) (maskedV x w (leNat r.1)))) t.toNat r.2 true)
    (hz : z = (if kRound w then tcount y t.toNat 0x51 f.perLine else y))
    (hv : v = (if r.2.zblk + r.2.sblk = 0 then z else traise z t.toNat 11 (eOp e))) :
    ∃ y, exec (.pack t acy) s = .next (withTwin v t.toNat y) := by
  subst hv hz hy hr ha hx hw
  change ∃ y, execPack t acy s = _
  rw [execPack]
  refine (skinkIssue_lane h (.inl (by decide)) hu).imp fun y hy => hy.trans ?_
  simp only [hf]

theorem exec_unpack (h : mayIssue s t.toNat 3 acy e 0x2A = true) (hu : u = tcount (issued s t.toNat 3 acy e) t.toNat 0x48 1)
    (hw : w = eWord e) (hx : x = getTile u t.toNat) (ha : a = absAcy s t.toNat acy) {f : Fmt} {line : List Byte} {bad : Bool}
    {base : Nat} {rs : List (Nat × KEv)} {y : State} (hf : Fmt.ofCode (kImm w % 8) = some f)
    (hline : line = vBytes (vReg x (kVA w)) 72)
    (hbad : bad = decide (bits (lineTag line) 3 0 ≠ f.code ∨ bits (lineTag line) 5 4 ≠ 0))
    (hbase : base = (if f.width = 4 ∧ bit (kImm w) 3 then 64 else 0))
    (hrs : rs = (List.range 64).map (fun j =>
      unpackElem f (if bad then 255 else lineExp line ((base + j) / 32)) (lineElem f line (base + j))))
    (hy : y = skinkEvents (setTile u t.toNat (launchResult x (a + 4) (maskedV x w (vOfElems 32 (rs.map (fun r => r.1))))))
      t.toNat (eOp e) 0x2A (a + 4) (laneEvents x w rs))
    (hv : v = (if bad then traise y t.toNat 3 (eOp e) else y)) :
    ∃ y, exec (.unpack t acy) s = .next (withTwin v t.toNat y) := by
  have hbad' : bad = (bits (lineTag line) 3 0 != f.code || bits (lineTag line) 5 4 != 0) := by
    rw [hbad, Bool.eq_iff_iff]
    simp
  subst hv hy hrs hbase hbad' hline ha hx hw
  change ∃ y, execUnpack t acy s = _
  rw [execUnpack]
  refine (skinkIssue_lane h (.inl (by decide)) hu).imp fun y hy => hy.trans ?_
  simp only [hf]

theorem exec_outlierSelect (h : mayIssue s t.toNat 3 acy e 0x48 = true)
    (hu : u = tcount (issued s t.toNat 3 acy e) t.toNat 0x48 1) (ha : a = absAcy s t.toNat acy) :
    ∃ y, exec (.outlierSelect t acy) s = .next (withTwin (selectAct t.toNat a e u) t.toNat y) := by
  subst ha
  change ∃ y, execOutlierSelect t acy s = _
  rw [execOutlierSelect]
  exact skinkIssue_lane h (.inr (by decide)) hu

end

/-- Settles O57: each instruction by its lemma; the table of a selection is ascending, within its range and its CAP. -/
theorem vectorMoves : Obligations.VectorMoves := by
  intro s u v t acy a e w x hu hw hx ha
  refine ⟨fun off ew rs h hoff hew hrs hv => exec_vload h hu hw hx ha hoff hew hrs hv, ?_,
    fun h hv => exec_rand h hu hw hx ha hv, ?_, ?_,
    fun f r y z h hf hr hy hz hv => exec_pack h hu hw hx ha hf hr hy hz hv,
    fun f line bad base rs y h hf hline hbad hbase hrs hy hv => exec_unpack h hu hw hx ha hf hline hbad hbase hrs hy hv, ?_⟩
  · intro c op off n y differs hq h hy hd hv
    simp only [List.mem_cons, List.not_mem_nil, or_false, Prod.mk.injEq] at hq
    subst hv hd hy ha hx hw
    rcases hq with ⟨rfl, rfl, rfl, rfl⟩ | ⟨rfl, rfl, rfl, rfl⟩
    · obtain ⟨hexec, hop⟩ := exec_vstores s t acy (.vstore t acy, 0x39, 256, 2 ^ 13, 256) (by simp)
      rw [hexec]
      exact skinkIssue_lane h (.inl hop) hu
    · obtain ⟨hexec, hop⟩ := exec_vstores s t acy (.vstoreLine t acy, 0x3B, 72, 2 ^ 15, 72) (by simp)
      rw [hexec]
      exact skinkIssue_lane h (.inl hop) hu
  · intro src dst rs y z h hsrc hdst hrs hy hz
    have hall : ∃ y, exec (.cvt t acy) s = .next (withTwin ((rs.zipIdx).foldl (fun s r => if r.1.2.2.2 && dst == 1 then
        arithEvent s t.toNat { op := eOp e, stage := 2, row := 0, col := r.2, kstep := 0, num := 0, order := offAt x e, acy := a + 3 }
          { overflow := true } else s) z) t.toNat y) := by
      subst hz hy hrs hdst hsrc hx hw
      exact exec_cvt h hu ha
    refine ⟨fun hnone => ?_, hall⟩
    rwa [foldl_overflow_none (l := rs) (fun s r => arithEvent s t.toNat
      { op := eOp e, stage := 2, row := 0, col := r.2, kstep := 0, num := 0, order := offAt x e, acy := a + 3 }
      { overflow := true }) (fun r => r.2.2.2 && dst == 1) ?_] at hall
    intro r hr
    rcases hnone with hne | hnone
    · rw [beq_eq_false_iff_ne.mpr hne, Bool.and_false]
    · rw [(Bool.not_eq_true' _).mp (List.all_eq_true.mp hnone r hr), Bool.false_and]
  · intro c op hq h hf
    subst hw
    simp only [List.mem_cons, List.not_mem_nil, or_false, Prod.mk.injEq] at hq
    rcases hq with ⟨rfl, rfl⟩ | ⟨rfl, rfl⟩
    · exact exec_pack_none h hu hf
    · exact exec_unpack_none h hu hf
  · intro r n y z h hr hn hy hz hv
    refine ⟨?_, outlierTab_spec x r⟩
    subst hv hz hy hn hr hx hw
    exact exec_outlierSelect h hu ha

end Sys2Proof.Machine


/-! The small instructions of the move stream (O59; 07 R226; 08 R249; 11 R362, R364, R365). -/

namespace Sys2Proof.Machine

/-! What a dispatch builds: every slot is its expert's, below the expert's count, and no expert's count passes CAP (R364). -/

/-- A dispatch under way: the counts as the slots given show them, the positions over within the assignment. -/
structure Placed (r : Drec) (q : Dispatch) : Prop where
  rising : smRising none q.count = true
  full : ∀ k, q.cnt k ≤ r.cap
  nodup : (q.slots.map (fun c => c.1)).Nodup
  inside : ∀ c ∈ q.slots, c.1 < r.e * r.cap ∧ c.2 < r.n
  low : ∀ c ∈ q.slots, c.1 % r.cap < q.cnt (c.1 / r.cap)
  beyond : ∀ p ∈ q.excess, p < r.n * r.k

/-- A slot given to an expert counts. -/
theorem put_count (q : Dispatch) (cap k tok : Nat) :
    (q.put cap k tok).count = smSet (fun _ => 0) q.count k (q.cnt k + 1) := by
  rw [Dispatch.put]

namespace Placed

variable {r : Drec} {q : Dispatch}

theorem empty (r : Drec) : Placed r {} :=
  { rising := rfl
    full := fun _ => Nat.zero_le _
    nodup := .nil
    inside := fun _ h => absurd h List.not_mem_nil
    low := fun _ h => absurd h List.not_mem_nil
    beyond := fun _ h => absurd h List.not_mem_nil }

/-- The next slot of an expert with room goes to a token. -/
theorem put (h : Placed r q) {k tok : Nat} (hk : k < r.e) (hroom : q.cnt k < r.cap) (htok : tok < r.n) :
    Placed r (q.put r.cap k tok) := by
  have hcap : 0 < r.cap := Nat.zero_lt_of_lt hroom
  have hsame : (q.put r.cap k tok).cnt k = q.cnt k + 1 := by
    rw [Dispatch.cnt, put_count, smGet_smSet_same _ _ _ _ h.rising]
  have hne (j : Nat) (hj : j ≠ k) : (q.put r.cap k tok).cnt j = q.cnt j := by
    rw [Dispatch.cnt, put_count, smGet_smSet_ne _ _ _ hj h.rising, Dispatch.cnt]
  have hdiv : (k * r.cap + q.cnt k) / r.cap = k := by
    rw [Nat.mul_comm, Nat.mul_add_div hcap, Nat.div_eq_of_lt hroom, Nat.add_zero]
  have hmod : (k * r.cap + q.cnt k) % r.cap = q.cnt k := by
    rw [Nat.mul_comm, Nat.mul_add_mod, Nat.mod_eq_of_lt hroom]
  have hmem (c : Nat × Nat) (hc : c ∈ (q.put r.cap k tok).slots) : c ∈ q.slots ∨ c = (k * r.cap + q.cnt k, tok) :=
    (List.mem_append.mp hc).imp_right List.mem_singleton.mp
  refine ⟨put_count q r.cap k tok ▸ smRising_smSet _ _ h.rising, fun j => ?_, ?_, fun c hc => ?_, fun c hc => ?_, h.beyond⟩
  · by_cases hj : j = k
    · rw [hj, hsame]
      exact hroom
    · rw [hne j hj]
      exact h.full j
  · rw [Dispatch.put, List.map_append, List.map_singleton]
    refine List.nodup_append.mpr ⟨h.nodup, List.pairwise_singleton _ _, fun i hi j hj => ?_⟩
    obtain ⟨c, hc, rfl⟩ := List.mem_map.mp hi
    rw [List.mem_singleton.mp hj]
    intro heq
    have hlow := h.low c hc
    rw [heq, hdiv, hmod] at hlow
    exact Nat.lt_irrefl _ hlow
  · rcases hmem c hc with hc | rfl
    · exact h.inside c hc
    · refine ⟨?_, htok⟩
      calc k * r.cap + q.cnt k < k * r.cap + r.cap := Nat.add_lt_add_left hroom _
        _ = (k + 1) * r.cap := (Nat.succ_mul k r.cap).symm
        _ ≤ r.e * r.cap := Nat.mul_le_mul_right _ hk
  · rcases hmem c hc with hc | rfl
    · by_cases hj : c.1 / r.cap = k
      · have hlow := h.low c hc
        rw [hj] at hlow ⊢
        rw [hsame]
        exact Nat.lt_succ_of_lt hlow
      · rw [hne _ hj]
        exact h.low c hc
    · rw [hdiv, hmod, hsame]
      exact Nat.lt_succ_self _

/-- The token of a position is one of the assignment's. -/
theorem token_lt {p : Nat} (hp : p < r.n * r.k) : p / r.k < r.n := Nat.div_lt_of_lt_mul (Nat.mul_comm r.n r.k ▸ hp)

theorem first (h : Placed r q) (f : Nat → Int) {p : Nat} (hp : p < r.n * r.k) : Placed r (dispatchFirst r f q p) := by
  rw [dispatchFirst]
  split
  · exact h
  · next hin =>
    rw [not_or, Int.not_lt, Int.not_le] at hin
    split
    · next hroom => exact h.put (by omega) hroom (token_lt hp)
    · exact { h with
        beyond := fun p' hp' => (List.mem_append.mp hp').elim (h.beyond p') fun he => List.mem_singleton.mp he ▸ hp }

theorem second (h : Placed r q) (hov : r.overflow < r.e) {p : Nat} (hp : p < r.n * r.k) : Placed r (dispatchOver r q p) := by
  rw [dispatchOver]
  split
  · next hgo => exact h.put hov hgo.2.1 (token_lt hp)
  · exact { h with }

theorem foldl {f : Dispatch → Nat → Dispatch} {l : List Nat} (hf : ∀ q p, Placed r q → p < r.n * r.k → Placed r (f q p))
    (hl : ∀ p ∈ l, p < r.n * r.k) (h : Placed r q) : Placed r (l.foldl f q) := by
  induction l generalizing q with
  | nil => exact h
  | cons p l ih => exact ih (fun p' hp' => hl p' (List.mem_cons_of_mem _ hp')) (hf q p h (hl p List.mem_cons_self))

theorem dispatch (f : Nat → Int) (hov : r.overflow < r.e) : Placed r (dispatch r f) := by
  have h1 : Placed r ((List.range (r.n * r.k)).foldl (dispatchFirst r f) {}) :=
    foldl (fun _ _ h hp => h.first f hp) (fun _ hp => List.mem_range.mp hp) (empty r)
  exact foldl (fun _ _ h hp => h.second hov hp) h1.beyond h1

end Placed

section
variable {s u v : State} {t : TileIx} {acy a : Nat} {e : BitVec 128} {w : Nat} {x : Tile}

/-! The instructions. -/

theorem exec_tableLoad (h : mayIssue s t.toNat 4 acy e 4 = true) (hu : u = issued s t.toNat 4 acy e) (hw : w = eWord e)
    (ha : a = absAcy s t.toNat acy) (hv : v = tsCheck u t.toNat (wTs w) 256) (hx : x = getTile v t.toNat) :
    exec (.tableLoad t acy) s = .next (setTile v t.toNat { launchResult x (a + 8)
      (.bank ((bit w 8).toNat * 512 + (bit w 9).toNat * 256) (tsBytes x (wTs w) 256)) with
      readers := x.readers ++ hold (entryReads v t.toNat 4 e) a (some (a + 8)) 0 (offAt x e) }) := by
  subst hx hv ha hw hu
  calc exec (.tableLoad t acy) s = execTableLoad t acy s := rfl
    _ = _ := by
      rw [execTableLoad]
      exact issueFree_issues h fun ho => beq_iff_eq.mpr ho

theorem exec_scaleSet (h : mayIssue s t.toNat 4 acy e 5 = true) (hu : u = issued s t.toNat 4 acy e) (hw : w = eWord e)
    (ha : a = absAcy s t.toNat acy) (hv : v = tsCheck u t.toNat (wTs w) 1) (hx : x = getTile v t.toNat) :
    exec (.scaleSet t acy) s = .next (setTile v t.toNat { launchResult x (a + 2) (.slot (bits w 11 8) (tsGet x (wTs w))) with
      readers := x.readers ++ hold (entryReads v t.toNat 4 e) a (some (a + 2)) 0 (offAt x e) }) := by
  subst hx hv ha hw hu
  calc exec (.scaleSet t acy) s = execScaleSet t acy s := rfl
    _ = _ := by
      rw [execScaleSet]
      exact issueFree_issues h fun ho => beq_iff_eq.mpr ho

theorem exec_occLoad (h : mayIssue s t.toNat 4 acy e 6 = true) (hu : u = issued s t.toNat 4 acy e) (hw : w = eWord e)
    (ha : a = absAcy s t.toNat acy) (hv : v = tsCheck u t.toNat (wTs w) 4) (hx : x = getTile v t.toNat) :
    exec (.occLoad t acy) s = .next (setTile v t.toNat { x with
      occ := smSet (fun _ => 0) x.occ (bits w 15 8) (max 0 (signExt 32 (tsNat x (wTs w) 4))).toNat
      pendOcc := x.pendOcc ++ hold [bits w 15 8] a (some (a + 2)) 0 (offAt x e)
      readers := x.readers ++ hold (entryReads v t.toNat 4 e) a (some (a + 2)) 0 (offAt x e) }) := by
  have hmax (i : Int) : (max 0 i).toNat = i.toNat := by omega
  rw [hmax]
  subst hx hv ha hw hu
  calc exec (.occLoad t acy) s = execOccLoad t acy s := rfl
    _ = _ := by
      rw [execOccLoad]
      exact issueFree_issues h fun ho => beq_iff_eq.mpr ho

/-- What a binding does: it takes its place, and where sixteen others are held, one of the seventeen gives way. -/
def bindAct (t : Nat) (e : BitVec 128) (s : State) : State :=
  let b : Nat × Nat × Nat := (bits (eWord e) 27 8, bits (eWord e) 30 28, bits (eWord e) 39 32)
  let rest := (getTile s t).binds.filter (fun (c : Nat × Nat × Nat) => c.1 ≠ b.1)
  if rest.length < 16 then updTile s t (fun x => { x with binds := rest ++ [b] })
  else updTile (choose s 17).2 t (fun x => { x with binds := (rest ++ [b]).eraseIdx (choose s 17).1 })

theorem exec_slotBind (h : mayIssue s t.toNat 4 acy e 7 = true) :
    exec (.slotBind t acy) s = .next (bindAct t.toNat e (issued s t.toNat 4 acy e)) := by
  calc exec (.slotBind t acy) s = execSlotBind t acy s := rfl
    _ = _ := by
      rw [execSlotBind]
      exact issueFree_issues h fun ho => beq_iff_eq.mpr ho

theorem exec_slotDispatch (h : mayIssue s t.toNat 4 acy e 8 = true) :
    exec (.slotDispatch t acy) s = .next (dispatchAct t.toNat (absAcy s t.toNat acy) e (issued s t.toNat 4 acy e)) := by
  calc exec (.slotDispatch t acy) s = execSlotDispatch t acy s := rfl
    _ = _ := by
      rw [execSlotDispatch]
      exact issueFree_issues h fun ho => beq_iff_eq.mpr ho

end

/-- Settles O59: each instruction by its lemma, and what a dispatch builds by the invariant of its two passes. -/
theorem smallMoveInstructions : Obligations.SmallMoveInstructions := by
  intro s u v t acy a e w x hu hw ha
  refine ⟨fun h hv hx => exec_tableLoad h hu hw ha hv hx, fun h hv hx => exec_scaleSet h hu hw ha hv hx,
    fun h hv hx => exec_occLoad h hu hw ha hv hx, fun h hx l hl => ?_, ?_, fun r f hov => ?_⟩
  · subst hl hx hw hu
    rw [exec_slotBind h]
    refine ⟨fun hlt => ?_, fun hge => ?_⟩
    · rw [bindAct, if_pos hlt]
      rfl
    · rw [bindAct, if_neg (Nat.not_lt.mpr hge)]
      exact ⟨_, _, Nat.mod_lt _ (by decide), rfl⟩
  · intro r q y z done h hr hv hx hq hy hdone hz
    subst hz hdone hy hq hx hv hr ha hw hu
    exact exec_slotDispatch h
  · have hp := Placed.dispatch f hov
    exact ⟨hp.nodup, hp.inside, hp.full⟩

end Sys2Proof.Machine


/-! The tile store: what a write leaves and what it shows (11 R344). -/

namespace Sys2Proof.Machine

section
variable {x : Tile} {a : Nat} {l : List Byte}

theorem tsSet_store (x : Tile) (a : Nat) (b : Byte) : (tsSet x a b).store = smSet (fun _ => (0 : Byte)) x.store a b := by
  rw [tsSet]

theorem tsSet_rising (a : Nat) (b : Byte) (h : smRising none x.store = true) : smRising none (tsSet x a b).store = true := by
  rw [tsSet_store]
  exact smRising_smSet _ _ h

theorem tsGet_tsSet_same (a : Nat) (b : Byte) (h : smRising none x.store = true) : tsGet (tsSet x a b) a = b := by
  rw [tsGet, tsSet_store, smGet_smSet_same _ _ _ _ h]

theorem tsGet_tsSet_ne {c : Nat} (b : Byte) (hc : c ≠ a) (h : smRising none x.store = true) :
    tsGet (tsSet x a b) c = tsGet x c := by
  rw [tsGet, tsSet_store, smGet_smSet_ne _ _ _ hc h, tsGet]

theorem tsSets_rising (h : smRising none x.store = true) : smRising none (tsSets x a l).store = true := by
  induction l generalizing x a with
  | nil => exact h
  | cons b l ih => exact ih (tsSet_rising _ _ h)

theorem tsGet_tsSets_out {c : Nat} (h : smRising none x.store = true) (hc : c < a ∨ a + l.length ≤ c) :
    tsGet (tsSets x a l) c = tsGet x c := by
  induction l generalizing x a with
  | nil => rfl
  | cons b l ih =>
    rw [List.length_cons] at hc
    rw [tsSets, ih (tsSet_rising _ _ h) (by omega), tsGet_tsSet_ne _ (by omega) h]

theorem tsBytes_tsSets_same (h : smRising none x.store = true) : tsBytes (tsSets x a l) a l.length = l := by
  induction l generalizing x a with
  | nil => rfl
  | cons b l ih =>
    have hfirst : tsGet (tsSets x a (b :: l)) a = b := by
      rw [tsSets, tsGet_tsSets_out (tsSet_rising _ _ h) (.inl (Nat.lt_succ_self a)), tsGet_tsSet_same _ _ h]
    rw [List.length_cons, tsBytes, hfirst, tsSets, ih (tsSet_rising _ _ h)]

theorem tsBytes_congr {y : Tile} {n : Nat} (h : ∀ c, a ≤ c → c < a + n → tsGet y c = tsGet x c) : tsBytes y a n = tsBytes x a n := by
  induction n generalizing a with
  | zero => rfl
  | succ n ih =>
    rw [tsBytes, tsBytes, h a (Nat.le_refl a) (by omega), ih fun c h1 h2 => h c (by omega) (by omega)]

theorem length_tsBytes (x : Tile) (a n : Nat) : (tsBytes x a n).length = n := by
  induction n generalizing a with
  | zero => rfl
  | succ n ih => rw [tsBytes, List.length_cons, ih]

/-! A write is to the store's bytes alone that it names. -/

theorem tsGet_tsWrite (x : Tile) (a : Nat) (l : List Byte) (c : Nat) : tsGet (tsWrite x a l) c = tsGet (tsSets x a l) c := rfl

theorem tsWrite_rising (h : smRising none x.store = true) : smRising none (tsWrite x a l).store = true := tsSets_rising h

theorem tsGet_tsWrite_out {c : Nat} (h : smRising none x.store = true) (hc : c < a ∨ a + l.length ≤ c) :
    tsGet (tsWrite x a l) c = tsGet x c := tsGet_tsSets_out h hc

theorem tsBytes_tsWrite_same (h : smRising none x.store = true) : tsBytes (tsWrite x a l) a l.length = l := by
  rw [tsBytes_congr fun c _ _ => tsGet_tsWrite x a l c, tsBytes_tsSets_same h]

theorem tsBytes_tsWrite_out {b n : Nat} (h : smRising none x.store = true) (hb : b + n ≤ a ∨ a + l.length ≤ b) :
    tsBytes (tsWrite x a l) b n = tsBytes x b n := tsBytes_congr fun c _ _ => tsGet_tsWrite_out h (by omega)

end

end Sys2Proof.Machine


/-! Moves of the move stream (O58; 06 R207 to R210; 11 R343, R344, R351 to R358; 15 R479 to R481; 16 R555). -/

namespace Sys2Proof.Machine

section Runs
variable {s : State} {t : Nat} {d : BitVec 1024}

/-! The lines of a run. -/

theorem length_runLines (desc : Nat) (first : Int) (count hint : Nat) :
    (runLines s t desc d first count hint).1.length = count := by
  rw [runLines]
  simp only [List.length_map, List.length_range]

/-- The lines of a run without an index, each at its own place. -/
theorem runLines_plain (desc : Nat) (first : Int) (count hint : Nat) (hd : dIdxEn d = false) :
    ∃ f : Nat → RunLine, (runLines s t desc d first count hint).1 = (List.range count).map f ∧
      ∀ i : Nat, (f i).oor = false ∧ (f i).target = first + (i : Int) := by
  refine ⟨_, List.map_map .., fun i => ?_⟩
  simp [runLine, hd]

/-- A run without an index writes its lines in order, each at its own place (R207). -/
theorem runWritten_plain (desc : Nat) (first : Int) (count hint : Nat) (hd : dIdxEn d = false) :
    (runWritten d (runLines s t desc d first count hint).1 count).map (fun q => (q.1, q.2.target)) =
      (List.range count).map (fun (i : Nat) => (i, first + (i : Int))) := by
  obtain ⟨f, hf, hline⟩ := runLines_plain (s := s) (t := t) desc first count hint hd
  have hzip : (List.range count).zip ((List.range count).map f) = (List.range count).map (fun i => (i, f i)) := by
    simpa only [List.map_id, id_eq] using List.zip_map' (f := id) (g := f) (l := List.range count)
  have hall : ∀ q ∈ (List.range count).map (fun i => (i, f i)), (!q.2.oor && !(q.2.empty && dIdxEn d)) = true := by
    intro q hq
    obtain ⟨i, -, rfl⟩ := List.mem_map.mp hq
    rw [(hline i).1, hd, Bool.and_false]
    rfl
  rw [runWritten, hf, hzip, List.filter_eq_self.mpr hall, if_neg (by rw [hd]; exact Bool.false_ne_true), List.map_map]
  exact List.map_congr_left fun i _ => Prod.ext rfl (hline i).2

/-- An indexed run writes the lines that its entries give, in ascending order of the entries (R208). -/
theorem runWritten_indexed (ls : List RunLine) (count : Nat) (hd : dIdxEn d = true) :
    ((runWritten d ls count).map (fun q => q.2.entry)).Pairwise (· ≤ ·) ∧
    ∀ q ∈ runWritten d ls count, q.2.oor = false ∧ q.2.empty = false := by
  rw [runWritten, hd]
  simp only [if_true]
  refine ⟨List.pairwise_map.mpr ((List.pairwise_mergeSort (fun a b c => ?_) (fun a b => ?_) _).imp fun h => ?_), fun q hq => ?_⟩
  · simpa using Nat.le_trans
  · simpa using Nat.le_total _ _
  · simpa using h
  · have hkeep := (List.mem_filter.mp (List.mem_mergeSort.mp hq)).2
    simpa using hkeep

/-! The lines of a LINK_SEND, one for each of the run (R481). -/

theorem length_foldl_snd {α β : Type} {f : List β × State → α → List β × State}
    (hf : ∀ acc a, (f acc a).1.length = acc.1.length + 1) (l : List α) (acc : List β × State) :
    (l.foldl f acc).1.length = acc.1.length + l.length := by
  induction l generalizing acc with
  | nil => rfl
  | cons a l ih => rw [List.foldl_cons, ih, hf, List.length_cons, Nat.add_assoc, Nat.add_comm 1]

theorem length_sendLines_store {m : Mrec} (hint : Nat) (run : List RunLine) (h : m.srcTs = true) :
    (sendLines s t m hint run).1.length = m.count := by
  rw [sendLines, if_pos h, length_foldl_snd, List.length_nil, Nat.zero_add, List.length_range]
  intro acc i
  rw [List.length_append, List.length_singleton]

theorem length_sendLines_memory {m : Mrec} (hint : Nat) (run : List RunLine) (h : m.srcTs = false) :
    (sendLines s t m hint run).1.length = run.length := by
  rw [sendLines, if_neg (by rw [h]; exact Bool.false_ne_true), length_foldl_snd, List.length_nil, Nat.zero_add]
  intro acc l
  split <;> rw [List.length_append, List.length_singleton]

theorem length_packets (a w : Nat) (m : Mrec) (ls : List (List Byte)) : (packets s t a w m ls).length = ceilDiv ls.length 16 := by
  rw [packets, List.length_map, List.length_range]

end Runs

section
variable {s u : State} {t : TileIx} {acy a : Nat} {e : BitVec 128}

/-! The instructions, as what they do to the state in which they have issued. -/

theorem exec_moveIn (h : mayIssue s t.toNat 4 acy e 1 = true) (hu : u = issued s t.toNat 4 acy e) (ha : a = absAcy s t.toNat acy) :
    exec (.moveIn t acy) s = .next (moveInAct t.toNat a e u) := by
  subst ha hu
  calc exec (.moveIn t acy) s = execMoveIn t acy s := rfl
    _ = _ := by
      rw [execMoveIn]
      exact issueFree_issues h fun ho => beq_iff_eq.mpr ho

theorem exec_moveOut (h : mayIssue s t.toNat 4 acy e 2 = true) (hu : u = issued s t.toNat 4 acy e) (ha : a = absAcy s t.toNat acy) :
    exec (.moveOut t acy) s = .next (moveOutAct t.toNat a e u) := by
  subst ha hu
  calc exec (.moveOut t acy) s = execMoveOut t acy s := rfl
    _ = _ := by
      rw [execMoveOut]
      exact issueFree_issues h fun ho => beq_iff_eq.mpr ho

theorem exec_linkSend (h : mayIssue s t.toNat 4 acy e 3 = true) (hu : u = issued s t.toNat 4 acy e) (ha : a = absAcy s t.toNat acy) :
    exec (.linkSend t acy) s = .next (linkSendAct t.toNat a e u) := by
  subst ha hu
  calc exec (.linkSend t acy) s = execLinkSend t acy s := rfl
    _ = _ := by
      rw [execLinkSend]
      exact issueFree_issues h fun ho => beq_iff_eq.mpr ho

/-! Arrivals (R343, R351; 16 R555). -/

variable {y : MoveSt} {i : Nat} {before : List (List (BitVec 7 × Byte))} {parity : Bool} {err : List (BitVec 7 × Byte)}

theorem arrivalDue_of (hi : i < y.count) (hgo : y.issue + (i / 2 : Nat) < a) (hnew : i ∉ y.arrived) : arrivalDue y i a = true := by
  simp [arrivalDue, hi, hgo, hnew]

theorem exec_lineArrival_held {b : Nat} (ha : a = absAcy s t.toNat acy) (hon : aclkOn s = true)
    (hfind : (getTile s t.toNat).moves.find? (fun m => m.tag == y.tag) = some y) (hdue : arrivalDue y i a = true)
    (hline : moveLine s t.toNat y i = some b) (hheld : s.hif.held.contains b = true) :
    exec (.lineArrival t y.tag i acy before parity err) s = .next (snoop s b) := by
  subst ha
  calc exec (.lineArrival t y.tag i acy before parity err) s = execLineArrival t y.tag i acy before parity err s := rfl
    _ = _ := by
      simp only [execLineArrival, hon, hfind, hdue, hline, Option.any_some, hheld, Option.getD_some, Bool.not_true, Bool.false_eq_true,
        if_false, Bool.and_self, if_true]

theorem exec_lineArrival (ha : a = absAcy s t.toNat acy) (hon : aclkOn s = true)
    (hfind : (getTile s t.toNat).moves.find? (fun m => m.tag == y.tag) = some y) (hdue : arrivalDue y i a = true)
    (hheld : (moveLine s t.toNat y i).any s.hif.held.contains = false)
    (hsnoop : (moveLine s t.toNat y i).any s.hif.snoops.contains = false) :
    exec (.lineArrival t y.tag i acy before parity err) s = .next (arriveAct s t.toNat a y i before parity err) := by
  subst ha
  calc exec (.lineArrival t y.tag i acy before parity err) s = execLineArrival t y.tag i acy before parity err s := rfl
    _ = _ := by
      simp only [execLineArrival, hon, hfind, hdue, hheld, hsnoop, guarded, Bool.not_true, Bool.not_false, Bool.false_eq_true,
        if_false, Bool.and_false, Bool.and_true, if_true]

/-- The line lies at its place, before the index streams of the run. -/
theorem tsBytes_arriveStore {z : Tile} {b : Nat} {l ix : List Byte} {late : Bool} (h : smRising none z.store = true)
    (hl : l.length = 72) (hi : i < y.count) : tsBytes (arriveStore z a y i b l ix late) (y.ts + 72 * i) 72 = l := by
  calc tsBytes (arriveStore z a y i b l ix late) (y.ts + 72 * i) 72
      = tsBytes (tsWrite (tsWrite z (y.ts + 72 * i) l) (y.ts + 72 * y.count + b * i) ix) (y.ts + 72 * i) 72 :=
        tsBytes_congr fun _ _ _ => rfl
    _ = tsBytes (tsWrite z (y.ts + 72 * i) l) (y.ts + 72 * i) 72 :=
        tsBytes_tsWrite_out (tsWrite_rising h) (.inl (by omega))
    _ = l := by rw [← hl, tsBytes_tsWrite_same h]

theorem moves_arriveStore_last {z : Tile} {b : Nat} {l ix : List Byte} {late : Bool} (hlast : y.arrived.length + 1 = y.count) :
    ∀ g ∈ (arriveStore z a y i b l ix late).moves, g.tag ≠ y.tag := by
  have hdone : ¬ (i :: y.arrived).length < y.count := by
    rw [List.length_cons, hlast]
    exact Nat.lt_irrefl _
  intro g hg
  rw [arriveStore] at hg
  simp only [if_neg hdone] at hg
  simpa using (List.mem_filter.mp hg).2

end

/-- Settles O58: the three instructions by what they do, the two kinds of arrival, and what a write of the tile store shows. -/
theorem moveInstructions : Obligations.MoveInstructions := by
  rintro s u t acy a e m d hint r x ha
  refine ⟨fun hu hm hd hhint hr hx => ⟨fun w h hw => ?_, fun qs v w h hqs hv hw => ?_, fun q h => ?_⟩, ?_, fun z b l hz => ?_⟩
  · rw [exec_moveIn h hu ha]
    subst hw hx hr hhint hd hm
    rfl
  · rw [exec_moveOut h hu ha]
    subst hw hv hqs hx hr hhint hd hm
    refine ⟨fun hidx => ⟨?_, runWritten_plain _ _ _ _ hidx⟩, fun hidx => ⟨?_, runWritten_indexed _ _ hidx⟩⟩
    · simp only [moveOutAct, hidx, Bool.false_eq_true, if_false]
      rfl
    · simp only [moveOutAct, hidx, if_true]
      rfl
  · rw [exec_linkSend h hu ha]
    refine ⟨fun hsrc hq => ?_, fun hsrc hq => ?_⟩
    · have hlen : q.1.length = m.count := by rw [hq, length_sendLines_store hint [] hsrc]
      refine ⟨?_, hlen, by rw [length_packets, hlen]⟩
      subst hq hhint hm
      simp only [linkSendAct, hsrc, if_true]
    · have hlen : q.1.length = m.count := by rw [hq, length_sendLines_memory hint r.1 hsrc, hr, length_runLines]
      refine ⟨?_, hlen, by rw [length_packets, hlen]⟩
      subst hq hr hhint hd hm
      simp only [linkSendAct, hsrc, Bool.false_eq_true, if_false]
  · intro y i before parity err hon hfind hi hgo hnew
    have hdue := arrivalDue_of hi hgo hnew
    exact ⟨fun b hline hheld => exec_lineArrival_held ha hon hfind hdue hline hheld,
      fun hheld hsnoop => exec_lineArrival ha hon hfind hdue hheld hsnoop,
      fun z b l ix late hz hl => ⟨tsBytes_arriveStore (smWf_rising hz) hl hi, moves_arriveStore_last⟩⟩
  · exact ⟨tsBytes_tsWrite_same (smWf_rising hz), fun c hc => tsGet_tsWrite_out (smWf_rising hz) hc⟩

end Sys2Proof.Machine


/-! The array's links, cells and rows: what an update shows and leaves (04 R145, R146; 05 R148, R160). -/

namespace Sys2Proof.Machine

section
variable {x : Tile}

/-! Links. -/

/-- The maps of a tile's links are in ascending order of their keys. -/
def LinksRise (x : Tile) : Prop := smRising none x.rowLinks = true ∧ smRising none x.colLinks = true

theorem pushLink_rise (side k : Nat) (e : LinkEntry) (h : LinksRise x) : LinksRise (pushLink x side k e) := by
  obtain ⟨hr, hc⟩ := h
  rw [pushLink]
  split
  · rw [setRow]
    exact ⟨smRising_smSet (d := fun _ => []) _ _ hr, hc⟩
  · rw [setCol]
    exact ⟨hr, smRising_smSet (d := fun _ => []) _ _ hc⟩

theorem getLink_pushLink_same (side k : Nat) (e : LinkEntry) (h : LinksRise x) :
    getLink (pushLink x side k e) side k = getLink x side k ++ [e] := by
  obtain ⟨hr, hc⟩ := h
  rw [pushLink, getLink, getLink]
  split
  · rw [getRow, setRow, smGet_smSet_same _ _ _ _ hr]
  · rw [getCol, setCol, smGet_smSet_same _ _ _ _ hc]

theorem getLink_pushLink_ne {side k j : Nat} (e : LinkEntry) (hj : j ≠ k) (h : LinksRise x) :
    getLink (pushLink x side k e) side j = getLink x side j := by
  obtain ⟨hr, hc⟩ := h
  rw [pushLink, getLink, getLink]
  split
  · rw [getRow, setRow, smGet_smSet_ne _ _ _ hj hr, getRow]
  · rw [getCol, setCol, smGet_smSet_ne _ _ _ hj hc, getCol]

theorem foldl_pushLink_rise (side : Nat) (e : LinkEntry) (l : List Nat) (h : LinksRise x) :
    LinksRise (l.foldl (fun x k => pushLink x side k e) x) := by
  induction l generalizing x with
  | nil => exact h
  | cons k l ih => exact ih (pushLink_rise side k e h)

theorem getLink_foldl_pushLink_out {side j : Nat} (e : LinkEntry) {l : List Nat} (hj : j ∉ l) (h : LinksRise x) :
    getLink (l.foldl (fun x k => pushLink x side k e) x) side j = getLink x side j := by
  induction l generalizing x with
  | nil => rfl
  | cons k l ih =>
    rw [List.mem_cons, not_or] at hj
    rw [List.foldl_cons, ih hj.2 (pushLink_rise side k e h), getLink_pushLink_ne e hj.1 h]

/-- An entry pushed once on each of several links. -/
theorem getLink_foldl_pushLink {side j : Nat} (e : LinkEntry) {l : List Nat} (hnd : l.Nodup) (hj : j ∈ l) (h : LinksRise x) :
    getLink (l.foldl (fun x k => pushLink x side k e) x) side j = getLink x side j ++ [e] := by
  induction l generalizing x with
  | nil => exact absurd hj List.not_mem_nil
  | cons k l ih =>
    obtain ⟨hk, hnd⟩ := List.nodup_cons.mp hnd
    rw [List.foldl_cons]
    by_cases hjk : j = k
    · rw [hjk, getLink_foldl_pushLink_out e hk (pushLink_rise side k e h), getLink_pushLink_same side k e h]
    · rw [ih hnd ((List.mem_cons.mp hj).resolve_left hjk) (pushLink_rise side k e h), getLink_pushLink_ne e hjk h]

/-! Cells. -/

theorem getCell_setCell_same (r c : Nat) (v : Cell) (h : smRising none x.cells = true) : getCell (setCell x r c v) r c = v := by
  rw [getCell, setCell, smGet_smSet_same _ _ _ _ h]

theorem smGet_setCell_ne {r c j : Nat} (v : Cell) (hj : j ≠ 65 * r + c) (h : smRising none x.cells = true) :
    smGet (fun _ => {}) (setCell x r c v).cells j = smGet (fun _ => ({} : Cell)) x.cells j := by
  rw [setCell, smGet_smSet_ne _ _ _ hj h]

theorem setCell_rising (r c : Nat) (v : Cell) (h : smRising none x.cells = true) : smRising none (setCell x r c v).cells = true := by
  rw [setCell]
  exact smRising_smSet (d := fun _ => {}) _ _ h

/-- The retirement of entries leaves the cells. -/
theorem noteRoom_cells (side k acy : Nat) (was now : List LinkEntry) : (noteRoom x side k acy was now).cells = x.cells := by
  rw [noteRoom]
  split
  · rfl
  · rfl

theorem retireRow_cells (r acy : Nat) : (retireRow x r acy).cells = x.cells := by
  rw [retireRow, noteRoom_cells, setRow]

theorem retireCol_cells (key acy : Nat) : (retireCol x key acy).cells = x.cells := by
  rw [retireCol, noteRoom_cells, setCol]

/-! Rows of the array. -/

theorem getARow_setARow_same (r : Nat) (v : ArrRow) (h : smRising none x.rows = true) : getARow (setARow x r v) r = v := by
  rw [getARow, setARow, smGet_smSet_same _ _ _ _ h]

theorem getARow_setARow_ne {r k : Nat} (v : ArrRow) (hk : k ≠ r) (h : smRising none x.rows = true) :
    getARow (setARow x r v) k = getARow x k := by
  rw [getARow, setARow, smGet_smSet_ne _ _ _ hk h, getARow]

theorem setARow_rising (r : Nat) (v : ArrRow) (h : smRising none x.rows = true) : smRising none (setARow x r v).rows = true := by
  rw [setARow]
  exact smRising_smSet (d := fun _ => {}) _ _ h

/-! Blocks. -/

/-- An update of a block that keeps its number is seen by its number. -/
theorem blockById_updBlock {id : Nat} {f : OBlock → OBlock} {b : OBlock} (hf : (f b).id = b.id) (h : blockById x id = some b) :
    blockById (updBlock x id f) id = some (f b) := by
  obtain ⟨hid, as, bs, hl, has⟩ := List.find?_eq_some_iff_append.mp h
  rw [blockById, updBlock]
  refine List.find?_eq_some_iff_append.mpr ⟨by rw [hf, hid], as, bs.map (fun b => if b.id = id then f b else b), ?_, has⟩
  have has' : as.map (fun b => if b.id = id then f b else b) = as := by
    refine (List.map_congr_left fun a ha => ?_).trans (List.map_id as)
    have hne := has a ha
    rw [if_neg (by simpa using hne), id_eq]
  rw [hl, List.map_append, List.map_cons, has', if_pos (beq_iff_eq.mp hid)]

theorem id_of_blockById {id : Nat} {b : OBlock} (h : blockById x id = some b) : b.id = id := by
  simpa using List.find?_some h

end

end Sys2Proof.Machine


/-! A lane presents a step (O53; 05 R161, R167; 07 R221). -/

namespace Sys2Proof.Machine

section
variable {s u : State} {x : Tile} {q : Present} {acy : Nat}

theorem exec_feedPresent {t : TileIx} {f : BitVec 1} {lane : BitVec 10} {a : Nat} (ha : a = absAcy s t.toNat acy)
    (hon : aclkOn s = true) (hu : u = updTile s t.toNat (landDue a)) (hq : presentOf u t.toNat f.toNat lane.toNat = some q)
    (hdue : presentDue (getTile u t.toNat) a q = true) :
    exec (.feedPresent t f lane acy) s = .next (presentStep u t.toNat a q) := by
  subst hu ha
  calc exec (.feedPresent t f lane acy) s = execFeedPresent t f lane acy s := rfl
    _ = _ := by simp only [execFeedPresent, hon, hq, guarded, hdue, Bool.not_true, Bool.false_eq_true, if_false, if_true]

/-- What a lane presents is its own feed's next step. -/
theorem presentOf_spec {t side lane : Nat} (h : presentOf s t side lane = some q) :
    q.fd.side = side ∧ q.lane = lane := by
  rw [presentOf] at h
  have hmem := List.mem_of_head? h
  obtain ⟨fd, -, hfd⟩ := List.mem_filterMap.mp hmem
  split at hfd
  · cases hfd
  · next hout =>
    have hside : fd.side = side := Decidable.byContradiction fun hne => hout (by simp [hne])
    split at hfd
    · cases hfd
    · split at hfd
      · cases hfd
      · split at hfd
        · cases hfd
          exact ⟨hside, rfl⟩
        · cases hfd

/-- The links of a lane are row links below 64, or the lane's own column link. -/
theorem laneLinks_nodup (side shape lane : Nat) : (laneLinks side shape lane).Nodup := by
  rw [laneLinks]
  split
  · exact List.nodup_range.filter _
  · exact List.pairwise_singleton _ _

theorem mem_laneLinks_lt {side shape lane k : Nat} (hlane : lane < 1024) (h : k ∈ laneLinks side shape lane) :
    k < if side = 0 then 64 else 1024 := by
  rw [laneLinks] at h
  split at h
  · next hside =>
    rw [if_pos hside]
    exact List.mem_range.mp (List.mem_filter.mp h).1
  · next hside =>
    rw [if_neg hside, List.mem_singleton.mp h]
    exact hlane

/-- The step's entries on the lane's links. -/
def entriesPushed (x : Tile) (acy : Nat) (q : Present) (es : List Elem) : Tile :=
  (laneLinks q.fd.side q.fd.shape q.lane).foldl (fun x k =>
    pushLink x q.fd.side k { blk := q.b.id, step := q.p.base + q.step, elems := es, at_ := acy }) x

/-- Beside the entries, an edge sum goes on, or enters a checksum link when it is finished (R167). -/
theorem presentLinks_cases (x : Tile) (acy : Nat) (q : Present) (es : List Elem) :
    presentLinks x acy q es = entriesPushed x acy q es ∨
    (∃ m, presentLinks x acy q es = { entriesPushed x acy q es with edges := m }) ∨
    ∃ m seg e, presentLinks x acy q es =
      pushLink { entriesPushed x acy q es with edges := m } q.fd.side (if q.fd.side = 0 then 64 else 1024 + seg) e := by
  rw [presentLinks, ← entriesPushed]
  dsimp only
  generalize (if q.fd.side = 0 then 0 else q.lane / 64) = seg
  split
  · exact .inl rfl
  · split
    · exact .inr (.inl ⟨_, rfl⟩)
    · exact .inr (.inr ⟨_, _, _, rfl⟩)

/-- Each of the lane's links takes the step's entry; a checksum link, which no lane has, may take an edge sum. -/
theorem getLink_presentLinks {es : List Elem} {k : Nat} (h : LinksRise x) (hlane : q.lane < 1024)
    (hk : k ∈ laneLinks q.fd.side q.fd.shape q.lane) :
    getLink (presentLinks x acy q es) q.fd.side k =
      getLink x q.fd.side k ++ [{ blk := q.b.id, step := q.p.base + q.step, elems := es, at_ := acy }] := by
  have hrise : LinksRise (entriesPushed x acy q es) := foldl_pushLink_rise _ _ _ h
  have hlt := mem_laneLinks_lt hlane hk
  have hpush : getLink (entriesPushed x acy q es) q.fd.side k = getLink x q.fd.side k ++ [_] :=
    getLink_foldl_pushLink _ (laneLinks_nodup _ _ _) hk h
  rw [← hpush]
  rcases presentLinks_cases x acy q es with he | ⟨m, he⟩ | ⟨m, seg, e, he⟩
  · rw [he]
  · rw [he]
    rfl
  · rw [he]
    refine getLink_pushLink_ne e ?_ hrise
    split
    · next hside =>
      rw [if_pos hside] at hlt
      exact Nat.ne_of_lt hlt
    · next hside =>
      rw [if_neg hside] at hlt
      omega

/-! What is stored beside the links leaves them (R224, R248, R345). -/

theorem getLink_congr {y : Tile} (hr : y.rowLinks = x.rowLinks) (hc : y.colLinks = x.colLinks) (side k : Nat) :
    getLink y side k = getLink x side k := by
  rw [getLink, getLink, getRow, getRow, getCol, getCol, hr, hc]

theorem latchFeed_links (x : Tile) (q : Present) :
    (latchFeed x q).rowLinks = x.rowLinks ∧ (latchFeed x q).colLinks = x.colLinks := by
  constructor
  · rw [latchFeed]
    repeat' split
    all_goals rfl
  · rw [latchFeed]
    repeat' split
    all_goals rfl

theorem readsDone_frame (x : Tile) (acy : Nat) (q : Present) (fd : FeedSt) :
    (readsDone x acy q fd).rowLinks = x.rowLinks ∧ (readsDone x acy q fd).colLinks = x.colLinks ∧
      (readsDone x acy q fd).feeds = x.feeds := by
  rw [readsDone]
  split
  · exact ⟨rfl, rfl, rfl⟩
  · exact ⟨rfl, rfl, rfl⟩

/-- The step stored: its entries on the links, and the feed's lane a step on. -/
theorem presentStore_eq (x : Tile) (acy : Nat) (q : Present) (es : List Elem) :
    ∃ (y : Tile) (fd : FeedSt) (amax : List (Nat × Nat)), presentStore x acy q es = readsDone y acy q fd ∧
      y.rowLinks = (latchFeed (presentLinks x acy q es) q).rowLinks ∧
      y.colLinks = (latchFeed (presentLinks x acy q es) q).colLinks ∧
      y.feeds = (latchFeed (presentLinks x acy q es) q).feeds.map (fun f => if f.tag = q.fd.tag then
        { f with lanes := smSet (fun _ => (0, 0)) q.fd.lanes q.lane (q.step + 1, acy), amax := amax } else f) :=
  ⟨_, _, _, rfl, rfl, rfl, rfl⟩

theorem getLink_presentStore {es : List Elem} {k : Nat} (h : LinksRise x) (hlane : q.lane < 1024)
    (hk : k ∈ laneLinks q.fd.side q.fd.shape q.lane) :
    getLink (presentStore x acy q es) q.fd.side k =
      getLink x q.fd.side k ++ [{ blk := q.b.id, step := q.p.base + q.step, elems := es, at_ := acy }] := by
  obtain ⟨y, fd, amax, hz, hyr, hyc, -⟩ := presentStore_eq x acy q es
  obtain ⟨hr, hc, -⟩ := readsDone_frame y acy q fd
  obtain ⟨hlr, hlc⟩ := latchFeed_links (presentLinks x acy q es) q
  rw [hz, getLink_congr (hr.trans (hyr.trans hlr)) (hc.trans (hyc.trans hlc)), getLink_presentLinks h hlane hk]

theorem laneSteps_presentStore {es : List Elem} (h : smRising none q.fd.lanes = true) :
    ∀ g ∈ (presentStore x acy q es).feeds, g.tag = q.fd.tag → laneSteps g q.lane = q.step + 1 := by
  obtain ⟨y, fd, amax, hz, -, -, hfeeds⟩ := presentStore_eq x acy q es
  intro g hg htag
  rw [hz, (readsDone_frame y acy q fd).2.2, hfeeds] at hg
  obtain ⟨f, -, rfl⟩ := List.mem_map.mp hg
  by_cases hf : f.tag = q.fd.tag
  · rw [if_pos hf, laneSteps, smGet_smSet_same _ _ _ _ h]
  · rw [if_neg hf] at htag
    exact absurd htag hf

end

end Sys2Proof.Machine


/-! A cell's step, its outlier step, and a row's swap (O53; 04 R121 to R133; 05 R148, R160; 08 R257). -/

namespace Sys2Proof.Machine

section
variable {s : State} {t : TileIx} {acy a : Nat} {x : Tile}

/-! A cell steps. -/

/-- The tile after a cell's step: the cell, and the links that the step's entries leave. -/
def cellStored (s : State) (t r c a : Nat) (b : OBlock) (p : KPassSt) (e k : LinkEntry) (inj : Option Nat) : Tile :=
  retireCol (retireRow (setCell (getTile s t) r c
    { (steppedCell (getCell (getTile s t) r c) (r < 64 && c < 64) a b p e k inj).1 with
      dup := if samples s t then dupStep (getCell (getTile s t) r c) (r < 64 && c < 64) a b p e k else 0 }) r a)
    (colKey b.shape r c) a

theorem exec_arrayStep {r c : BitVec 7} {b : OBlock} {p : KPassSt} {e k : LinkEntry} (hx : x = getTile s t.toNat)
    (ha : a = absAcy s t.toNat acy) (hon : aclkOn s = true) (he : cellEntries x r.toNat c.toNat = some (b, p, e, k))
    (hat : a = stepAt x r.toNat c.toNat b e k) :
    exec (.arrayStep t r c acy) s = .next (cellAct s t.toNat r.toNat c.toNat a b p e k) := by
  subst hx ha
  calc exec (.arrayStep t r c acy) s = execArrayStep t r c acy s := rfl
    _ = _ := by
      simp only [execArrayStep, hon, he, guarded, Bool.not_true, Bool.false_eq_true, if_false]
      rw [if_pos (beq_iff_eq.mpr hat)]

/-- What a cell's step does beside its tile: stalls, the injection used, the count of cell (0, 0) and the events. -/
theorem cellAct_eq (t r c : Nat) (b : OBlock) (p : KPassSt) (e k : LinkEntry) {inj : Option Nat}
    (hinj : inj = if b.bf16 then none else injectHere s t r c) {w v : State}
    (hw : w = noteStalls (setTile s t (cellStored s t r c a b p e k inj)) t 0x21 (stallFrom (getTile s t) r c b p e.step) a)
    (hv : v = if inj.isSome then injectUsed w else w) :
    cellAct s t r c a b p e k = arithEvent (if r = 0 ∧ c = 0 then tcount v t 0x20 1 else v) t
      (cellPlace b r c (p.step0 + (e.step - p.base)) a)
      (steppedCell (getCell (getTile s t) r c) (r < 64 && c < 64) a b p e k inj).2 := by
  subst hv hw hinj
  rfl

/-- The cell that has stepped. -/
theorem getCell_cellStored (t r c : Nat) (b : OBlock) (p : KPassSt) (e k : LinkEntry) (inj : Option Nat)
    (h : smRising none (getTile s t).cells = true) :
    getCell (cellStored s t r c a b p e k inj) r c =
      { (steppedCell (getCell (getTile s t) r c) (r < 64 && c < 64) a b p e k inj).1 with
        dup := if samples s t then dupStep (getCell (getTile s t) r c) (r < 64 && c < 64) a b p e k else 0 } := by
  rw [getCell, cellStored, retireCol_cells, retireRow_cells, ← getCell, getCell_setCell_same _ _ _ h]

theorem smGet_cellStored_ne {t r c j : Nat} (b : OBlock) (p : KPassSt) (e k : LinkEntry) (inj : Option Nat)
    (h : smRising none (getTile s t).cells = true) (hj : j ≠ 65 * r + c) :
    smGet (fun _ => {}) (cellStored s t r c a b p e k inj).cells j = smGet (fun _ => ({} : Cell)) (getTile s t).cells j := by
  rw [cellStored, retireCol_cells, retireRow_cells, smGet_setCell_ne _ hj h]

/-- A cell of the 64 by 64 adds the step's terms to its accumulator. -/
theorem steppedCell_act (v : Cell) (b : OBlock) (p : KPassSt) (e k : LinkEntry) (inj : Option Nat) :
    ((steppedCell v true a b p e k inj).1.act, (steppedCell v true a b p e k inj).2) =
      cellStep v.act (stepTerms e.elems k.elems inj).1 := rfl

theorem stepTerms_plain (l m : List Elem) :
    stepTerms l m none = ((stepPairs l m).map (fun q => (q.1.value, q.2.value)),
      toRes ((stepPairs l m).foldl (fun n q => n + q.1.int * q.2.int) 0)) := rfl

theorem steppedCell_res (v : Cell) (plain : Bool) {b : OBlock} (p : KPassSt) (e k : LinkEntry) (hb : b.bf16 = false) :
    (steppedCell v plain a b p e k none).1.res =
      (v.res + toRes ((stepPairs e.elems k.elems).foldl (fun n q => n + q.1.int * q.2.int) 0)) % resP := by
  calc (steppedCell v plain a b p e k none).1.res
      = if b.bf16 then v.res else (v.res + (stepTerms e.elems k.elems none).2) % resP := rfl
    _ = _ := by rw [hb, if_neg Bool.false_ne_true, stepTerms_plain]

/-! Its outlier step. -/

theorem exec_outlierStep {r c : BitVec 7} {b : OBlock} {p : KPassSt} (hx : x = getTile s t.toNat)
    (ha : a = absAcy s t.toNat acy) (hon : aclkOn s = true) (hdue : outlierDue x r.toNat c.toNat = some (b, p))
    (howes : (getCell x r.toNat c.toNat).outDue = true) (hnext : 0 < (getCell x r.toNat c.toNat).next)
    (hat : a = (getCell x r.toNat c.toNat).at_ + 1) :
    exec (.outlierStep t r c acy) s = .next (outlierAct s t.toNat r.toNat c.toNat a b p) := by
  subst hx ha
  calc exec (.outlierStep t r c acy) s = execOutlierStep t r c acy s := rfl
    _ = _ := by
      simp only [execOutlierStep, hon, hdue, guarded, Bool.not_true, Bool.false_eq_true, if_false, howes, hnext, decide_true,
        Bool.true_and]
      rw [if_pos (beq_iff_eq.mpr hat)]

/-- The cell after its outlier step. -/
def outlierCell (s : State) (t r c a : Nat) (b : OBlock) (p : KPassSt) : Cell :=
  { getCell (getTile s t) r c with
    act := (cellStep (getCell (getTile s t) r c).act (outlierTerms b p r c)).1
    dup := if samples s t then (cellStep (getCell (getTile s t) r c).dup (outlierTerms b p r c)).1 else 0
    outDue := false
    at_ := a
    blkDone := if isLastPass b p then b.id + 1 else (getCell (getTile s t) r c).blkDone }

theorem outlierAct_eq (t r c : Nat) (b : OBlock) (p : KPassSt) {y : Tile}
    (hy : y = setCell (getTile s t) r c (outlierCell s t r c a b p)) :
    outlierAct s t r c a b p = arithEvent (if r = 0 ∧ c = 0 then tcount (setTile s t y) t 0x20 1 else setTile s t y) t
      (cellPlace b r c (p.step0 + p.steps) a) (cellStep (getCell (getTile s t) r c).act (outlierTerms b p r c)).2 := by
  subst hy
  rfl

/-! A row swaps. -/

/-- Each cell's accumulators swapped, the first n columns of the row. -/
theorem swapCells_fold (r : Nat) (h : smRising none x.cells = true) : ∀ n, ∃ y, y = (List.range n).foldl (fun x c =>
      setCell x r c { getCell x r c with
        shd := (getCell x r c).act, act := 0, shRes := (getCell x r c).res, res := 0, dupShd := (getCell x r c).dup, dup := 0 }) x ∧
    smRising none y.cells = true ∧ (∀ c, n ≤ c → getCell y r c = getCell x r c) ∧
    ∀ c, c < n → (getCell y r c).shd = (getCell x r c).act ∧ (getCell y r c).act = 0
  | 0 => ⟨x, rfl, h, fun _ _ => rfl, fun _ hc => absurd hc (Nat.not_lt_zero _)⟩
  | n + 1 => by
    obtain ⟨y, hy, hrise, hout, hin⟩ := swapCells_fold r h n
    refine ⟨_, rfl, ?_⟩
    rw [List.range_succ, List.foldl_append, ← hy, List.foldl_cons, List.foldl_nil]
    have hne (c : Nat) (v : Cell) (hc : c ≠ n) : getCell (setCell y r n v) r c = getCell y r c :=
      smGet_setCell_ne v (by omega) hrise
    refine ⟨setCell_rising _ _ _ hrise, fun c hc => ?_, fun c hc => ?_⟩
    · rw [hne c _ (by omega), hout c (by omega)]
    · by_cases hcn : c = n
      · rw [hcn, getCell_setCell_same _ _ _ hrise]
        exact ⟨congrArg Cell.act (hout n (Nat.le_refl n)), rfl⟩
      · rw [hne c _ hcn]
        exact hin c (by omega)

theorem swapCells_cell {r c : Nat} (h : smRising none x.cells = true) (hc : c ≤ 64) :
    (getCell (swapCells x r) r c).shd = (getCell x r c).act ∧ (getCell (swapCells x r) r c).act = 0 := by
  obtain ⟨y, hy, -, -, hin⟩ := swapCells_fold r h 65
  rw [swapCells, ← hy]
  exact hin c (by omega)

theorem exec_arraySwap {r : BitVec 7} {b : OBlock} (hx : x = getTile s t.toNat) (ha : a = absAcy s t.toNat acy)
    (hon : aclkOn s = true) (hb : swapBlock x r.toNat = some b) (hready : swapReady x r.toNat b = true) (hr : r.toNat ≤ 64)
    (hat : a = swapAcy x r.toNat b) : exec (.arraySwap t r acy) s = .next (swapAct s t.toNat r.toNat a b) := by
  subst hx ha
  calc exec (.arraySwap t r acy) s = execArraySwap t r acy s := rfl
    _ = _ := by
      simp only [execArraySwap, hon, hb, guarded, hready, hr, decide_true, Bool.not_true, Bool.false_eq_true, if_false, Bool.true_and]
      rw [if_pos (beq_iff_eq.mpr hat)]

/-- A swap or drain within its slack is counted as none late. -/
theorem slackCheck_inTime {t : Nat} {b : OBlock} {sched : Nat} (h : b.late = true ∨ a ≤ sched + b.slack) :
    slackCheck s t a b sched = s := by
  rw [slackCheck, if_pos (by simpa using h)]

/-- A row's tile with the block swapped. -/
def rowSwapped (x : Tile) (r a : Nat) (b : OBlock) : Tile :=
  setARow (swapCells x r) r { getARow x r with swaps := b.id + 1, swapAt := a }

/-- The last row of a repeat ends it. -/
def swapEnded (y : Tile) (b : OBlock) : Tile :=
  if allSwapped y b && y.running == some b.id then { y with running := none } else y

theorem swapEnded_eq (y : Tile) (b : OBlock) : ∃ run, swapEnded y b = { y with running := run } := by
  rw [swapEnded]
  split
  · exact ⟨none, rfl⟩
  · exact ⟨y.running, rfl⟩

theorem swapAct_cases (t r : Nat) (b : OBlock) : swapAct s t r a b =
    if allSwapped (rowSwapped (getTile s t) r a b) b then
      slackCheck (setTile s t (swapEnded (rowSwapped (getTile s t) r a b) b)) t a b b.schedSwap
    else setTile s t (swapEnded (rowSwapped (getTile s t) r a b) b) := rfl

/-- A swap within its slack changes its tile alone: the row's cells and its count, and a repeat that ends. -/
theorem swapAct_eq {t r : Nat} {b : OBlock} (h : a ≤ b.schedSwap + b.slack) :
    swapAct s t r a b = setTile s t (swapEnded (rowSwapped (getTile s t) r a b) b) := by
  rw [swapAct_cases, slackCheck_inTime (.inr h), ite_self]

end

end Sys2Proof.Machine


/-! A row enters the conversion path and is written, and the verdict on its block (O53; 05 R149, R163 to R172). -/

namespace Sys2Proof.Machine

section
variable {s : State} {t : TileIx} {acy a : Nat} {x : Tile}

/-! A row enters. -/

theorem exec_drainRowEnter {r : BitVec 6} {b : OBlock} (hx : x = getTile s t.toNat) (ha : a = absAcy s t.toNat acy)
    (hon : aclkOn s = true) (hb : enterBlock x r.toNat = some b) (hready : enterReady x r.toNat a b = true) :
    exec (.drainRowEnter t r acy) s = .next (enterAct s t.toNat r.toNat a b) := by
  subst hx ha
  calc exec (.drainRowEnter t r acy) s = execDrainRowEnter t r acy s := rfl
    _ = _ := by
      simp only [execDrainRowEnter, hon, hb, guarded, hready, Bool.not_true, Bool.false_eq_true, if_false, if_true]

/-- The block with the row's residues in its check sums. -/
def rowChecked (x : Tile) (r a : Nat) (b y : OBlock) : OBlock :=
  checkRow y r (enteredRow x r a b).res (enteredRow x r a b).chk ((List.range 64).map (fun c => (getCell x 64 c).shRes))
    (getCell x 64 64).shRes

/-- The tile with the row on the conversion path. -/
def rowOnPath (x : Tile) (r a : Nat) (b : OBlock) : Tile :=
  setARow { updBlock x b.id (rowChecked x r a b) with conv := x.conv ++ [enteredRow x r a b] } r
    { getARow x r with entered := (getARow x r).swaps, enterAt := a }

/-- With row 63 the checksum row enters too. -/
def rowEntered (x : Tile) (r a : Nat) (b : OBlock) : Tile :=
  if r = 63 ∧ participates b 64 0 then
    setARow (rowOnPath x r a b) 64
      { getARow (rowOnPath x r a b) 64 with entered := (getARow (rowOnPath x r a b) 64).swaps, enterAt := a }
  else rowOnPath x r a b

/-- The entry of a row, with the stall of another that could have entered. -/
def enterStalled (s : State) (t r a : Nat) (b : OBlock) : State :=
  if (enterRivals (getTile s t) a).any (fun q => q.1 != r) then
    noteStalls (setTile s t (rowEntered (getTile s t) r a b)) t 0x22 a (a + 1)
  else setTile s t (rowEntered (getTile s t) r a b)

theorem enterAct_cases (t r : Nat) (b : OBlock) : enterAct s t r a b =
    if r = 63 then slackCheck (enterStalled s t r a b) t a ((blockById (rowEntered (getTile s t) r a b) b.id).getD b)
      (b.schedSwap + 64)
    else enterStalled s t r a b := rfl

theorem enterStalled_alone {t r : Nat} {b : OBlock} (h : (enterRivals (getTile s t) a).all (fun q => q.1 == r) = true) :
    enterStalled s t r a b = setTile s t (rowEntered (getTile s t) r a b) := by
  rw [enterStalled, if_neg]
  rw [List.any_eq_true]
  rintro ⟨q, hq, hne⟩
  have heq := List.all_eq_true.mp h q hq
  simp only [bne_iff_ne, beq_iff_eq] at hne heq
  exact hne heq

/-- The check sums of a block are no part of its number, its slack or its lateness. -/
theorem checkRow_frame (b : OBlock) (r : Nat) (res : List Nat) (chk : Nat) (chkRow : List Nat) (corner : Nat) :
    (checkRow b r res chk chkRow corner).id = b.id ∧ (checkRow b r res chk chkRow corner).late = b.late ∧
      (checkRow b r res chk chkRow corner).slack = b.slack := by
  unfold checkRow
  split
  · exact ⟨rfl, rfl, rfl⟩
  · dsimp only
    split
    · exact ⟨rfl, rfl, rfl⟩
    · split
      · exact ⟨rfl, rfl, rfl⟩
      · exact ⟨rfl, rfl, rfl⟩

theorem rowEntered_frame (x : Tile) (r a : Nat) (b : OBlock) :
    (rowEntered x r a b).blocks = (updBlock x b.id (rowChecked x r a b)).blocks ∧
      (rowEntered x r a b).conv = x.conv ++ [enteredRow x r a b] := by
  rw [rowEntered]
  split
  · exact ⟨rfl, rfl⟩
  · exact ⟨rfl, rfl⟩

theorem blockById_rowEntered {r : Nat} {b : OBlock} (hb : blockById x b.id = some b) :
    blockById (rowEntered x r a b) b.id = some (rowChecked x r a b b) := by
  calc blockById (rowEntered x r a b) b.id = blockById (updBlock x b.id (rowChecked x r a b)) b.id := by
        rw [blockById, (rowEntered_frame x r a b).1, ← blockById]
    _ = _ := blockById_updBlock (checkRow_frame b _ _ _ _ _).1 hb

theorem getARow_rowEntered {r : Nat} {b : OBlock} (h : smRising none x.rows = true) :
    (getARow (rowEntered x r a b) r).entered = (getARow x r).swaps := by
  have hpath : (getARow (rowOnPath x r a b) r).entered = (getARow x r).swaps := by
    rw [rowOnPath]
    exact congrArg ArrRow.entered (getARow_setARow_same _ _ h)
  have hrise : smRising none (rowOnPath x r a b).rows = true := setARow_rising _ _ h
  rw [rowEntered]
  split
  · rw [getARow_setARow_ne _ (by omega) hrise, hpath]
  · exact hpath

/-- A row that enters alone and within its slack changes its tile alone. -/
theorem enterAct_eq {t r : Nat} {b : OBlock} (hb : enterBlock (getTile s t) r = some b)
    (hrivals : (enterRivals (getTile s t) a).all (fun q => q.1 == r) = true)
    (hslack : r = 63 → b.late = true ∨ a ≤ b.schedSwap + 64 + b.slack) :
    enterAct s t r a b = setTile s t (rowEntered (getTile s t) r a b) := by
  have hid : blockById (getTile s t) b.id = some b := by
    rw [enterBlock] at hb
    rw [id_of_blockById hb]
    exact hb
  obtain ⟨-, hlate, hsl⟩ := checkRow_frame b r (enteredRow (getTile s t) r a b).res (enteredRow (getTile s t) r a b).chk
    ((List.range 64).map (fun c => (getCell (getTile s t) 64 c).shRes)) (getCell (getTile s t) 64 64).shRes
  rw [enterAct_cases, enterStalled_alone hrivals, blockById_rowEntered hid, Option.getD_some]
  split
  · next hr =>
    refine slackCheck_inTime ?_
    rw [rowChecked, hlate, hsl]
    exact hslack hr
  · rfl

/-! A row is written. -/

/-- What follows the row's bytes: with row 63 the drain is done. -/
def drainFollowed (w : State) (t r a id : Nat) : State :=
  match blockById (getTile w t) id with
  | some b => if r = 63 then drainDone w t a b else w
  | none => w

theorem exec_drainRowWrite {r : BitVec 6} {y : Tile} {v : ConvRow} {b : OBlock} {q : Drain} (ha : a = absAcy s t.toNat acy)
    (hon : aclkOn s = true) (hy : y = landDue a (getTile s t.toNat)) (hv : y.conv.find? (fun v => v.row == r.toNat) = some v)
    (hb : blockById y v.blk = some b) (hq : drainOf s t.toNat a b v.row = some q)
    (hat : a = v.entered + (if q.fmt.isNarrow then 9 else 6)) :
    exec (.drainRowWrite t r acy) s = .next (writeAct s y t.toNat a q v) := by
  have hlat : (a == v.entered + convLatency q.fmt) = true := beq_iff_eq.mpr hat
  subst hy ha
  calc exec (.drainRowWrite t r acy) s = execDrainRowWrite t r acy s := rfl
    _ = _ := by
      simp only [execDrainRowWrite, hon, hv, hb, Option.bind_some, hq, guarded, hlat, Bool.not_true, Bool.false_eq_true, if_false,
        if_true]

theorem drainOf_spec {t : Nat} {b : OBlock} {r : Nat} {q : Drain} (h : drainOf s t a b r = some q) : q.b = b ∧ q.t = t := by
  rw [drainOf] at h
  obtain ⟨f, -, rfl⟩ := Option.map_eq_some_iff.mp h
  exact ⟨rfl, rfl⟩

/-- The row's bytes, beside what the shadowing site would have written (19 R644, R645). -/
theorem writeAct_eq {t : Nat} {y : Tile} {q : Drain} {v : ConvRow} {u w : State} (ht : q.t = t)
    (hu : u = setTile s t { y with
      conv := y.conv.filter (fun i => !(i.row == v.row && i.blk == v.blk))
      readers := endHolds y.readers q.b.tag a (fun i => !(q.pagesLeft s).contains i)
      pend := endHolds y.pend q.b.tag a (fun i => !(q.pagesLeft s).contains i) })
    (hw : w = (if samples s t && rowBytes (drainRow u q { v with acc := v.dup }) q != rowBytes (drainRow u q v) q then
      updTile (drainRow u q v) t (fun x => updBlock x q.b.id (fun b => { b with dupBad := true })) else drainRow u q v)) :
    writeAct s y t a q v = drainFollowed w t v.row a q.b.id := by
  subst hw hu ht
  rfl

/-! The verdict on a block. -/

theorem exec_checksumVerdict {b : OBlock} (hx : x = getTile s t.toNat) (ha : a = absAcy s t.toNat acy) (hon : aclkOn s = true)
    (hb : verdictBlock x a = some b) : exec (.checksumVerdict t acy) s = .next (verdictAct s t.toNat a b) := by
  subst hx ha
  calc exec (.checksumVerdict t acy) s = execChecksumVerdict t acy s := rfl
    _ = _ := by simp only [execChecksumVerdict, hon, hb, Bool.not_true, Bool.false_eq_true, if_false]

theorem verdictBlock_spec {b : OBlock} (h : verdictBlock x a = some b) : b.drainDone = some (a - 96) ∧ 96 ≤ a := by
  have hp := List.find?_some h
  simp only [Bool.and_eq_true, beq_iff_eq, decide_eq_true_eq] at hp
  exact ⟨hp.1.2, hp.2⟩

/-- A verified block's lines are free. -/
theorem freeLines_free (l : List Unver) (b : OBlock) : ∀ i ∈ freeLines l b a, i.blk = b.id → i.free.isSome = true := by
  intro i hi hblk
  obtain ⟨j, -, rfl⟩ := List.mem_map.mp hi
  by_cases hj : ((j.blk == b.id || b.prevIds.contains j.blk) && j.free.isNone) = true
  · rw [if_pos hj, Option.isSome_some]
  · rw [if_neg hj] at hblk ⊢
    rw [hblk, beq_self_eq_true, Bool.true_or, Bool.true_and] at hj
    simpa [Option.isSome_iff_ne_none] using hj

end

end Sys2Proof.Machine


/-! Statistics, precision decisions and repeats (O53; 07 R235 to R237; 08 R262 to R269; 11 R359). -/

namespace Sys2Proof.Machine

section Words
variable {x : Tile}

/-! Words of the tile store. -/

theorem tsBytes_add (x : Tile) (a m n : Nat) : tsBytes x a (m + n) = tsBytes x a m ++ tsBytes x (a + m) n := by
  induction m generalizing a with
  | zero => rw [Nat.zero_add, tsBytes, List.nil_append, Nat.add_zero]
  | succ m ih => rw [Nat.succ_add, tsBytes, ih, tsBytes, List.cons_append, Nat.succ_add_eq_add_succ]

/-- Bytes inside a written run are the run's. -/
theorem tsBytes_tsWrite_inside {a j n : Nat} {l : List Byte} (h : smRising none x.store = true) (hjn : j + n ≤ l.length) :
    tsBytes (tsWrite x a l) (a + j) n = (l.drop j).take n := by
  have hall : tsBytes (tsWrite x a l) a j ++ (tsBytes (tsWrite x a l) (a + j) n ++
      tsBytes (tsWrite x a l) (a + j + n) (l.length - (j + n))) = l := by
    calc _ = tsBytes (tsWrite x a l) a (j + (n + (l.length - (j + n)))) := by rw [tsBytes_add, tsBytes_add]
      _ = l := by
        rw [show j + (n + (l.length - (j + n))) = l.length by omega]
        exact tsBytes_tsWrite_same h
  have hj := length_tsBytes (tsWrite x a l) a j
  have hn := length_tsBytes (tsWrite x a l) (a + j) n
  calc tsBytes (tsWrite x a l) (a + j) n
      = ((tsBytes (tsWrite x a l) a j ++ (tsBytes (tsWrite x a l) (a + j) n ++
          tsBytes (tsWrite x a l) (a + j + n) (l.length - (j + n)))).drop j).take n := by
        rw [List.drop_left' hj, List.take_left' hn]
    _ = (l.drop j).take n := by rw [hall]

/-- Word i of a list of words written out. -/
theorem word_flatMap (l : List Nat) {i : Nat} (hi : i < l.length) :
    ((l.flatMap (leBytes 4)).drop (4 * i)).take 4 = leBytes 4 (l.getD i 0) := by
  induction l generalizing i with
  | nil => exact absurd hi (Nat.not_lt_zero i)
  | cons v l ih =>
    have hlen : (leBytes 4 v).length = 4 := length_leBytes 4 v
    rw [List.flatMap_cons]
    cases i with
    | zero => rw [Nat.mul_zero, List.drop_zero, List.take_left' hlen, List.getD_cons_zero]
    | succ i =>
      rw [Nat.mul_succ, Nat.add_comm, ← List.drop_drop, List.drop_left' hlen, List.getD_cons_succ]
      exact ih (Nat.lt_of_succ_lt_succ hi)

theorem length_flatMap_words (l : List Nat) : (l.flatMap (leBytes 4)).length = 4 * l.length := by
  induction l with
  | nil => rfl
  | cons v l ih => rw [List.flatMap_cons, List.length_append, length_leBytes, ih, List.length_cons, Nat.mul_succ, Nat.add_comm]

theorem tsNat_tsWrite_word {a i : Nat} {l : List Nat} (h : smRising none x.store = true) (hi : i < l.length) :
    tsNat (tsWrite x a (l.flatMap (leBytes 4))) (a + 4 * i) 4 = l.getD i 0 % 2 ^ 32 := by
  rw [tsNat, tsBytes_tsWrite_inside h (by rw [length_flatMap_words]; omega), word_flatMap l hi, leNat_leBytes]

end Words

section
variable {s : State} {t : TileIx} {acy a : Nat} {x : Tile}

/-! Statistics. -/

/-- The statistic that a feed leaves at position i of its vector: joined with what another feed of the same acycle found there, or
with what it finds when it accumulates (R237). -/
def statNew (x : Tile) (mode : Nat) (amax : List (Nat × Nat)) (off acy i : Nat) : Nat :=
  if x.lastStat.1 = acy + 1 ∧ x.lastStat.2.1 ≤ off + 4 * i ∧ off + 4 * i < x.lastStat.2.1 + 4 * x.lastStat.2.2.length then
    statMax (statMax (x.lastStat.2.2.getD ((off + 4 * i - x.lastStat.2.1) / 4) 0) (tsNat x (off + 4 * i) 4))
      (smGet (fun _ => 0) amax i)
  else if mode = 1 then statMax (tsNat x (off + 4 * i) 4) (smGet (fun _ => 0) amax i) else smGet (fun _ => 0) amax i

theorem statNew_alone {mode : Nat} {amax : List (Nat × Nat)} {off i : Nat}
    (h : x.lastStat.1 ≠ a + 1 ∨ off + 4 * i < x.lastStat.2.1 ∨ x.lastStat.2.1 + 4 * x.lastStat.2.2.length ≤ off + 4 * i) :
    statNew x mode amax off a i =
      if mode = 1 then statMax (tsNat x (off + 4 * i) 4) (smGet (fun _ => 0) amax i) else smGet (fun _ => 0) amax i := by
  rw [statNew, if_neg (by omega)]

theorem statNew_shared {mode : Nat} {amax : List (Nat × Nat)} {off i j : Nat} (h : x.lastStat.1 = a + 1)
    (hij : off + 4 * i = x.lastStat.2.1 + 4 * j) (hj : j < x.lastStat.2.2.length) :
    statNew x mode amax off a i =
      statMax (statMax (x.lastStat.2.2.getD j 0) (tsNat x (off + 4 * i) 4)) (smGet (fun _ => 0) amax i) := by
  rw [statNew, if_pos (by omega), show (off + 4 * i - x.lastStat.2.1) / 4 = j by omega]

theorem exec_statsWrite {f : BitVec 1} {fd : FeedSt} (hx : x = getTile s t.toNat) (ha : a = absAcy s t.toNat acy)
    (hon : aclkOn s = true) (hfd : statsFeed x f.toNat a = some fd) :
    exec (.statsWrite t f acy) s = .next (statsAct s t.toNat a fd) := by
  subst hx ha
  calc exec (.statsWrite t f acy) s = execStatsWrite t f acy s := rfl
    _ = _ := by simp only [execStatsWrite, hon, hfd, Bool.not_true, Bool.false_eq_true, if_false]

theorem getD_map_range (g : Nat → Nat) {n i : Nat} (hi : i < n) : ((List.range n).map g).getD i 0 = g i := by
  rw [List.getD_eq_getElem?_getD, List.getElem?_map, List.getElem?_range hi, Option.map_some, Option.getD_some]

/-- The statistics written are the feed's tile alone: its vector's words, and the feed is over. -/
theorem statsAct_eq {t : Nat} {fd : FeedSt} {k : Fcb} {v : Nat} (hx : x = getTile s t) (hk : k = fcbAt s t fd.fcb)
    (hv : v = k.statOff + 4 * statBase (tdesc s t k.desc) k) :
    ∃ y, statsAct s t a fd = setTile s t y ∧ (∀ g ∈ y.feeds, g.tag ≠ fd.tag) ∧ ∀ c,
      tsGet y c = tsGet (tsWrite x v (((List.range k.klen).map (statNew x k.stats fd.amax v a)).flatMap (leBytes 4))) c := by
  subst hv hk hx
  refine ⟨_, rfl, fun g hg => ?_, fun c => ?_⟩
  · simpa using (List.mem_filter.mp hg).2
  · refine congrArg (fun l => tsGet (tsWrite (getTile s t) _ (l.flatMap (leBytes 4))) c) (List.map_congr_left fun i hi => ?_)
    rw [List.mem_range] at hi
    rw [statNew, getD_map_range _ hi]

/-- The vector's words, and every other byte, after the statistics. -/
theorem stats_show {y : Tile} {v n : Nat} {l : List Nat} (h : smRising none x.store = true) (hl : l.length = n)
    (hy : ∀ c, tsGet y c = tsGet (tsWrite x v (l.flatMap (leBytes 4))) c) :
    (∀ i, i < n → tsNat y (v + 4 * i) 4 = l.getD i 0 % 2 ^ 32) ∧ ∀ i, (i < v ∨ v + 4 * n ≤ i) → tsGet y i = tsGet x i := by
  refine ⟨fun i hi => ?_, fun i hi => ?_⟩
  · rw [tsNat, tsBytes_congr fun c _ _ => hy c, ← tsNat, tsNat_tsWrite_word h (hl ▸ hi)]
  · rw [hy, tsGet_tsWrite_out h (by rw [length_flatMap_words, hl]; exact hi)]

/-! Decisions. -/

theorem exec_fallbackDecision {b : OBlock} (hx : x = getTile s t.toNat) (ha : a = absAcy s t.toNat acy)
    (hon : aclkOn s = true) (hb : decisionBlock x a = some b) :
    exec (.fallbackDecision t acy) s = .next (decideAct s t.toNat a b) := by
  subst hx ha
  calc exec (.fallbackDecision t acy) s = execFallbackDecision t acy s := rfl
    _ = _ := by simp only [execFallbackDecision, hon, hb, Bool.not_true, Bool.false_eq_true, if_false]

/-- A block decided, exhausted or not. -/
def decidedAs (s : State) (t : Nat) (b : OBlock) (d : Bool) : State :=
  updTile s t (fun x => updBlock x b.id (fun y => { y with decided := true, exhausted := d }))

variable {b : OBlock} {r : Prec} {n : Nat}

/-- The repeat that a trigger queues. -/
def repeatQueued (s : State) (t a : Nat) (b : OBlock) (r : Prec) : State :=
  precFirst (tcount (updTile s t (fun x => { x with replay := x.replay ++
    [{ blk := b, rung := b.rung + 1, kind := 1, cost := if b.rung = 0 then r.costFp8 else r.costBf16, at_ := a }] }))
    t 0x3E 1) t b.op (trigger b r) b.rung

theorem decideAct_cases (hr : r = precAt s n b.prec) : decideAct s n a b = updTile (writeReport
    (if trigger b r = 0 then decidedAs s n b (trigger b r != 0 && !decide (b.rung + 1 ≤ r.top))
     else if decide (b.rung + 1 ≤ r.top) then
       repeatQueued (decidedAs s n b (trigger b r != 0 && !decide (b.rung + 1 ≤ r.top))) n a b r
     else traise (decidedAs s n b (trigger b r != 0 && !decide (b.rung + 1 ≤ r.top))) n 10 b.op) n b.id) n sweepBlocks := by
  subst hr
  rfl

theorem decideAct_stands (hr : r = precAt s n b.prec) (h : trigger b r = 0) :
    decideAct s n a b = updTile (writeReport (decidedAs s n b false) n b.id) n sweepBlocks := by
  rw [decideAct_cases hr, if_pos h, h, bne_self_eq_false, Bool.false_and]

theorem decideAct_repeats (hr : r = precAt s n b.prec) (h : trigger b r ≠ 0) (hup : b.rung + 1 ≤ r.top) :
    decideAct s n a b =
      updTile (writeReport (repeatQueued (decidedAs s n b false) n a b r) n b.id) n sweepBlocks := by
  rw [decideAct_cases hr, if_neg h, decide_eq_true hup, if_pos rfl, Bool.not_true, Bool.and_false]

theorem decideAct_exhausted (hr : r = precAt s n b.prec) (h : trigger b r ≠ 0) (htop : r.top < b.rung + 1) :
    decideAct s n a b = updTile (writeReport (traise (decidedAs s n b true) n 10 b.op) n b.id) n sweepBlocks := by
  rw [decideAct_cases hr, if_neg h, decide_eq_false (Nat.not_le.mpr htop), if_neg Bool.false_ne_true, bne_iff_ne.mpr h,
    Bool.not_false, Bool.and_self]

/-- No trigger holds where no count passes its limit (R262). -/
theorem trigger_eq_zero (b : OBlock) (r : Prec) : trigger b r = 0 ↔ b.rung = 2 ∨ (b.ins.sat ≤ r.satLimit ∧
    b.ins.zero ≤ r.zeroLimit ∧ b.ins.zblk = 0 ∧ b.ins.sblk = 0 ∧ (b.rung = 0 → b.misses = 0)) := by
  rw [trigger, Decidable.imp_iff_not_or]
  constructor
  · intro h
    repeat' split at h
    all_goals omega
  · intro h
    repeat' split
    all_goals omega

/-! Repeats. -/

theorem exec_repeatStart {q : Repeat} {l : List Repeat} (hx : x = getTile s t.toNat) (ha : a = absAcy s t.toNat acy)
    (hq : x.replay = q :: l) (hat : a + 17 = repeatStart x q) (hwarm : warmActive s = false) (hoos : s.oos = false)
    (hfits : windowFits s t.toNat q = true) :
    exec (.repeatStart t acy) s = .next (repeatAct s t.toNat q l) := by
  subst hx ha
  calc exec (.repeatStart t acy) s = execRepeatStart t acy s := rfl
    _ = _ := by
      simp only [execRepeatStart, hq, guarded, hwarm, hoos, hfits, Bool.not_false, Bool.and_true]
      rw [if_pos (beq_iff_eq.mpr hat)]

theorem repeatAct_eq {t start : Nat} {q : Repeat} {l : List Repeat} (hx : x = getTile s t) (hstart : start = repeatStart x q)
    (hb : b = repeatBlock x q) :
    repeatAct s t q l = tcount (reopen (setTile s t { x with
      nextBlk := x.nextBlk + 1
      moveTag := x.moveTag + 1
      replay := l
      running := some b.id
      blocks := x.blocks ++ [b]
      repFree := start + q.cost }) t b start q.blk.passes) t 0x41 q.cost := by
  subst hb hstart hx
  rfl

end

end Sys2Proof.Machine


/-! What the array does at its acycles, put together (O53). -/

namespace Sys2Proof.Machine

section
variable {s : State} {t : TileIx} {acy a : Nat} {x : Tile}

theorem feedPresent_shows {f : BitVec 1} {lane : BitVec 10} {q : Present} {u : State}
    (hq : presentOf u t.toNat f.toNat lane.toNat = some q) (y z : Tile) (es : List Elem)
    (hr : smWf (fun _ => []) y.rowLinks = true) (hc : smWf (fun _ => []) y.colLinks = true)
    (hl : smWf (fun _ => (0, 0)) q.fd.lanes = true) (hz : z = presentStore y a q es) :
    (∀ k ∈ laneLinks f.toNat q.fd.shape lane.toNat, getLink z f.toNat k =
      getLink y f.toNat k ++ [{ blk := q.b.id, step := q.p.base + q.step, elems := es, at_ := a }]) ∧
    ∀ g ∈ z.feeds, g.tag = q.fd.tag → laneSteps g lane.toNat = q.step + 1 := by
  obtain ⟨hside, hlane⟩ := presentOf_spec hq
  rw [hz, ← hside, ← hlane]
  exact ⟨fun k hk => getLink_presentStore ⟨smWf_rising hr, smWf_rising hc⟩ (hlane ▸ lane.isLt) hk,
    laneSteps_presentStore (smWf_rising hl)⟩

theorem arrayStep_shows {r c : BitVec 7} {b : OBlock} {p : KPassSt} {e k : LinkEntry} (hx : x = getTile s t.toNat)
    (ha : a = absAcy s t.toNat acy) (hon : aclkOn s = true) (he : cellEntries x r.toNat c.toNat = some (b, p, e, k))
    (hat : a = stepAt x r.toNat c.toNat b e k) (hcells : smWf (fun _ => {}) x.cells = true) {inj : Option Nat}
    (hinj : inj = (if b.bf16 then none else injectHere s t.toNat r.toNat c.toNat)) :
    ∃ y ev v w, exec (.arrayStep t r c acy) s = .next (arithEvent (if r.toNat = 0 ∧ c.toNat = 0 then tcount v t.toNat 0x20 1 else v)
        t.toNat (cellPlace b r.toNat c.toNat (p.step0 + (e.step - p.base)) a) ev) ∧
      v = (if inj.isSome then injectUsed w else w) ∧
      w = noteStalls (setTile s t.toNat y) t.toNat 0x21 (stallFrom x r.toNat c.toNat b p e.step) a ∧
      (r.toNat < 64 → c.toNat < 64 → ((getCell y r.toNat c.toNat).act, ev) = cellStep (getCell x r.toNat c.toNat).act
        (stepTerms e.elems k.elems inj).1 ∧
        (inj = none → (stepTerms e.elems k.elems inj).1 = (stepPairs e.elems k.elems).map (fun q => (q.1.value, q.2.value)))) ∧
      (getCell y r.toNat c.toNat).next = e.step + 1 ∧ (getCell y r.toNat c.toNat).at_ = a ∧
      (b.bf16 = false → inj = none → (getCell y r.toNat c.toNat).res = ((getCell x r.toNat c.toNat).res +
        toRes ((stepPairs e.elems k.elems).foldl (fun n q => n + q.1.int * q.2.int) 0)) % resP) ∧
      ∀ j, j ≠ 65 * r.toNat + c.toNat → smGet (fun _ => {}) y.cells j = smGet (fun _ => ({} : Cell)) x.cells j := by
  have hrise := smWf_rising hcells
  rw [exec_arrayStep hx ha hon he hat]
  subst hx
  have hcell := getCell_cellStored (a := a) t.toNat r.toNat c.toNat b p e k inj hrise
  refine ⟨cellStored s t.toNat r.toNat c.toNat a b p e k inj, _, _, _, congrArg _ (cellAct_eq _ _ _ _ _ _ _ hinj rfl rfl), rfl, rfl,
    fun hr hc => ⟨?_, fun hnone => ?_⟩, ?_, ?_, fun hb hnone => ?_, fun j hj => smGet_cellStored_ne b p e k inj hrise hj⟩
  · rw [hcell, decide_eq_true hr, decide_eq_true hc, Bool.and_self]
    exact steppedCell_act _ b p e k inj
  · rw [hnone, stepTerms_plain]
  · rw [hcell]
    rfl
  · rw [hcell]
    rfl
  · rw [hcell, hnone]
    exact steppedCell_res (a := a) (getCell (getTile s t.toNat) r.toNat c.toNat) (r.toNat < 64 && c.toNat < 64) p e k hb

theorem outlierStep_shows {r c : BitVec 7} {b : OBlock} {p : KPassSt} (hx : x = getTile s t.toNat)
    (ha : a = absAcy s t.toNat acy) (hon : aclkOn s = true) (hdue : outlierDue x r.toNat c.toNat = some (b, p))
    (howes : (getCell x r.toNat c.toNat).outDue = true) (hnext : 0 < (getCell x r.toNat c.toNat).next)
    (hat : a = (getCell x r.toNat c.toNat).at_ + 1) (hcells : smWf (fun _ => {}) x.cells = true) :
    ∃ y ev, exec (.outlierStep t r c acy) s = .next (arithEvent (if r.toNat = 0 ∧ c.toNat = 0 then
        tcount (setTile s t.toNat y) t.toNat 0x20 1 else setTile s t.toNat y) t.toNat
        (cellPlace b r.toNat c.toNat (p.step0 + p.steps) a) ev) ∧
      ((getCell y r.toNat c.toNat).act, ev) = cellStep (getCell x r.toNat c.toNat).act (outlierTerms b p r.toNat c.toNat) ∧
      (getCell y r.toNat c.toNat).outDue = false ∧
      ∀ j, j ≠ 65 * r.toNat + c.toNat → smGet (fun _ => {}) y.cells j = smGet (fun _ => ({} : Cell)) x.cells j := by
  have hrise := smWf_rising hcells
  rw [exec_outlierStep hx ha hon hdue howes hnext hat]
  subst hx
  refine ⟨_, _, congrArg _ (outlierAct_eq _ _ _ b p rfl), ?_, ?_, fun j hj => smGet_setCell_ne _ hj hrise⟩
  · rw [getCell_setCell_same _ _ _ hrise]
    rfl
  · rw [getCell_setCell_same _ _ _ hrise]
    rfl

theorem arraySwap_shows {r : BitVec 7} {b : OBlock} (hx : x = getTile s t.toNat) (hc : s.canon = true)
    (hslack : a ≤ b.schedSwap + b.slack) :
    ∃ v, Host.Outcome.next (swapAct s t.toNat r.toNat a b) = (.next v : Host.Outcome State Fault Refusal) ∧
      v = { s with tiles := v.tiles } ∧ (∀ k, k ≠ t.toNat → getTile v k = getTile s k) ∧
      getTile v t.toNat = { setARow (swapCells x r.toNat) r.toNat { getARow x r.toNat with swaps := b.id + 1, swapAt := a } with
        running := (getTile v t.toNat).running } := by
  subst hx
  refine ⟨_, congrArg _ (swapAct_eq hslack), setTile_tiles_only _ _, fun k hk => getTile_setTile_ne _ hk (canon_tiles hc), ?_⟩
  rw [getTile_setTile_same _ _ (canon_tiles hc), ← rowSwapped]
  obtain ⟨run, hrun⟩ := swapEnded_eq (rowSwapped (getTile s t.toNat) r.toNat a b) b
  rw [hrun]

theorem drainRowEnter_shows {r : BitVec 6} {b : OBlock} (hx : x = getTile s t.toNat) (hb : enterBlock x r.toNat = some b)
    (hc : s.canon = true) (hrows : smWf (fun _ => {}) x.rows = true)
    (hrivals : (enterRivals x a).all (fun q => q.1 == r.toNat) = true)
    (hslack : r.toNat = 63 → b.late = true ∨ a ≤ b.schedSwap + 64 + b.slack) :
    ∃ v, Host.Outcome.next (enterAct s t.toNat r.toNat a b) = (.next v : Host.Outcome State Fault Refusal) ∧
      v = { s with tiles := v.tiles } ∧ (∀ k, k ≠ t.toNat → getTile v k = getTile s k) ∧
      (∃ v', (getTile v t.toNat).conv = x.conv ++ [v'] ∧ v'.blk = b.id ∧ v'.row = r.toNat ∧ v'.entered = a ∧
        v'.acc = (List.range 64).map (fun c => (getCell x r.toNat c).shd) ∧
        v'.res = (List.range 64).map (fun c => (getCell x r.toNat c).shRes) ∧ v'.chk = (getCell x r.toNat 64).shRes) ∧
      (getARow (getTile v t.toNat) r.toNat).entered = (getARow x r.toNat).swaps := by
  subst hx
  refine ⟨_, congrArg _ (enterAct_eq hb hrivals hslack), setTile_tiles_only _ _,
    fun k hk => getTile_setTile_ne _ hk (canon_tiles hc), ?_, ?_⟩
  · rw [getTile_setTile_same _ _ (canon_tiles hc), (rowEntered_frame _ _ _ _).2]
    refine ⟨_, rfl, rfl, rfl, rfl, ?_, ?_, rfl⟩
    · exact List.map_map ..
    · exact List.map_map ..
  · rw [getTile_setTile_same _ _ (canon_tiles hc), getARow_rowEntered (smWf_rising hrows)]

theorem statsWrite_shows {f : BitVec 1} {fd : FeedSt} {k : Fcb} {v : Nat} (hx : x = getTile s t.toNat)
    (ha : a = absAcy s t.toNat acy) (hon : aclkOn s = true) (hfd : statsFeed x f.toNat a = some fd)
    (hk : k = fcbAt s t.toNat fd.fcb) (hv : v = k.statOff + 4 * statBase (tdesc s t.toNat k.desc) k)
    (hstore : smWf (fun _ => (0 : Byte)) x.store = true) :
    ∃ y, exec (.statsWrite t f acy) s = .next (setTile s t.toNat y) ∧ (∀ g ∈ y.feeds, g.tag ≠ fd.tag) ∧
      (∀ i, i < k.klen → (x.lastStat.1 ≠ a + 1 ∨ v + 4 * i < x.lastStat.2.1 ∨ x.lastStat.2.1 + 4 * x.lastStat.2.2.length ≤ v + 4 * i) →
        tsNat y (v + 4 * i) 4 = (if k.stats = 1 then
          statMax (tsNat x (v + 4 * i) 4) (smGet (fun _ => 0) fd.amax i) else smGet (fun _ => 0) fd.amax i) % 2 ^ 32) ∧
      (∀ i j, i < k.klen → x.lastStat.1 = a + 1 → v + 4 * i = x.lastStat.2.1 + 4 * j → j < x.lastStat.2.2.length →
        tsNat y (v + 4 * i) 4 = statMax (statMax (x.lastStat.2.2.getD j 0) (tsNat x (v + 4 * i) 4)) (smGet (fun _ => 0) fd.amax i) % 2 ^ 32) ∧
      ∀ i, (i < v ∨ v + 4 * k.klen ≤ i) → tsGet y i = tsGet x i := by
  rw [exec_statsWrite hx ha hon hfd]
  obtain ⟨y, hy, htags, hbytes⟩ := statsAct_eq (a := a) hx hk hv
  obtain ⟨hwords, hout⟩ := stats_show (n := k.klen) (smWf_rising hstore) (by rw [List.length_map, List.length_range]) hbytes
  refine ⟨y, congrArg _ hy, htags, fun i hi halone => ?_, fun i j hi hshared hij hj => ?_, hout⟩
  · rw [hwords i hi, getD_map_range _ hi, statNew_alone halone]
  · rw [hwords i hi, getD_map_range _ hi, statNew_shared hshared hij hj]

end

/-- Settles O53: one lemma for each of the array's steps. -/
theorem arrayEvents : Obligations.ArrayEvents := by
  intro s t acy a x hx ha hon
  refine ⟨fun f lane q u hu hq hdue => ⟨exec_feedPresent ha hon hu hq hdue, feedPresent_shows hq⟩,
    fun r c b p e k he hat hcells inj hinj => arrayStep_shows hx ha hon he hat hcells hinj,
    fun r c b p hdue howes hnext hat hcells => outlierStep_shows hx ha hon hdue howes hnext hat hcells,
    fun r b hb hready hr hat => ?_, fun r b hb hready => ?_, ?_, fun b u hb hu => ?_,
    fun f fd k v hfd hk hv hstore => statsWrite_shows hx ha hon hfd hk hv hstore, fun b r u hb hr hu => ?_,
    fun q l b hq hat hwarm hoos hfits hb => ⟨?_, by rw [hb]; exact ⟨rfl, rfl, rfl, rfl⟩⟩⟩
  · rw [exec_arraySwap hx ha hon hb hready hr hat]
    exact ⟨rfl, fun hc hslack => arraySwap_shows hx hc hslack, fun hcells c hc => swapCells_cell (smWf_rising hcells) hc⟩
  · rw [exec_drainRowEnter hx ha hon hb hready]
    exact ⟨rfl, fun hc hrows hrivals hslack => drainRowEnter_shows hx hb hc hrows hrivals hslack⟩
  · intro r v b q y u w hy hv hb hq hat hu hw
    obtain ⟨rfl, ht⟩ := drainOf_spec hq
    rw [exec_drainRowWrite ha hon (hx ▸ hy) hv hb hq hat]
    have hrow : v.row = r.toNat := by simpa using List.find?_some hv
    have hfollow := writeAct_eq ht hu hw
    rw [hrow] at hfollow
    exact congrArg Host.Outcome.next hfollow
  · rw [exec_checksumVerdict hx ha hon hb]
    refine ⟨fun hok => ?_, fun hbad => ?_, fun l => freeLines_free l b, verdictBlock_spec hb⟩
    · rw [hu, verdictAct]
      simp only [hok, Bool.false_eq_true, if_false]
    · rw [hu, verdictAct]
      simp only [hbad, if_true]
  · rw [exec_fallbackDecision hx ha hon hb]
    subst hu
    exact ⟨fun h => congrArg _ (decideAct_stands hr h), fun h hup => congrArg _ (decideAct_repeats hr h hup),
      fun h htop => congrArg _ (decideAct_exhausted hr h htop), trigger_eq_zero b r⟩
  · rw [exec_repeatStart hx ha hq hat hwarm hoos hfits, repeatAct_eq hx hat hb]

end Sys2Proof.Machine
